-- ==== Sys2Proof/Word.lean ====
section
/-! DEFINITION. The word types and the shared data shapes: 64-bit words, bytes, 128-bit instruction words (R36), and sparse maps
(a list of key and value pairs with keys strictly rising and no entry equal to the value an unlisted key reads as). -/

namespace Sys2Proof

/-- A general register or doubleword (R8). -/
abbrev Word64 := BitVec 64
/-- One byte (R6). -/
abbrev Byte := BitVec 8
/-- One instruction word (R36). -/
abbrev Word128 := BitVec 128

/-- A sparse map from keys to values: the listed pairs, every other key reading as a default that the reader names. -/
abbrev SMap (α : Type) := List (Nat × α)

/-- Global tile number, 0-191 (R3). -/
abbrev TileId := Fin 192
/-- Die number, 0-11 (R3). -/
abbrev DieId := Fin 12
/-- Job number, 0-4,095 (R249). -/
abbrev JobId := Fin 4096
/-- User queue number, 0-1,023 (R248). -/
abbrev QueueId := Fin 1024
/-- Purlin port number 4 x die + port (R394). -/
abbrev PortId := Fin 48
/-- Rafter link number (R395). -/
abbrev LinkId := Fin 66

end Sys2Proof
end

