-- ==== Sys2Proof/Syntax.lean ====
section
/-! DEFINITION. The steps of the NK-M1224 as syntax: one constructor of `Instr` per row of spec/opcode_table.json.
The first 155 are the instructions of the opcode map (R49), with the operands their entries give; each carries its SYNC field (R41).
The other 93 are the events of the table (dispatcher, engines, homes, fabric, gang time, host, reset); they have no encoding
and carry what the outside or the schedule decides about them (which unit, which message). -/

namespace Sys2Proof

/-- The three streams of a tile (R142). -/
inductive Stream where | load | compute | store
  deriving DecidableEq, Repr

/-- The two hardware contexts of a core (R159). -/
inductive CtxKind where | user | service
  deriving DecidableEq, Repr

/-- Scalar width codes (R46). -/
inductive Width where | b | h | w | d
  deriving DecidableEq, Repr

/-- Element type codes (R46). -/
inductive ElemType where
  | s4 | z4 | s8 | z8 | s16 | z16 | s32 | z32 | e2m1 | e4m3 | e5m2 | h16 | bf16 | f32 | e8m0
  deriving DecidableEq, Repr

/-- Rounding codes (R46): the six modes of R126, and .dyn. -/
inductive RoundCode where | rne | rtz | rdn | rup | rna | rsr | dyn
  deriving DecidableEq, Repr

/-- Order codes (R46). -/
inductive Order where | rlx | acq | rel | ar | sc
  deriving DecidableEq, Repr

/-- Scope codes (R46). -/
inductive Scope where | tile | die | mod | sys
  deriving DecidableEq, Repr

/-- A general-register source: g0-g31 or tv (R37). -/
inductive GSrc where | g (r : Fin 32) | tv
  deriving DecidableEq, Repr

/-- A second source: a register, or the literal in IMM (R39). -/
inductive SrcLit where | reg (r : GSrc) | lit (imm : BitVec 32)
  deriving DecidableEq, Repr

/-- Queue selector of a wait or a post (R41). -/
inductive QSel where | first | second | both
  deriving DecidableEq, Repr

/-- The wait of a SYNC field: types 0-14 (R41). -/
structure WaitSpec where
  q : QSel
  ty : Fin 15
  deriving DecidableEq, Repr

/-- The value a post carries (R41). -/
inductive PostVal where | imm (v : BitVec 12) | reg (r : Fin 32)
  deriving DecidableEq, Repr

/-- The post of a SYNC field: types 0-13 (R41). -/
structure PostSpec where
  q : QSel
  ty : Fin 14
  nb : Bool
  val : PostVal
  deriving DecidableEq, Repr

/-- A SYNC field (R41): at most one wait and one post. -/
structure Sync where
  wait : Option WaitSpec := none
  post : Option PostSpec := none
  deriving DecidableEq, Repr

/-- D, A, B of the scalar arithmetic mould (R73). -/
structure Alu where
  w : Width
  d : Fin 32
  a : GSrc
  b : SrcLit
  deriving DecidableEq, Repr

/-- MULH variants (R73). -/
inductive MulhVar where | s | z | sz
  deriving DecidableEq, Repr

/-- MOVI variants (R78). -/
inductive MoviVar where | s | z | hi
  deriving DecidableEq, Repr

/-- LEA forms (R82). -/
inductive LeaForm where
  | idx (a b : GSrc) (shift : BitVec 3) (imm : BitVec 32)
  | off (a : GSrc) (imm : BitVec 32)
  | pcrel (imm : BitVec 32)
  deriving DecidableEq, Repr

/-- CMP and VCMP conditions (R83, R192). -/
inductive Cond where | eq | ne | lt | le | gt | ge | lo | ls | hi | hs | tst | ntst
  deriving DecidableEq, Repr

/-- CALL forms (R86). -/
inductive CallForm where | rel (imm : BitVec 32) | ind (a : GSrc) (imm : BitVec 32)
  deriving DecidableEq, Repr

/-- WAITF conditions (R106). -/
inductive FlagCond where | eq | ne | hs | lo
  deriving DecidableEq, Repr

/-- A memory operand (R93): base plus index register, or base plus literal offset. -/
structure MemOp where
  base : GSrc
  idx : SrcLit
  deriving DecidableEq, Repr

/-- ATOM operations (R99). -/
inductive AtomOp where | add | fadd | and | or | xor | swap | smin | smax | zmin | zmax | amax | arrive
  deriving DecidableEq, Repr

/-- Register groups (R48). -/
inductive Group where | n1 | n2 | n4
  deriving DecidableEq, Repr

/-- The second vector source, by the B modes of R180. -/
inductive VB where | vec (r : Fin 64) | reg (r : GSrc) | lit (imm : BitVec 32)
  deriving DecidableEq, Repr

/-- Operands of the integer and floating element-wise moulds (R190, R194). -/
structure VBin where
  t : ElemType
  n : Group
  d : Fin 64
  a : Fin 64
  b : VB
  deriving DecidableEq, Repr

/-- Operands of one-source vector entries. -/
structure VUn where
  t : ElemType
  n : Group
  d : Fin 64
  a : Fin 64
  deriving DecidableEq, Repr

/-- VFCMP conditions (R197). -/
inductive FCond where | eq | ne | lt | le | gt | ge | un | or
  deriving DecidableEq, Repr

/-- VRED operations (R207). -/
inductive RedOp where | add | max | min | amax | and | or | xor
  deriving DecidableEq, Repr

/-- VSCAN operations (R210). -/
inductive ScanOp where | add | max | min
  deriving DecidableEq, Repr

/-- VMGET forms (R212): the mask into a vector register, or the depth into a general register. -/
inductive VmgetForm where | mask (d : Fin 64) | depth (d : Fin 32)
  deriving DecidableEq, Repr

/-- SVRET variants (R369). -/
inductive SvretVar where | resume | skip | done (a : GSrc) | leave
  deriving DecidableEq, Repr

/-- CHWAIT forms (R330). -/
inductive ChwaitForm where | idle | wm (v : SrcLit)
  deriving DecidableEq, Repr

/-- The flag a transfer names: its scope and the register that holds its address (R322, R326). -/
structure FlagSpec where
  scope : Scope
  reg : Fin 32
  deriving DecidableEq, Repr

/-- The operands of a record transfer DLD, DST, DRED (R322). -/
structure RecXfer where
  ch : Fin 8
  base : GSrc
  off : GSrc
  imm : BitVec 32
  ver : BitVec 16
  deriving DecidableEq, Repr

/-- The operands of an index-list transfer DLDX, DSTX (R322, R324). -/
structure ListXfer where
  ch : Fin 8
  base : GSrc
  off : GSrc
  list : GSrc
  count : BitVec 32
  ver : BitVec 16
  deriving DecidableEq, Repr

/-- The operands of a linear transfer DCPY, RGET, DSTL, RPUT, DFILL (R322, R325). -/
structure LinXfer where
  ch : Fin 8
  base : GSrc
  off : GSrc
  len : GSrc
  imm : BitVec 32
  deriving DecidableEq, Repr

/-- A Purlin packet: the fields of the header flit of R401 with its payload. -/
structure Packet where
  ty : BitVec 8
  ctl : BitVec 8
  len : BitVec 16
  dmod : BitVec 12
  ddie : DieId
  sdie : DieId
  smod : BitVec 12
  sch : BitVec 16
  seq : BitVec 32
  addr : BitVec 64
  opnd : BitVec 64
  cmpv : BitVec 64
  job : JobId
  attr : BitVec 16
  opc : BitVec 16
  status : BitVec 8
  stag : BitVec 16
  delta : BitVec 32
  payload : List Byte
  check : BitVec 32
  deriving DecidableEq, Repr

/-- The name of one source of fabric requests at this module: its SCH and the destination module (R404). -/
structure FabKey where
  sch : BitVec 16
  dmod : BitVec 12
  deriving DecidableEq, Repr

/-- A firmware image as the board controller supplies it (R460): the 256 bytes of its header and the bytes after it, the address the code is
linked for, and the writable data region (R461). -/
structure FwImage where
  header : List Byte
  code : List Byte
  codeBase : BitVec 64
  dataBase : BitVec 64
  dataSize : Nat
  deriving DecidableEq, Repr

/-- The latched causes of the security alarm (R465). -/
inductive AlarmCause where | tamper | glitch | tree
  deriving DecidableEq, Repr

/-- The steps of the machine, one constructor per row of spec/opcode_table.json. -/
inductive Instr where
  -- scalar (chapter 04)
  | nop (sy : Sync)
  | add (o : Alu) (sy : Sync)
  | sub (o : Alu) (sy : Sync)
  | mul (o : Alu) (sy : Sync)
  | mulh (v : MulhVar) (o : Alu) (sy : Sync)
  | div (signed : Bool) (o : Alu) (sy : Sync)
  | rem (signed : Bool) (o : Alu) (sy : Sync)
  | and (o : Alu) (sy : Sync)
  | or (o : Alu) (sy : Sync)
  | xor (o : Alu) (sy : Sync)
  | andn (o : Alu) (sy : Sync)
  | shl (o : Alu) (sy : Sync)
  | shr (signed : Bool) (o : Alu) (sy : Sync)
  | rot (o : Alu) (sy : Sync)
  | min (signed : Bool) (o : Alu) (sy : Sync)
  | max (signed : Bool) (o : Alu) (sy : Sync)
  | clz (w : Width) (d : Fin 32) (a : GSrc) (sy : Sync)
  | popc (w : Width) (d : Fin 32) (a : GSrc) (sy : Sync)
  | bfx (signed : Bool) (w : Width) (d : Fin 32) (a : GSrc) (pos : BitVec 6) (len : BitVec 7) (sy : Sync)
  | bfi (w : Width) (d : Fin 32) (a b : GSrc) (pos : BitVec 6) (len : BitVec 7) (sy : Sync)
  | movi (v : MoviVar) (w : Width) (d : Fin 32) (a : GSrc) (imm : BitVec 32) (sy : Sync)
  | sel (p : Fin 8) (o : Alu) (sy : Sync)
  | lea (d : Fin 32) (f : LeaForm) (sy : Sync)
  | cmp (c : Cond) (w : Width) (d : Fin 8) (a : GSrc) (b : SrcLit) (sy : Sync)
  | plog (d a b c : Fin 8) (table : BitVec 8) (sy : Sync)
  | madd (o : Alu) (c : GSrc) (sy : Sync)
  | ctlrd (d : Fin 32) (num : BitVec 8) (sy : Sync)
  | ctlwr (num : BitVec 8) (b : SrcLit) (sy : Sync)
  | br (neg : Bool) (p : Fin 8) (imm : BitVec 32) (sy : Sync)
  | jmp (a : GSrc) (imm : BitVec 32) (sy : Sync)
  | call (d : Fin 32) (f : CallForm) (sy : Sync)
  | ret (a : GSrc) (sy : Sync)
  | loop (lc : Fin 2) (x : BitVec 26) (n : SrcLit) (sy : Sync)
  | exit (v : SrcLit) (sy : Sync)
  | svcall (code : BitVec 32) (sy : Sync)
  | waitf (c : FlagCond) (idle : Bool) (dw : Bool) (acq : Bool) (sc : Scope) (d : Fin 32) (a : GSrc) (b : SrcLit) (m : GSrc) (sy : Sync)
  | tkget (d : Fin 32) (sy : Sync)
  | tkput (q : QSel) (nb : Bool) (b : SrcLit) (sy : Sync)
  | tkprime (q : QSel) (nb : Bool) (ty : BitVec 4) (v : BitVec 12) (count : BitVec 32) (sy : Sync)
  | tklevel (d : Fin 32) (out : Bool) (second : Bool) (sy : Sync)
  | ld (signed : Bool) (w : Width) (d : Fin 32) (m : MemOp) (sy : Sync)
  | st (w : Width) (m : MemOp) (c : GSrc) (sy : Sync)
  | ldg (signed : Bool) (w : Width) (o : Order) (sc : Scope) (d : Fin 32) (m : MemOp) (sy : Sync)
  | stg (w : Width) (o : Order) (sc : Scope) (m : MemOp) (c : GSrc) (sy : Sync)
  | atom (op : AtomOp) (dw : Bool) (o : Order) (sc : Scope) (d : Fin 32) (m : MemOp) (c : GSrc) (sy : Sync)
  | acas (dw : Bool) (o : Order) (sc : Scope) (d : Fin 32) (a b c : GSrc) (imm : BitVec 32) (sy : Sync)
  | fence (o : Order) (sc : Scope) (sy : Sync)
  | xfence (o : Order) (sc : Scope) (core engine : Bool) (sy : Sync)
  -- load core (chapters 10, 12, 14)
  | dld (x : RecXfer) (sy : Sync)
  | dldx (x : ListXfer) (sy : Sync)
  | dcpy (x : LinXfer) (sy : Sync)
  | rget (x : LinXfer) (sy : Sync)
  | dpf (ch : Fin 8) (base : GSrc) (imm : BitVec 32) (ver : BitVec 16) (sy : Sync)
  | tlook (d : Fin 32) (p : Fin 8) (a : GSrc) (sy : Sync)
  | tins (d : Fin 32) (a : GSrc) (b : SrcLit) (c : GSrc) (sy : Sync)
  | tdel (d : Fin 32) (p : Fin 8) (a : GSrc) (sy : Sync)
  | feedpop (try_ : Bool) (d : Fin 32) (a : GSrc) (sy : Sync)
  | feedpeek (d : Fin 32) (a : GSrc) (b : SrcLit) (sy : Sync)
  -- transfer class (chapter 14)
  | chwm (d : Fin 32) (ch : Fin 8) (sy : Sync)
  | chwait (ch : Fin 8) (f : ChwaitForm) (sy : Sync)
  | cfence (mask : BitVec 8) (sy : Sync)
  | chstat (d : Fin 32) (ch : Fin 8) (sy : Sync)
  | chcan (d : Fin 32) (ch : Fin 8) (sy : Sync)
  -- store core (chapters 10, 14)
  | dst (x : RecXfer) (fl : Option FlagSpec) (sy : Sync)
  | dstx (x : ListXfer) (fl : Option FlagSpec) (sy : Sync)
  | dred (x : RecXfer) (fl : Option FlagSpec) (sy : Sync)
  | rput (x : LinXfer) (fl : Option FlagSpec) (sy : Sync)
  | rflag (ch : Fin 8) (add : Bool) (sc : Scope) (a : GSrc) (b : SrcLit) (sy : Sync)
  | enq (reseal : Bool) (p : Fin 8) (q : SrcLit) (sy : Sync)
  | dstl (x : LinXfer) (sy : Sync)
  | dfill (x : LinXfer) (sy : Sync)
  -- vector and mask (chapter 08)
  | vld (n : Group) (d : Fin 64) (m : MemOp) (sy : Sync)
  | vst (n : Group) (m : MemOp) (c : Fin 64) (sy : Sync)
  | vldx (t : ElemType) (n : Group) (d : Fin 64) (a : GSrc) (b : Fin 64) (sh : BitVec 2) (sy : Sync)
  | vstx (t : ElemType) (n : Group) (a : GSrc) (b : Fin 64) (c : Fin 64) (sh : BitVec 2) (sy : Sync)
  | vsplat (t : ElemType) (n : Group) (d : Fin 64) (b : SrcLit) (sy : Sync)
  | vext (t : ElemType) (n : Group) (d : Fin 32) (a : Fin 64) (b : SrcLit) (sy : Sync)
  | vins (t : ElemType) (n : Group) (d : Fin 64) (a : GSrc) (b : SrcLit) (sy : Sync)
  | vmov (n : Group) (d a : Fin 64) (sy : Sync)
  | vadd (o : VBin) (sy : Sync)
  | vsub (o : VBin) (sy : Sync)
  | vmul (o : VBin) (sy : Sync)
  | vmulh (o : VBin) (sy : Sync)
  | vmadd (o : VBin) (c : Fin 64) (sy : Sync)
  | vadds (o : VBin) (sy : Sync)
  | vsubs (o : VBin) (sy : Sync)
  | vabsd (o : VBin) (sy : Sync)
  | vmin (o : VBin) (sy : Sync)
  | vmax (o : VBin) (sy : Sync)
  | vand (o : VBin) (sy : Sync)
  | vor (o : VBin) (sy : Sync)
  | vxor (o : VBin) (sy : Sync)
  | vshl (o : VBin) (sy : Sync)
  | vshr (o : VBin) (sy : Sync)
  | vclz (o : VUn) (sy : Sync)
  | vpopc (o : VUn) (sy : Sync)
  | vcmp (c : Cond) (o : VBin) (sy : Sync)
  | vsel (o : VBin) (c : Fin 64) (sy : Sync)
  | vdot4 (sa sb sat : Bool) (n : Group) (d a : Fin 64) (b : VB) (sy : Sync)
  | vdot8 (sa sb sat : Bool) (n : Group) (d a : Fin 64) (b : VB) (sy : Sync)
  | vidx (t : ElemType) (n : Group) (d : Fin 64) (b : SrcLit) (sy : Sync)
  | vfadd (r : RoundCode) (o : VBin) (sy : Sync)
  | vfsub (r : RoundCode) (o : VBin) (sy : Sync)
  | vfmul (r : RoundCode) (o : VBin) (sy : Sync)
  | vfma (r : RoundCode) (o : VBin) (c : Fin 64) (sy : Sync)
  | vfmin (o : VBin) (sy : Sync)
  | vfmax (o : VBin) (sy : Sync)
  | vfdiv (r : RoundCode) (o : VBin) (sy : Sync)
  | vfsqrt (r : RoundCode) (o : VUn) (sy : Sync)
  | vfrcp (r : RoundCode) (o : VUn) (sy : Sync)
  | vfrsq (r : RoundCode) (o : VUn) (sy : Sync)
  | vfexp2 (r : RoundCode) (o : VUn) (sy : Sync)
  | vflog2 (r : RoundCode) (o : VUn) (sy : Sync)
  | vftanh (r : RoundCode) (o : VUn) (sy : Sync)
  | vfcmp (c : FCond) (o : VBin) (sy : Sync)
  | vfclass (o : VUn) (sy : Sync)
  | vfabs (neg : Bool) (o : VUn) (sy : Sync)
  | vcvt (sat : Bool) (dst src : ElemType) (r : RoundCode) (n : Group) (d a : Fin 64) (sy : Sync)
  | vwiden (dst src : ElemType) (n : Group) (d a : Fin 64) (sy : Sync)
  | vnarrow (sat : Bool) (dst src : ElemType) (n : Group) (d a : Fin 64) (sy : Sync)
  | vscale (r : RoundCode) (o : VBin) (sy : Sync)
  | vbscale (dq : Bool) (narrow wide : ElemType) (r : RoundCode) (n : Group) (d a s : Fin 64) (sy : Sync)
  | vperm (t : ElemType) (n : Group) (d a b : Fin 64) (sy : Sync)
  | vslide (up : Bool) (t : ElemType) (n : Group) (d a : Fin 64) (b : SrcLit) (sy : Sync)
  | vzip (t : ElemType) (n : Group) (d a b : Fin 64) (sy : Sync)
  | vunzip (t : ElemType) (n : Group) (d a : Fin 64) (sy : Sync)
  | vred (op : RedOp) (wide acc : Bool) (r : RoundCode) (o : VUn) (sy : Sync)
  | vscan (op : ScanOp) (r : RoundCode) (o : VUn) (sy : Sync)
  | vcompr (o : VUn) (sy : Sync)
  | vexpnd (o : VUn) (sy : Sync)
  | vmpush (n : Group) (a : Fin 64) (sy : Sync)
  | vminv (sy : Sync)
  | vmpop (sy : Sync)
  | vmget (f : VmgetForm) (sy : Sync)
  | vmset (push : Bool) (a : Fin 64) (sy : Sync)
  | brmz (imm : BitVec 32) (sy : Sync)
  | vmcnt (d : Fin 32) (n : Group) (sy : Sync)
  -- matrix (chapter 09)
  | mcfg (reg : Fin 64) (v : SrcLit) (sy : Sync)
  | mgo (sy : Sync)
  | mzero (mask : BitVec 8) (sy : Sync)
  | mout (dst : ElemType) (r : RoundCode) (sat : Bool) (d : Fin 8) (a b : GSrc) (imm : BitVec 32) (sy : Sync)
  | mget (n : Group) (d : Fin 64) (a : Fin 8) (e : SrcLit) (sy : Sync)
  | mput (f32 : Bool) (add : Bool) (n : Group) (d : Fin 8) (a : Fin 64) (e : SrcLit) (sy : Sync)
  | mstat (d : Fin 32) (residue : Bool) (sy : Sync)
  | msync (sy : Sync)
  -- service (chapter 17)
  | svret (v : SvretVar) (sy : Sync)
  | saveq (d : Fin 32) (a : GSrc) (imm : BitVec 32) (sy : Sync)
  | loadq (a : GSrc) (imm : BitVec 32) (c : GSrc) (sy : Sync)
  | inflrd (d : Fin 32) (a : GSrc) (imm : BitVec 32) (sy : Sync)
  | inflwr (a : GSrc) (imm : BitVec 32) (c : GSrc) (sy : Sync)
  | idle (d : Fin 32) (a : GSrc) (sy : Sync)
  | stksave (d : Fin 32) (a : GSrc) (imm : BitVec 32) (sy : Sync)
  | stkload (a : GSrc) (imm : BitVec 32) (c : GSrc) (sy : Sync)
  | nestrd (d : Fin 32) (a : GSrc) (imm : BitVec 32) (sy : Sync)
  | nestwr (a : GSrc) (imm : BitVec 32) (c : GSrc) (sy : Sync)
  -- tile events (chapters 06, 09, 10, 14, 15, 17)
  | taskPlace (die : DieId)
  | taskStart (t : TileId)
  | tokenDeadlock (t : TileId)
  | hang (t : TileId)
  | drainComplete (t : TileId)
  | nestStart (t : TileId)
  | nestStep (t : TileId) (residue : Option (Fin 264))
  | moutRow (t : TileId)
  | transferStart (t : TileId) (st : Bool) (ch : Fin 8)
  | pieceComplete (t : TileId) (st : Bool) (ch : Fin 8) (piece : Nat)
  | transferFlag (t : TileId) (st : Bool) (ch : Fin 8)
  | cfenceRetire (t : TileId) (ord : Nat)
  | mdaWindow (t : TileId) (st : Bool) (ch : Fin 8) (window : Nat)
  | homeAccess (idx : Nat)
  -- dispatcher events (chapter 10)
  | qnotify (q : QueueId)
  | packetTake (q : QueueId)
  | packetStart (id : Nat)
  | packetComplete (id : Nat)
  | feedPush (id : Nat)
  | phaseComplete (id : Nat)
  | queueEnable (q : QueueId) (v : BitVec 64)
  | queueDisable (q : QueueId)
  | jobPreempt (j : JobId)
  | jobResume (j : JobId)
  | savedTaskPlace (t : TileId)
  | jxinv (j : JobId)
  | jxinvDone (j : JobId)
  | serviceDoorbell (t : TileId)
  | idleTimeWake (t : TileId) (st : Stream)
  | registerWrite (off : BitVec 32) (four : Bool) (v : BitVec 64)
  | tmctlWrite (v : BitVec 64)
  -- fabric events (chapter 19)
  | purlinRead (p : Packet)
  | purlinWrite (p : Packet)
  | purlinAtomic (p : Packet)
  | purlinCombine (p : Packet)
  | purlinMaquette (p : Packet)
  | readRsp (p : Packet)
  | ack (p : Packet)
  | atomicRsp (p : Packet)
  | nack (p : Packet)
  | retransmit (k : FabKey) (seq : BitVec 32)
  | fabricTimeout (k : FabKey) (seq : BitVec 32)
  | requestDiscard (idx : Nat)
  | replayStateFree (die : DieId) (smod : BitVec 12) (sch : BitVec 16)
  | waitfPoll (t : TileId) (st : Stream)
  | rafterLinkDown (l : LinkId)
  | purlinPortDown (p : PortId)
  | creditInterval (p : PortId)
  | limitFlit (p : PortId) (epoch : BitVec 16) (limits : Vector (BitVec 16) 8)
  | limitAck (p : PortId) (epoch : BitVec 16)
  -- gang-time events (chapter 20)
  | gangArm (p : Packet)
  | quiesce (g : BitVec 64)
  | firstDecision (g : BitVec 64)
  | gangDecide (p : Packet)
  | ridgeAction (g : BitVec 64)
  | gangVerdict (p : Packet)
  | secondDecision (g : BitVec 64)
  | gangFallback (p : Packet)
  | gangReady (p : Packet)
  | gangGo (p : Packet)
  | gangQuery (p : Packet)
  | queryResend (g : BitVec 64)
  | fallbackTimeout (g : BitVec 64)
  | undecided (g : BitVec 64)
  | decisionExpire (g : BitVec 64)
  | ptpSync (master : Nat) (offset : Int)
  | holdoverTimeout
  | uncertaintyTick
  | ppsIn (offset : Int)
  | ppsOut
  | ppsOutEnd
  -- host events (chapter 19)
  | hostMemRead (hpa : BitVec 64) (len : Nat) (tag : Nat)
  | hostMemWrite (hpa : BitVec 64) (data : List Byte)
  | backInvalidateRsp (sector : Nat)
  | hostWindowRsp (tag : Nat) (data : List Byte)
  -- reset, security, power (chapter 23)
  | powerOn
  | coldReset
  | warmReset
  | boardReset (warm : Bool)
  | thermalTrip
  | firmwareSupply (f : FwImage)
  | purlinTrain (p : PortId)
  | encInit
  | encInitDone
  | keyLoad (k : Fin 64) (off : BitVec 64)
  | keyClear (k : Fin 64)
  | keyDone (k : Fin 64)
  | securityAlarm (c : AlarmCause)
  | attestRequest (off : BitVec 64)
  | attestDone
  | throttleTick (power : BitVec 16) (temp : BitVec 16)
  | bringUpStepComplete
  | purlinPacketDiscard (p : Packet)
  deriving DecidableEq, Repr

end Sys2Proof
end

