-- ==== Sys2Proof/WellFormed.lean ====
section
/-! DEFINITION. Which instructions the decoder may answer: the checks of step 5 of R35 that the operand types do not already make
(R37 tv without a wait, R38 and R46 codes an entry does not list, R80, R88, R99, R104, R109, R112, R167, R181, R200-R212, R231, R235).
Events have no encoding and are always well formed. -/

namespace Sys2Proof

/-- Element width in bits (R165). -/
def ElemType.width : ElemType → Nat
  | .s4 | .z4 | .e2m1 => 4
  | .s8 | .z8 | .e4m3 | .e5m2 | .e8m0 => 8
  | .s16 | .z16 | .h16 | .bf16 => 16
  | .s32 | .z32 | .f32 => 32

/-- Types 0x0-0x7 (R190). -/
def ElemType.isInt : ElemType → Bool
  | .s4 | .z4 | .s8 | .z8 | .s16 | .z16 | .s32 | .z32 => true
  | _ => false

/-- The types 0xB-0xD that the floating mould takes (R194). -/
def ElemType.isWideFloat : ElemType → Bool
  | .h16 | .bf16 | .f32 => true
  | _ => false

/-- The floating formats 0x8-0xD (R200). -/
def ElemType.isFloat : ElemType → Bool
  | .e2m1 | .e4m3 | .e5m2 | .h16 | .bf16 | .f32 => true
  | _ => false

/-- Signed integer types. -/
def ElemType.isSigned : ElemType → Bool
  | .s4 | .s8 | .s16 | .s32 => true
  | _ => false

/-- The number of registers of a group (R48). -/
def Group.size : Group → Nat
  | .n1 => 1
  | .n2 => 2
  | .n4 => 4

/-- The width in bits of a scalar width code (R69). -/
def Width.bits : Width → Nat
  | .b => 8
  | .h => 16
  | .w => 32
  | .d => 64

/-- A span of `s` registers based at `base` (R167). -/
def spanOk (s : Nat) (base : Fin 64) : Bool :=
  (s == 1 || s == 2 || s == 4 || s == 8) && base.val % s == 0

/-- tv is named only under a wait (R37). -/
def GSrc.ok (sy : Sync) : GSrc → Bool
  | .g _ => true
  | .tv => sy.wait.isSome

/-- The register of a second source obeys R37. -/
def SrcLit.ok (sy : Sync) : SrcLit → Bool
  | .reg r => r.ok sy
  | .lit _ => true

/-- Both registers of a memory operand obey R37. -/
def MemOp.ok (sy : Sync) (m : MemOp) : Bool := m.base.ok sy && m.idx.ok sy

/-- The sources of the scalar mould obey R37. -/
def Alu.ok (sy : Sync) (o : Alu) : Bool := o.a.ok sy && o.b.ok sy

/-- LEA sources (R82). -/
def LeaForm.ok (sy : Sync) : LeaForm → Bool
  | .idx a b _ _ => a.ok sy && b.ok sy
  | .off a _ => a.ok sy
  | .pcrel _ => true

/-- CALL source (R86). -/
def CallForm.ok (sy : Sync) : CallForm → Bool
  | .rel _ => true
  | .ind a _ => a.ok sy

/-- The limits of BFX and BFI (R80, R81). -/
def bfOk (wc : Width) (pos : BitVec 6) (len : BitVec 7) : Bool :=
  1 ≤ len.toNat && pos.toNat + len.toNat ≤ wc.bits

/-- The numbers CTLRD and CTLWR may name at step 5, service numbers left to the context check (R22, R362). -/
def ctlNumOk (n : BitVec 8) : Bool :=
  n.toNat ≤ 0x0A || (0x10 ≤ n.toNat && n.toNat ≤ 0x15) || 0x40 ≤ n.toNat

/-- ATOM widths by operation (R99). -/
def atomWidthOk (op : AtomOp) (dw : Bool) : Bool :=
  match op with
  | .fadd => !dw
  | .amax | .arrive => dw
  | _ => true

/-- The flag register of a transfer is not g0 (R322). -/
def flagOk : Option FlagSpec → Bool
  | none => true
  | some f => f.reg.val != 0

/-- Sources of a record transfer. -/
def RecXfer.ok (sy : Sync) (x : RecXfer) : Bool := x.base.ok sy && x.off.ok sy

/-- Sources of an index-list transfer. -/
def ListXfer.ok (sy : Sync) (x : ListXfer) : Bool := x.base.ok sy && x.off.ok sy && x.list.ok sy

/-- Sources of a linear transfer. -/
def LinXfer.ok (sy : Sync) (x : LinXfer) : Bool := x.base.ok sy && x.off.ok sy && x.len.ok sy

/-- The second vector source: its base under span `s`, or its register under R37. -/
def VB.ok (sy : Sync) (s : Nat) : VB → Bool
  | .vec r => spanOk s r
  | .reg r => r.ok sy
  | .lit _ => true

/-- Bases of a mould in which every operand spans n (R190, R194). -/
def VBin.ok (sy : Sync) (o : VBin) : Bool :=
  spanOk o.n.size o.d && spanOk o.n.size o.a && o.b.ok sy o.n.size

/-- Bases of a one-source mould. -/
def VUn.ok (o : VUn) : Bool := spanOk o.n.size o.d && spanOk o.n.size o.a

/-- The bases of a conversion from `src` to `dst` (R200): the narrow operand spans n, the wide one k × n. -/
def cvtSpanOk (dst src : ElemType) (n : Group) (d a : Fin 64) : Bool :=
  let wd := dst.width
  let ws := src.width
  if ws ≤ wd then spanOk (n.size * (wd / ws)) d && spanOk n.size a
  else spanOk n.size d && spanOk (n.size * (ws / wd)) a

/-- The legal pairs of VCVT (R200). -/
def cvtPairOk (dst src : ElemType) : Bool :=
  (src.isFloat && dst.isFloat && src != dst) || (src.isInt && dst.isFloat) || (src.isFloat && dst.isInt) ||
  (src == .e8m0 && dst.isWideFloat) || (src.isWideFloat && dst == .e8m0)

/-- The combinations of VRED (R207). -/
def redOk (op : RedOp) (wide : Bool) (r : RoundCode) (t : ElemType) : Bool :=
  (t.isInt || t.isWideFloat) &&
  (match op with
   | .and | .or | .xor => t.isInt
   | _ => true) &&
  (!wide || (op == .add && t.width != 32)) &&
  (r == .rne || (op == .add && t.isWideFloat))

/-- The combinations of VSCAN (R210). -/
def scanOk (op : ScanOp) (r : RoundCode) (t : ElemType) : Bool :=
  (t.isInt || t.isWideFloat) && (r == .rne || (op == .add && t.isWideFloat))

/-- The narrow and wide formats of VBSCALE (R203). -/
def bscaleOk (dq : Bool) (narrow wide : ElemType) (n : Group) (d a s : Fin 64) : Bool :=
  (narrow == .e2m1 || narrow == .e4m3 || narrow == .e5m2) && wide.isWideFloat && spanOk 1 s &&
  (if dq then cvtSpanOk wide narrow n d a else cvtSpanOk narrow wide n d a)

/-- The nest registers MCFG may name (R231). -/
def mcfgOk (r : Fin 64) : Bool := r.val ≤ 4 || (8 ≤ r.val && r.val ≤ 19)

/-- The FN byte of MOUT (R235). -/
def moutOk (dst : ElemType) (r : RoundCode) (sat : Bool) : Bool :=
  match dst with
  | .e4m3 | .e5m2 | .h16 | .bf16 => true
  | .f32 => r == .rne && !sat
  | .s8 | .s16 | .s32 => r == .rne
  | _ => false

/-- SVRET's register for .done obeys R37. -/
def SvretVar.ok (sy : Sync) : SvretVar → Bool
  | .done a => a.ok sy
  | _ => true

/-- Step 5 of R35 for an instruction of the map, given its operands; events are always well formed. -/
def Instr.wf : Instr → Bool
  | .add o sy | .sub o sy | .mul o sy | .mulh _ o sy | .div _ o sy | .rem _ o sy | .and o sy | .or o sy | .xor o sy
  | .andn o sy | .shl o sy | .shr _ o sy | .rot o sy | .min _ o sy | .max _ o sy | .sel _ o sy => o.ok sy
  | .clz _ _ a sy | .popc _ _ a sy => a.ok sy
  | .bfx _ wc _ a pos len sy => a.ok sy && bfOk wc pos len
  | .bfi wc _ a b pos len sy => a.ok sy && b.ok sy && bfOk wc pos len
  | .movi v wc _ a _ sy => a.ok sy && (match v with | .hi => wc == .d | _ => a == .g 0)
  | .lea _ f sy => f.ok sy
  | .cmp _ _ _ a b sy => a.ok sy && b.ok sy
  | .madd o c sy => o.ok sy && c.ok sy
  | .ctlrd _ num _ => ctlNumOk num
  | .ctlwr num b sy => ctlNumOk num && b.ok sy
  | .jmp a _ sy => a.ok sy
  | .call _ f sy => f.ok sy
  | .ret a sy => a.ok sy
  | .loop _ x n sy => x != 0 && n.ok sy
  | .exit v sy => v.ok sy
  | .waitf _ _ _ _ _ _ a b m sy => a.ok sy && b.ok sy && m.ok sy
  | .tkget _ sy => sy.wait.isSome
  | .tkput _ _ b sy => b.ok sy && (match b with | .lit i => i.toNat < 65536 | .reg _ => true)
  | .tkprime _ _ ty _ count _ => ty.toNat ≤ 13 && 1 ≤ count.toNat && count.toNat ≤ 16
  | .ld _ _ _ m sy => m.ok sy
  | .st _ m c sy => m.ok sy && c.ok sy
  | .ldg _ _ o _ _ m sy => m.ok sy && (o == .rlx || o == .acq || o == .sc)
  | .stg _ o _ m c sy => m.ok sy && c.ok sy && (o == .rlx || o == .rel || o == .sc)
  | .atom op dw _ _ _ m c sy =>
    m.ok sy && c.ok sy && atomWidthOk op dw && (match op with | .arrive => c == .g 0 | _ => true)
  | .acas _ _ _ _ a b c _ sy => a.ok sy && b.ok sy && c.ok sy
  | .fence o _ _ => o != .rlx
  | .xfence o _ core engine _ => o != .rlx && (core || engine)
  | .dld x sy => x.ok sy
  | .dldx x sy => x.ok sy
  | .dcpy x sy | .rget x sy | .dstl x sy | .dfill x sy => x.ok sy
  | .dpf _ base _ _ sy => base.ok sy
  | .tlook _ _ a sy | .tdel _ _ a sy => a.ok sy
  | .tins _ a b c sy => a.ok sy && b.ok sy && c.ok sy
  | .feedpop _ _ a sy => a.ok sy
  | .feedpeek _ a b sy => a.ok sy && b.ok sy
  | .chwait _ f sy => (match f with | .idle => true | .wm v => v.ok sy)
  | .cfence mask _ => mask != 0
  | .dst x fl sy | .dred x fl sy => x.ok sy && flagOk fl
  | .dstx x fl sy => x.ok sy && flagOk fl
  | .rput x fl sy => x.ok sy && flagOk fl
  | .rflag _ _ _ a b sy => a.ok sy && b.ok sy
  | .enq _ _ q sy => q.ok sy
  | .vld n d m sy => spanOk n.size d && m.ok sy
  | .vst n m c sy => spanOk n.size c && m.ok sy
  | .vldx t n d a b _ sy =>
    t.width != 4 && spanOk n.size d && spanOk (n.size * (32 / t.width)) b && a.ok sy
  | .vstx t n a b c _ sy =>
    t.width != 4 && spanOk n.size c && spanOk (n.size * (32 / t.width)) b && a.ok sy
  | .vsplat _ n d b sy => spanOk n.size d && b.ok sy
  | .vext _ n _ a b sy => spanOk n.size a && b.ok sy
  | .vins _ n d a b sy => spanOk n.size d && a.ok sy && b.ok sy
  | .vmov n d a _ => spanOk n.size d && spanOk n.size a
  | .vadd o sy | .vsub o sy | .vmul o sy | .vmulh o sy | .vadds o sy | .vsubs o sy | .vabsd o sy | .vmin o sy | .vmax o sy
  | .vand o sy | .vor o sy | .vxor o sy | .vshl o sy | .vshr o sy | .vcmp _ o sy => o.t.isInt && o.ok sy
  | .vmadd o c sy | .vsel o c sy => o.t.isInt && o.ok sy && spanOk o.n.size c
  | .vclz o _ | .vpopc o _ => o.t.isInt && o.ok
  | .vdot4 _ _ _ n d a b sy | .vdot8 _ _ _ n d a b sy => spanOk n.size d && spanOk n.size a && b.ok sy n.size
  | .vidx t n d b sy => t.isInt && spanOk n.size d && b.ok sy
  | .vfadd _ o sy | .vfsub _ o sy | .vfmul _ o sy | .vfdiv _ o sy | .vscale _ o sy | .vfmin o sy | .vfmax o sy
  | .vfcmp _ o sy => o.t.isWideFloat && o.ok sy
  | .vfma _ o c sy => o.t.isWideFloat && o.ok sy && spanOk o.n.size c
  | .vfsqrt _ o _ | .vfrcp _ o _ | .vfrsq _ o _ | .vfexp2 _ o _ | .vflog2 _ o _ | .vftanh _ o _ | .vfclass o _
  | .vfabs _ o _ => o.t.isWideFloat && o.ok
  | .vcvt _ td ts _ n d a _ => cvtPairOk td ts && cvtSpanOk td ts n d a
  | .vwiden td ts n d a _ => td.isInt && ts.isInt && ts.width < td.width && cvtSpanOk td ts n d a
  | .vnarrow _ td ts n d a _ => td.isInt && ts.isInt && td.width < ts.width && cvtSpanOk td ts n d a
  | .vbscale dq narrow wide _ n d a s _ => bscaleOk dq narrow wide n d a s
  | .vperm t n d a b _ => t.width != 4 && spanOk n.size d && spanOk n.size a && spanOk n.size b
  | .vslide _ _ n d a b sy => spanOk n.size d && spanOk n.size a && b.ok sy
  | .vzip _ n d a b _ => spanOk (2 * n.size) d && spanOk n.size a && spanOk n.size b
  | .vunzip _ n d a _ => spanOk (2 * n.size) d && spanOk (2 * n.size) a
  | .vred op wide _ r o _ => redOk op wide r o.t && spanOk o.n.size o.a
  | .vscan op r o _ => scanOk op r o.t && o.ok
  | .vcompr o _ | .vexpnd o _ => o.ok
  | .vmpush n a _ => spanOk n.size a
  | .mcfg reg v sy => mcfgOk reg && v.ok sy
  | .mzero mask _ => mask != 0
  | .mout td r sat _ a b _ sy => moutOk td r sat && a.ok sy && b.ok sy
  | .mget n d _ e sy => spanOk n.size d && e.ok sy
  | .mput _ _ n _ a e sy => spanOk n.size a && e.ok sy
  | .svret v sy => v.ok sy
  | .saveq _ a _ sy | .inflrd _ a _ sy | .stksave _ a _ sy | .nestrd _ a _ sy => a.ok sy
  | .loadq a _ c sy | .inflwr a _ c sy | .stkload a _ c sy | .nestwr a _ c sy => a.ok sy && c.ok sy
  | .idle _ a sy => a.ok sy
  | _ => true

end Sys2Proof
end

