-- ==== Sys2Proof/Decode.lean ====
section
/-! DEFINITION. The 128-bit instruction word (R36): the fields of every instruction from the encoding tables of its entry, the encoder,
and the decoder. The decoder reads the fields an entry uses and then accepts the word only if encoding what it read gives the word back,
so that every field and bit an entry does not use must be 0 (R38, R39). It answers by name: an unassigned OP, a reserved encoding of an
assigned OP, or the instruction. -/

namespace Sys2Proof

/-- The fields of a word but OP and SYNC (R36), as numbers. -/
structure Fields where
  fn : Nat := 0
  d : Nat := 0
  a : Nat := 0
  b : Nat := 0
  c : Nat := 0
  l : Bool := false
  g : Nat := 0
  x : Nat := 0
  imm : Nat := 0
  deriving DecidableEq, Repr

/-- IMM as 32 bits. -/
def Fields.immv (f : Fields) : BitVec 32 := BitVec.ofNat 32 f.imm
/-- The predicate the G field names (R45). -/
def Fields.pred (f : Fields) : Fin 8 := Fin.ofNat 8 f.g

/-- One bit of a number. -/
def bitOf (n k : Nat) : Bool := n / 2 ^ k % 2 == 1
/-- A bit as a number. -/
def ofBool (b : Bool) : Nat := if b then 1 else 0
/-- A one-bit variant: any other value is reserved. -/
def boolOf : Nat → Option Bool
  | 0 => some false
  | 1 => some true
  | _ => none
/-- A general or destination register 0-31 (R37). -/
def fin32 (n : Nat) : Option (Fin 32) := if h : n < 32 then some ⟨n, h⟩ else none
/-- A predicate, accumulator tile or channel 0-7 (R37). -/
def fin8 (n : Nat) : Option (Fin 8) := if h : n < 8 then some ⟨n, h⟩ else none
/-- A vector register 0-63 (R37). -/
def v64 (n : Nat) : Fin 64 := Fin.ofNat 64 n
/-- A register number in the low bits of X. -/
def lowFin32 (n : Nat) : Fin 32 := Fin.ofNat 32 n
/-- A predicate number in the low bits of X. -/
def lowFin8 (n : Nat) : Fin 8 := Fin.ofNat 8 n

/-- A general-register source (R37): 0-31, or 32 for tv. -/
def gsrc (n : Nat) : Option GSrc :=
  if h : n < 32 then some (.g ⟨n, h⟩) else if n = 32 then some .tv else none
/-- The field value of a source (R37). -/
def gsrcCode : GSrc → Nat
  | .g r => r.val
  | .tv => 32

/-- Width codes (R46). -/
def widthOf (n : Nat) : Width :=
  match n % 4 with
  | 0 => .b
  | 1 => .h
  | 2 => .w
  | _ => .d
/-- Width codes (R46). -/
def widthCode : Width → Nat
  | .b => 0
  | .h => 1
  | .w => 2
  | .d => 3

/-- Scope codes (R46). -/
def scopeOf (n : Nat) : Scope :=
  match n % 4 with
  | 0 => .tile
  | 1 => .die
  | 2 => .mod
  | _ => .sys
/-- Scope codes (R46). -/
def scopeCode : Scope → Nat
  | .tile => 0
  | .die => 1
  | .mod => 2
  | .sys => 3

/-- Order codes (R46); 5-7 are reserved. -/
def orderOf : Nat → Option Order
  | 0 => some .rlx
  | 1 => some .acq
  | 2 => some .rel
  | 3 => some .ar
  | 4 => some .sc
  | _ => none
/-- Order codes (R46). -/
def orderCode : Order → Nat
  | .rlx => 0
  | .acq => 1
  | .rel => 2
  | .ar => 3
  | .sc => 4

/-- Rounding codes (R46); 7 is reserved. -/
def roundOf : Nat → Option RoundCode
  | 0 => some .rne
  | 1 => some .rtz
  | 2 => some .rdn
  | 3 => some .rup
  | 4 => some .rna
  | 5 => some .rsr
  | 6 => some .dyn
  | _ => none
/-- Rounding codes (R46). -/
def roundCode : RoundCode → Nat
  | .rne => 0
  | .rtz => 1
  | .rdn => 2
  | .rup => 3
  | .rna => 4
  | .rsr => 5
  | .dyn => 6

/-- Type codes (R46); 0xF is reserved. -/
def typeOf : Nat → Option ElemType
  | 0x0 => some .s4
  | 0x1 => some .z4
  | 0x2 => some .s8
  | 0x3 => some .z8
  | 0x4 => some .s16
  | 0x5 => some .z16
  | 0x6 => some .s32
  | 0x7 => some .z32
  | 0x8 => some .e2m1
  | 0x9 => some .e4m3
  | 0xA => some .e5m2
  | 0xB => some .h16
  | 0xC => some .bf16
  | 0xD => some .f32
  | 0xE => some .e8m0
  | _ => none
/-- Type codes (R46). -/
def typeCode : ElemType → Nat
  | .s4 => 0x0
  | .z4 => 0x1
  | .s8 => 0x2
  | .z8 => 0x3
  | .s16 => 0x4
  | .z16 => 0x5
  | .s32 => 0x6
  | .z32 => 0x7
  | .e2m1 => 0x8
  | .e4m3 => 0x9
  | .e5m2 => 0xA
  | .h16 => 0xB
  | .bf16 => 0xC
  | .f32 => 0xD
  | .e8m0 => 0xE

/-- Group codes (R48); 3-7 are reserved. -/
def groupOf : Nat → Option Group
  | 0 => some .n1
  | 1 => some .n2
  | 2 => some .n4
  | _ => none
/-- Group codes (R48). -/
def groupCode : Group → Nat
  | .n1 => 0
  | .n2 => 1
  | .n4 => 2

/-- Queue selectors of a wait or post (R41); 0 names none. -/
def qselOf (n : Nat) : Option QSel :=
  match n % 4 with
  | 1 => some .first
  | 2 => some .second
  | 3 => some .both
  | _ => none
/-- Queue selectors (R41). -/
def qselCode : QSel → Nat
  | .first => 1
  | .second => 2
  | .both => 3

/-- MULH variants (R73). -/
def mulhVarOf : Nat → Option MulhVar
  | 0 => some .s
  | 1 => some .z
  | 2 => some .sz
  | _ => none
/-- MULH variants (R73). -/
def mulhVarCode : MulhVar → Nat
  | .s => 0
  | .z => 1
  | .sz => 2

/-- MOVI variants (R78). -/
def moviVarOf : Nat → Option MoviVar
  | 0 => some .s
  | 1 => some .z
  | 2 => some .hi
  | _ => none
/-- MOVI variants (R78). -/
def moviVarCode : MoviVar → Nat
  | .s => 0
  | .z => 1
  | .hi => 2

/-- Conditions of CMP and VCMP (R83). -/
def condOf : Nat → Option Cond
  | 0 => some .eq
  | 1 => some .ne
  | 2 => some .lt
  | 3 => some .le
  | 4 => some .gt
  | 5 => some .ge
  | 6 => some .lo
  | 7 => some .ls
  | 8 => some .hi
  | 9 => some .hs
  | 10 => some .tst
  | 11 => some .ntst
  | _ => none
/-- Conditions of CMP and VCMP (R83). -/
def condCode : Cond → Nat
  | .eq => 0
  | .ne => 1
  | .lt => 2
  | .le => 3
  | .gt => 4
  | .ge => 5
  | .lo => 6
  | .ls => 7
  | .hi => 8
  | .hs => 9
  | .tst => 10
  | .ntst => 11

/-- WAITF conditions (R106). -/
def flagCondOf (n : Nat) : FlagCond :=
  match n % 4 with
  | 0 => .eq
  | 1 => .ne
  | 2 => .hs
  | _ => .lo
/-- WAITF conditions (R106). -/
def flagCondCode : FlagCond → Nat
  | .eq => 0
  | .ne => 1
  | .hs => 2
  | .lo => 3

/-- ATOM operations (R99); 12-15 are reserved. -/
def atomOpOf : Nat → Option AtomOp
  | 0 => some .add
  | 1 => some .fadd
  | 2 => some .and
  | 3 => some .or
  | 4 => some .xor
  | 5 => some .swap
  | 6 => some .smin
  | 7 => some .smax
  | 8 => some .zmin
  | 9 => some .zmax
  | 10 => some .amax
  | 11 => some .arrive
  | _ => none
/-- ATOM operations (R99). -/
def atomOpCode : AtomOp → Nat
  | .add => 0
  | .fadd => 1
  | .and => 2
  | .or => 3
  | .xor => 4
  | .swap => 5
  | .smin => 6
  | .smax => 7
  | .zmin => 8
  | .zmax => 9
  | .amax => 10
  | .arrive => 11

/-- The width codes of ATOM and ACAS: 2 and 3 only (R98). -/
def dwOf : Nat → Option Bool
  | 2 => some false
  | 3 => some true
  | _ => none

/-- VFCMP conditions (R197); 8-15 are reserved. -/
def fcondOf : Nat → Option FCond
  | 0 => some .eq
  | 1 => some .ne
  | 2 => some .lt
  | 3 => some .le
  | 4 => some .gt
  | 5 => some .ge
  | 6 => some .un
  | 7 => some .or
  | _ => none
/-- VFCMP conditions (R197). -/
def fcondCode : FCond → Nat
  | .eq => 0
  | .ne => 1
  | .lt => 2
  | .le => 3
  | .gt => 4
  | .ge => 5
  | .un => 6
  | .or => 7

/-- VRED operations (R207). -/
def redOpOf : Nat → Option RedOp
  | 0 => some .add
  | 1 => some .max
  | 2 => some .min
  | 3 => some .amax
  | 4 => some .and
  | 5 => some .or
  | 6 => some .xor
  | _ => none
/-- VRED operations (R207). -/
def redOpCode : RedOp → Nat
  | .add => 0
  | .max => 1
  | .min => 2
  | .amax => 3
  | .and => 4
  | .or => 5
  | .xor => 6

/-- VSCAN operations (R210). -/
def scanOpOf : Nat → Option ScanOp
  | 0 => some .add
  | 1 => some .max
  | 2 => some .min
  | _ => none
/-- VSCAN operations (R210). -/
def scanOpCode : ScanOp → Nat
  | .add => 0
  | .max => 1
  | .min => 2

/-- MPUT types (R237): .f32 or .s32. -/
def mputTypeOf : Nat → Option Bool
  | 13 => some true
  | 6 => some false
  | _ => none

/-- X[0] of VIDX: 1 for a register, 0 for a literal (R190). -/
def regMode : SrcLit → Nat
  | .reg _ => 1
  | .lit _ => 0

/-- The second source in B, or in IMM under L = 1 (R39). -/
def Fields.srcLit (f : Fields) : Option SrcLit :=
  if f.l then some (.lit f.immv) else (gsrc f.b).map .reg
/-- The fields of a second source (R39). -/
def Fields.ofSrcLit : SrcLit → Fields
  | .reg r => { b := gsrcCode r }
  | .lit i => { l := true, imm := i.toNat }

/-- A source in A, or in IMM under L = 1 (R231, R264). -/
def Fields.aLit (f : Fields) : Option SrcLit :=
  if f.l then some (.lit f.immv) else (gsrc f.a).map .reg
/-- The fields of a source in A or IMM. -/
def Fields.ofALit : SrcLit → Fields
  | .reg r => { a := gsrcCode r }
  | .lit i => { l := true, imm := i.toNat }

/-- D, A, B and the width code of the scalar mould (R73). -/
def Fields.alu (f : Fields) : Option Alu :=
  (fin32 f.d).bind fun d => (gsrc f.a).bind fun a => f.srcLit.bind fun b => some ⟨widthOf f.fn, d, a, b⟩
/-- The fields of the scalar mould (R73). -/
def Fields.ofAlu (o : Alu) : Fields :=
  { Fields.ofSrcLit o.b with fn := widthCode o.w, d := o.d.val, a := gsrcCode o.a }
/-- Adds a variant to FN. -/
def Fields.addFn (f : Fields) (k : Nat) : Fields := { f with fn := f.fn + k }

/-- The base and index of a memory operand (R93). -/
def Fields.memOp (f : Fields) : Option MemOp :=
  (gsrc f.a).bind fun a => f.srcLit.bind fun b => some ⟨a, b⟩
/-- The fields of a memory operand (R93). -/
def Fields.ofMemOp (m : MemOp) : Fields := { Fields.ofSrcLit m.idx with a := gsrcCode m.base }

/-- LEA (R82): only the width .d. -/
def Fields.leaForm (f : Fields) : Option LeaForm :=
  match f.fn with
  | 3 =>
    if f.l then (gsrc f.a).bind fun a => some (.off a f.immv)
    else (gsrc f.a).bind fun a => (gsrc f.b).bind fun b => some (.idx a b (BitVec.ofNat 3 f.x) f.immv)
  | 7 => some (.pcrel f.immv)
  | _ => none
/-- The fields of LEA (R82). -/
def Fields.ofLea (d : Fin 32) : LeaForm → Fields
  | .idx a b s i => { fn := 3, d := d.val, a := gsrcCode a, b := gsrcCode b, x := s.toNat, imm := i.toNat }
  | .off a i => { fn := 3, d := d.val, a := gsrcCode a, l := true, imm := i.toNat }
  | .pcrel i => { fn := 7, d := d.val, imm := i.toNat }

/-- CALL (R86). -/
def Fields.callForm (f : Fields) : Option CallForm :=
  match f.fn with
  | 0 => some (.rel f.immv)
  | 1 => (gsrc f.a).bind fun a => some (.ind a f.immv)
  | _ => none
/-- The fields of CALL (R86). -/
def Fields.ofCall (d : Fin 32) : CallForm → Fields
  | .rel i => { d := d.val, imm := i.toNat }
  | .ind a i => { fn := 1, d := d.val, a := gsrcCode a, imm := i.toNat }

/-- A record transfer (R322). -/
def Fields.recXfer (f : Fields) : Option RecXfer :=
  (fin8 f.d).bind fun ch => (gsrc f.a).bind fun a => (gsrc f.b).bind fun b =>
    some ⟨ch, a, b, f.immv, BitVec.ofNat 16 f.x⟩
/-- The fields of a record transfer (R322). -/
def Fields.ofRecXfer (x : RecXfer) : Fields :=
  { d := x.ch.val, a := gsrcCode x.base, b := gsrcCode x.off, imm := x.imm.toNat, x := x.ver.toNat }

/-- An index-list transfer (R322). -/
def Fields.listXfer (f : Fields) : Option ListXfer :=
  (fin8 f.d).bind fun ch => (gsrc f.a).bind fun a => (gsrc f.b).bind fun b => (gsrc f.c).bind fun c =>
    some ⟨ch, a, b, c, f.immv, BitVec.ofNat 16 f.x⟩
/-- The fields of an index-list transfer (R322). -/
def Fields.ofListXfer (x : ListXfer) : Fields :=
  { d := x.ch.val, a := gsrcCode x.base, b := gsrcCode x.off, c := gsrcCode x.list, imm := x.count.toNat, x := x.ver.toNat }

/-- A linear transfer (R322). -/
def Fields.linXfer (f : Fields) : Option LinXfer :=
  (fin8 f.d).bind fun ch => (gsrc f.a).bind fun a => (gsrc f.b).bind fun b => (gsrc f.c).bind fun c =>
    some ⟨ch, a, b, c, f.immv⟩
/-- The fields of a linear transfer (R322). -/
def Fields.ofLinXfer (x : LinXfer) : Fields :=
  { d := x.ch.val, a := gsrcCode x.base, b := gsrcCode x.off, c := gsrcCode x.len, imm := x.imm.toNat }

/-- The flag of a transfer: register X[20:16], scope FN[1:0]; register 0 names no flag (R322). -/
def Fields.flagSpec (f : Fields) : Option FlagSpec :=
  if f.x / 65536 % 32 = 0 then none else some ⟨scopeOf f.fn, lowFin32 (f.x / 65536)⟩
/-- Adds the flag of a transfer (R322). -/
def Fields.addFlag (f : Fields) : Option FlagSpec → Fields
  | none => f
  | some s => { f with fn := f.fn + scopeCode s.scope, x := f.x + 65536 * s.reg.val }

/-- CHWAIT (R330). -/
def Fields.chwaitForm (f : Fields) : Option ChwaitForm :=
  match f.fn with
  | 0 => some .idle
  | 1 => f.srcLit.map .wm
  | _ => none
/-- The fields of CHWAIT (R330). -/
def Fields.ofChwait (ch : Fin 8) : ChwaitForm → Fields
  | .idle => { d := ch.val }
  | .wm v => { Fields.ofSrcLit v with fn := 1, d := ch.val }

/-- The second vector source in the B modes of R180. -/
def Fields.vb (f : Fields) : Option VB :=
  if f.l then some (.lit f.immv)
  else if f.x % 2 = 1 then (gsrc f.b).map .reg
  else some (.vec (v64 f.b))
/-- The fields of a second vector source (R180). -/
def Fields.ofVB : VB → Fields
  | .vec r => { b := r.val }
  | .reg r => { b := gsrcCode r, x := 1 }
  | .lit i => { l := true, imm := i.toNat }

/-- The two-source vector mould (R190, R194): type in FN[3:0]. -/
def Fields.vbin (f : Fields) : Option VBin :=
  (typeOf (f.fn % 16)).bind fun t => (groupOf f.g).bind fun n => f.vb.bind fun b => some ⟨t, n, v64 f.d, v64 f.a, b⟩
/-- The fields of the two-source vector mould. -/
def Fields.ofVBin (o : VBin) : Fields :=
  { Fields.ofVB o.b with fn := typeCode o.t, g := groupCode o.n, d := o.d.val, a := o.a.val }

/-- The one-source vector mould. -/
def Fields.vun (f : Fields) : Option VUn :=
  (typeOf (f.fn % 16)).bind fun t => (groupOf f.g).bind fun n => some ⟨t, n, v64 f.d, v64 f.a⟩
/-- The fields of the one-source vector mould. -/
def Fields.ofVUn (o : VUn) : Fields :=
  { fn := typeCode o.t, g := groupCode o.n, d := o.d.val, a := o.a.val }

/-- VMGET (R212). -/
def Fields.vmgetForm (f : Fields) : Option VmgetForm :=
  match f.fn with
  | 0 => some (.mask (v64 f.d))
  | 1 => (fin32 f.d).map .depth
  | _ => none
/-- The fields of VMGET (R212). -/
def Fields.ofVmget : VmgetForm → Fields
  | .mask d => { d := d.val }
  | .depth d => { fn := 1, d := d.val }

/-- SVRET variants (R369). -/
def Fields.svretVar (f : Fields) : Option SvretVar :=
  match f.fn with
  | 0 => some .resume
  | 1 => some .skip
  | 2 => (gsrc f.a).map .done
  | 3 => some .leave
  | _ => none
/-- The fields of SVRET (R369). -/
def Fields.ofSvret : SvretVar → Fields
  | .resume => {}
  | .skip => { fn := 1 }
  | .done a => { fn := 2, a := gsrcCode a }
  | .leave => { fn := 3 }


/-- The OP byte of each instruction (R49); events have none. -/
def opOf : Instr → Option (BitVec 8)
  | .nop _ => some 0x00
  | .add _ _ => some 0x01
  | .sub _ _ => some 0x02
  | .mul _ _ => some 0x03
  | .mulh _ _ _ => some 0x04
  | .div _ _ _ => some 0x05
  | .rem _ _ _ => some 0x06
  | .and _ _ => some 0x07
  | .or _ _ => some 0x08
  | .xor _ _ => some 0x09
  | .andn _ _ => some 0x0A
  | .shl _ _ => some 0x0B
  | .shr _ _ _ => some 0x0C
  | .rot _ _ => some 0x0D
  | .min _ _ _ => some 0x0E
  | .max _ _ _ => some 0x0F
  | .clz _ _ _ _ => some 0x10
  | .popc _ _ _ _ => some 0x11
  | .bfx _ _ _ _ _ _ _ => some 0x12
  | .bfi _ _ _ _ _ _ _ => some 0x13
  | .movi _ _ _ _ _ _ => some 0x14
  | .sel _ _ _ => some 0x15
  | .lea _ _ _ => some 0x16
  | .cmp _ _ _ _ _ _ => some 0x17
  | .plog _ _ _ _ _ _ => some 0x18
  | .madd _ _ _ => some 0x19
  | .ctlrd _ _ _ => some 0x1A
  | .ctlwr _ _ _ => some 0x1B
  | .br _ _ _ _ => some 0x1C
  | .jmp _ _ _ => some 0x1D
  | .call _ _ _ => some 0x1E
  | .ret _ _ => some 0x1F
  | .loop _ _ _ _ => some 0x20
  | .exit _ _ => some 0x21
  | .svcall _ _ => some 0x22
  | .waitf _ _ _ _ _ _ _ _ _ _ => some 0x23
  | .tkget _ _ => some 0x24
  | .tkput _ _ _ _ => some 0x25
  | .tkprime _ _ _ _ _ _ => some 0x26
  | .tklevel _ _ _ _ => some 0x27
  | .ld _ _ _ _ _ => some 0x28
  | .st _ _ _ _ => some 0x29
  | .ldg _ _ _ _ _ _ _ => some 0x2A
  | .stg _ _ _ _ _ _ => some 0x2B
  | .atom _ _ _ _ _ _ _ _ => some 0x2C
  | .acas _ _ _ _ _ _ _ _ _ => some 0x2D
  | .fence _ _ _ => some 0x2E
  | .xfence _ _ _ _ _ => some 0x2F
  | .dld _ _ => some 0x40
  | .dldx _ _ => some 0x41
  | .dcpy _ _ => some 0x42
  | .rget _ _ => some 0x43
  | .dpf _ _ _ _ _ => some 0x44
  | .tlook _ _ _ _ => some 0x45
  | .tins _ _ _ _ _ => some 0x46
  | .tdel _ _ _ _ => some 0x47
  | .feedpop _ _ _ _ => some 0x48
  | .feedpeek _ _ _ _ => some 0x49
  | .chwm _ _ _ => some 0x50
  | .chwait _ _ _ => some 0x51
  | .cfence _ _ => some 0x52
  | .chstat _ _ _ => some 0x53
  | .chcan _ _ _ => some 0x54
  | .dst _ _ _ => some 0x60
  | .dstx _ _ _ => some 0x61
  | .dred _ _ _ => some 0x62
  | .rput _ _ _ => some 0x63
  | .rflag _ _ _ _ _ _ => some 0x64
  | .enq _ _ _ _ => some 0x65
  | .dstl _ _ => some 0x66
  | .dfill _ _ => some 0x67
  | .vld _ _ _ _ => some 0x80
  | .vst _ _ _ _ => some 0x81
  | .vldx _ _ _ _ _ _ _ => some 0x82
  | .vstx _ _ _ _ _ _ _ => some 0x83
  | .vsplat _ _ _ _ _ => some 0x84
  | .vext _ _ _ _ _ _ => some 0x85
  | .vins _ _ _ _ _ _ => some 0x86
  | .vmov _ _ _ _ => some 0x87
  | .vadd _ _ => some 0x88
  | .vsub _ _ => some 0x89
  | .vmul _ _ => some 0x8A
  | .vmulh _ _ => some 0x8B
  | .vmadd _ _ _ => some 0x8C
  | .vadds _ _ => some 0x8D
  | .vsubs _ _ => some 0x8E
  | .vabsd _ _ => some 0x8F
  | .vmin _ _ => some 0x90
  | .vmax _ _ => some 0x91
  | .vand _ _ => some 0x92
  | .vor _ _ => some 0x93
  | .vxor _ _ => some 0x94
  | .vshl _ _ => some 0x95
  | .vshr _ _ => some 0x96
  | .vclz _ _ => some 0x97
  | .vpopc _ _ => some 0x98
  | .vcmp _ _ _ => some 0x99
  | .vsel _ _ _ => some 0x9A
  | .vdot4 _ _ _ _ _ _ _ _ => some 0x9B
  | .vdot8 _ _ _ _ _ _ _ _ => some 0x9C
  | .vidx _ _ _ _ _ => some 0x9D
  | .vfadd _ _ _ => some 0xA0
  | .vfsub _ _ _ => some 0xA1
  | .vfmul _ _ _ => some 0xA2
  | .vfma _ _ _ _ => some 0xA3
  | .vfmin _ _ => some 0xA4
  | .vfmax _ _ => some 0xA5
  | .vfdiv _ _ _ => some 0xA6
  | .vfsqrt _ _ _ => some 0xA7
  | .vfrcp _ _ _ => some 0xA8
  | .vfrsq _ _ _ => some 0xA9
  | .vfexp2 _ _ _ => some 0xAA
  | .vflog2 _ _ _ => some 0xAB
  | .vftanh _ _ _ => some 0xAC
  | .vfcmp _ _ _ => some 0xAD
  | .vfclass _ _ => some 0xAE
  | .vfabs _ _ _ => some 0xAF
  | .vcvt _ _ _ _ _ _ _ _ => some 0xB0
  | .vwiden _ _ _ _ _ _ => some 0xB1
  | .vnarrow _ _ _ _ _ _ _ => some 0xB2
  | .vscale _ _ _ => some 0xB3
  | .vbscale _ _ _ _ _ _ _ _ _ => some 0xB4
  | .vperm _ _ _ _ _ _ => some 0xB8
  | .vslide _ _ _ _ _ _ _ => some 0xB9
  | .vzip _ _ _ _ _ _ => some 0xBA
  | .vunzip _ _ _ _ _ => some 0xBB
  | .vred _ _ _ _ _ _ => some 0xBC
  | .vscan _ _ _ _ => some 0xBD
  | .vcompr _ _ => some 0xBE
  | .vexpnd _ _ => some 0xBF
  | .vmpush _ _ _ => some 0xC0
  | .vminv _ => some 0xC1
  | .vmpop _ => some 0xC2
  | .vmget _ _ => some 0xC3
  | .vmset _ _ _ => some 0xC4
  | .brmz _ _ => some 0xC5
  | .vmcnt _ _ _ => some 0xC6
  | .mcfg _ _ _ => some 0xE0
  | .mgo _ => some 0xE1
  | .mzero _ _ => some 0xE2
  | .mout _ _ _ _ _ _ _ _ => some 0xE3
  | .mget _ _ _ _ _ => some 0xE4
  | .mput _ _ _ _ _ _ _ => some 0xE5
  | .mstat _ _ _ => some 0xE6
  | .msync _ => some 0xE7
  | .svret _ _ => some 0xF0
  | .saveq _ _ _ _ => some 0xF1
  | .loadq _ _ _ _ => some 0xF2
  | .inflrd _ _ _ _ => some 0xF3
  | .inflwr _ _ _ _ => some 0xF4
  | .idle _ _ _ => some 0xF5
  | .stksave _ _ _ _ => some 0xF6
  | .stkload _ _ _ _ => some 0xF7
  | .nestrd _ _ _ _ => some 0xF8
  | .nestwr _ _ _ _ => some 0xF9
  | _ => none

/-- The SYNC field of each instruction; events have none. -/
def syncOf : Instr → Sync
  | .nop sy => sy
  | .add _ sy => sy
  | .sub _ sy => sy
  | .mul _ sy => sy
  | .mulh _ _ sy => sy
  | .div _ _ sy => sy
  | .rem _ _ sy => sy
  | .and _ sy => sy
  | .or _ sy => sy
  | .xor _ sy => sy
  | .andn _ sy => sy
  | .shl _ sy => sy
  | .shr _ _ sy => sy
  | .rot _ sy => sy
  | .min _ _ sy => sy
  | .max _ _ sy => sy
  | .clz _ _ _ sy => sy
  | .popc _ _ _ sy => sy
  | .bfx _ _ _ _ _ _ sy => sy
  | .bfi _ _ _ _ _ _ sy => sy
  | .movi _ _ _ _ _ sy => sy
  | .sel _ _ sy => sy
  | .lea _ _ sy => sy
  | .cmp _ _ _ _ _ sy => sy
  | .plog _ _ _ _ _ sy => sy
  | .madd _ _ sy => sy
  | .ctlrd _ _ sy => sy
  | .ctlwr _ _ sy => sy
  | .br _ _ _ sy => sy
  | .jmp _ _ sy => sy
  | .call _ _ sy => sy
  | .ret _ sy => sy
  | .loop _ _ _ sy => sy
  | .exit _ sy => sy
  | .svcall _ sy => sy
  | .waitf _ _ _ _ _ _ _ _ _ sy => sy
  | .tkget _ sy => sy
  | .tkput _ _ _ sy => sy
  | .tkprime _ _ _ _ _ sy => sy
  | .tklevel _ _ _ sy => sy
  | .ld _ _ _ _ sy => sy
  | .st _ _ _ sy => sy
  | .ldg _ _ _ _ _ _ sy => sy
  | .stg _ _ _ _ _ sy => sy
  | .atom _ _ _ _ _ _ _ sy => sy
  | .acas _ _ _ _ _ _ _ _ sy => sy
  | .fence _ _ sy => sy
  | .xfence _ _ _ _ sy => sy
  | .dld _ sy => sy
  | .dldx _ sy => sy
  | .dcpy _ sy => sy
  | .rget _ sy => sy
  | .dpf _ _ _ _ sy => sy
  | .tlook _ _ _ sy => sy
  | .tins _ _ _ _ sy => sy
  | .tdel _ _ _ sy => sy
  | .feedpop _ _ _ sy => sy
  | .feedpeek _ _ _ sy => sy
  | .chwm _ _ sy => sy
  | .chwait _ _ sy => sy
  | .cfence _ sy => sy
  | .chstat _ _ sy => sy
  | .chcan _ _ sy => sy
  | .dst _ _ sy => sy
  | .dstx _ _ sy => sy
  | .dred _ _ sy => sy
  | .rput _ _ sy => sy
  | .rflag _ _ _ _ _ sy => sy
  | .enq _ _ _ sy => sy
  | .dstl _ sy => sy
  | .dfill _ sy => sy
  | .vld _ _ _ sy => sy
  | .vst _ _ _ sy => sy
  | .vldx _ _ _ _ _ _ sy => sy
  | .vstx _ _ _ _ _ _ sy => sy
  | .vsplat _ _ _ _ sy => sy
  | .vext _ _ _ _ _ sy => sy
  | .vins _ _ _ _ _ sy => sy
  | .vmov _ _ _ sy => sy
  | .vadd _ sy => sy
  | .vsub _ sy => sy
  | .vmul _ sy => sy
  | .vmulh _ sy => sy
  | .vmadd _ _ sy => sy
  | .vadds _ sy => sy
  | .vsubs _ sy => sy
  | .vabsd _ sy => sy
  | .vmin _ sy => sy
  | .vmax _ sy => sy
  | .vand _ sy => sy
  | .vor _ sy => sy
  | .vxor _ sy => sy
  | .vshl _ sy => sy
  | .vshr _ sy => sy
  | .vclz _ sy => sy
  | .vpopc _ sy => sy
  | .vcmp _ _ sy => sy
  | .vsel _ _ sy => sy
  | .vdot4 _ _ _ _ _ _ _ sy => sy
  | .vdot8 _ _ _ _ _ _ _ sy => sy
  | .vidx _ _ _ _ sy => sy
  | .vfadd _ _ sy => sy
  | .vfsub _ _ sy => sy
  | .vfmul _ _ sy => sy
  | .vfma _ _ _ sy => sy
  | .vfmin _ sy => sy
  | .vfmax _ sy => sy
  | .vfdiv _ _ sy => sy
  | .vfsqrt _ _ sy => sy
  | .vfrcp _ _ sy => sy
  | .vfrsq _ _ sy => sy
  | .vfexp2 _ _ sy => sy
  | .vflog2 _ _ sy => sy
  | .vftanh _ _ sy => sy
  | .vfcmp _ _ sy => sy
  | .vfclass _ sy => sy
  | .vfabs _ _ sy => sy
  | .vcvt _ _ _ _ _ _ _ sy => sy
  | .vwiden _ _ _ _ _ sy => sy
  | .vnarrow _ _ _ _ _ _ sy => sy
  | .vscale _ _ sy => sy
  | .vbscale _ _ _ _ _ _ _ _ sy => sy
  | .vperm _ _ _ _ _ sy => sy
  | .vslide _ _ _ _ _ _ sy => sy
  | .vzip _ _ _ _ _ sy => sy
  | .vunzip _ _ _ _ sy => sy
  | .vred _ _ _ _ _ sy => sy
  | .vscan _ _ _ sy => sy
  | .vcompr _ sy => sy
  | .vexpnd _ sy => sy
  | .vmpush _ _ sy => sy
  | .vminv sy => sy
  | .vmpop sy => sy
  | .vmget _ sy => sy
  | .vmset _ _ sy => sy
  | .brmz _ sy => sy
  | .vmcnt _ _ sy => sy
  | .mcfg _ _ sy => sy
  | .mgo sy => sy
  | .mzero _ sy => sy
  | .mout _ _ _ _ _ _ _ sy => sy
  | .mget _ _ _ _ sy => sy
  | .mput _ _ _ _ _ _ sy => sy
  | .mstat _ _ sy => sy
  | .msync sy => sy
  | .svret _ sy => sy
  | .saveq _ _ _ sy => sy
  | .loadq _ _ _ sy => sy
  | .inflrd _ _ _ sy => sy
  | .inflwr _ _ _ sy => sy
  | .idle _ _ sy => sy
  | .stksave _ _ _ sy => sy
  | .stkload _ _ _ sy => sy
  | .nestrd _ _ _ sy => sy
  | .nestwr _ _ _ sy => sy
  | _ => {}

/-- The fields of each instruction but OP and SYNC, from the encoding tables of the entries. -/
def fieldsOf : Instr → Fields
  | .nop _ => (({} : Fields))
  | .add o _ => (Fields.ofAlu o)
  | .sub o _ => (Fields.ofAlu o)
  | .mul o _ => (Fields.ofAlu o)
  | .mulh v o _ => ((Fields.ofAlu o).addFn (4 * mulhVarCode v))
  | .div sg o _ => ((Fields.ofAlu o).addFn (if sg then 0 else 4))
  | .rem sg o _ => ((Fields.ofAlu o).addFn (if sg then 0 else 4))
  | .and o _ => (Fields.ofAlu o)
  | .or o _ => (Fields.ofAlu o)
  | .xor o _ => (Fields.ofAlu o)
  | .andn o _ => (Fields.ofAlu o)
  | .shl o _ => (Fields.ofAlu o)
  | .shr sg o _ => ((Fields.ofAlu o).addFn (if sg then 4 else 0))
  | .rot o _ => (Fields.ofAlu o)
  | .min sg o _ => ((Fields.ofAlu o).addFn (if sg then 0 else 4))
  | .max sg o _ => ((Fields.ofAlu o).addFn (if sg then 0 else 4))
  | .clz wd d a _ => ({ fn := widthCode wd, d := d.val, a := gsrcCode a } : Fields)
  | .popc wd d a _ => ({ fn := widthCode wd, d := d.val, a := gsrcCode a } : Fields)
  | .bfx sg wd d a pos len _ => ({ fn := widthCode wd + (if sg then 4 else 0), d := d.val, a := gsrcCode a, x := pos.toNat + 64 * len.toNat } : Fields)
  | .bfi wd d a b pos len _ => ({ fn := widthCode wd, d := d.val, a := gsrcCode a, b := gsrcCode b, x := pos.toNat + 64 * len.toNat } : Fields)
  | .movi v wd d a imm _ => ({ fn := widthCode wd + 4 * moviVarCode v, d := d.val, a := gsrcCode a, l := true, imm := imm.toNat } : Fields)
  | .sel p o _ => { Fields.ofAlu o with g := p.val }
  | .lea d fm _ => (Fields.ofLea d fm)
  | .cmp cd wd d a b _ => { Fields.ofSrcLit b with fn := widthCode wd + 4 * condCode cd, d := d.val, a := gsrcCode a }
  | .plog d a b c tb _ => ({ fn := 3, d := d.val, a := a.val, b := b.val, c := c.val, imm := tb.toNat } : Fields)
  | .madd o c _ => { Fields.ofAlu o with c := gsrcCode c }
  | .ctlrd d num _ => ({ d := d.val, x := num.toNat } : Fields)
  | .ctlwr num b _ => { Fields.ofSrcLit b with x := num.toNat }
  | .br ng p imm _ => ({ fn := ofBool ng, g := p.val, imm := imm.toNat } : Fields)
  | .jmp a imm _ => ({ a := gsrcCode a, imm := imm.toNat } : Fields)
  | .call d fm _ => (Fields.ofCall d fm)
  | .ret a _ => ({ a := gsrcCode a } : Fields)
  | .loop lc x n _ => { Fields.ofSrcLit n with fn := lc.val, x := x.toNat }
  | .exit v _ => (Fields.ofSrcLit v)
  | .svcall code _ => ({ imm := code.toNat } : Fields)
  | .waitf cd il dw aq sc d a b m _ => { Fields.ofSrcLit b with fn := ofBool il * 128 + flagCondCode cd * 32 + ofBool dw * 16 + ofBool aq * 8 + scopeCode sc, d := d.val, a := gsrcCode a, c := gsrcCode m }
  | .tkget d _ => ({ d := d.val } : Fields)
  | .tkput q nb b _ => { Fields.ofSrcLit b with fn := qselCode q + 4 * ofBool nb }
  | .tkprime q nb ty v count _ => ({ fn := qselCode q + 4 * ofBool nb, x := ty.toNat + 16 * v.toNat, imm := count.toNat } : Fields)
  | .tklevel d out sec _ => ({ fn := ofBool out + 2 * ofBool sec, d := d.val } : Fields)
  | .ld sg wd d m _ => { Fields.ofMemOp m with fn := widthCode wd + 4 * ofBool sg, d := d.val }
  | .st wd m c _ => { Fields.ofMemOp m with fn := widthCode wd, c := gsrcCode c }
  | .ldg sg wd o sc d m _ => { Fields.ofMemOp m with fn := widthCode wd + 4 * ofBool sg + 8 * orderCode o + 64 * scopeCode sc, d := d.val }
  | .stg wd o sc m c _ => { Fields.ofMemOp m with fn := widthCode wd + 8 * orderCode o + 64 * scopeCode sc, c := gsrcCode c }
  | .atom op dw o sc d m c _ => { Fields.ofMemOp m with fn := 2 + ofBool dw + 16 * atomOpCode op, d := d.val, c := gsrcCode c, x := orderCode o + 8 * scopeCode sc }
  | .acas dw o sc d a b c imm _ => ({ fn := 2 + ofBool dw, d := d.val, a := gsrcCode a, b := gsrcCode b, c := gsrcCode c, x := orderCode o + 8 * scopeCode sc, imm := imm.toNat } : Fields)
  | .fence o sc _ => ({ fn := orderCode o + 8 * scopeCode sc } : Fields)
  | .xfence o sc cr en _ => ({ fn := orderCode o + 8 * scopeCode sc + 32 * ofBool cr + 64 * ofBool en } : Fields)
  | .dld x _ => (Fields.ofRecXfer x)
  | .dldx x _ => (Fields.ofListXfer x)
  | .dcpy x _ => (Fields.ofLinXfer x)
  | .rget x _ => (Fields.ofLinXfer x)
  | .dpf ch base imm ver _ => ({ d := ch.val, a := gsrcCode base, imm := imm.toNat, x := ver.toNat } : Fields)
  | .tlook d p a _ => ({ a := gsrcCode a, x := d.val + 32 * p.val } : Fields)
  | .tins d a b c _ => { Fields.ofSrcLit b with a := gsrcCode a, c := gsrcCode c, x := d.val }
  | .tdel d p a _ => ({ a := gsrcCode a, x := d.val + 32 * p.val } : Fields)
  | .feedpop tr d a _ => ({ fn := ofBool tr, a := gsrcCode a, x := d.val } : Fields)
  | .feedpeek d a b _ => { Fields.ofSrcLit b with a := gsrcCode a, x := d.val }
  | .chwm d ch _ => ({ d := ch.val, x := d.val } : Fields)
  | .chwait ch fm _ => (Fields.ofChwait ch fm)
  | .cfence mask _ => ({ x := mask.toNat } : Fields)
  | .chstat d ch _ => ({ d := ch.val, x := d.val } : Fields)
  | .chcan d ch _ => ({ d := ch.val, x := d.val } : Fields)
  | .dst x fl _ => ((Fields.ofRecXfer x).addFlag fl)
  | .dstx x fl _ => ((Fields.ofListXfer x).addFlag fl)
  | .dred x fl _ => ((Fields.ofRecXfer x).addFlag fl)
  | .rput x fl _ => ((Fields.ofLinXfer x).addFlag fl)
  | .rflag ch ad sc a b _ => { Fields.ofSrcLit b with fn := scopeCode sc + 4 * ofBool ad, d := ch.val, a := gsrcCode a }
  | .enq rs p q _ => { Fields.ofALit q with fn := ofBool rs, x := p.val }
  | .dstl x _ => (Fields.ofLinXfer x)
  | .dfill x _ => (Fields.ofLinXfer x)
  | .vld n d m _ => { Fields.ofMemOp m with g := groupCode n, d := d.val }
  | .vst n m c _ => { Fields.ofMemOp m with g := groupCode n, c := c.val }
  | .vldx t n d a b sh _ => ({ fn := typeCode t, g := groupCode n, d := d.val, a := gsrcCode a, b := b.val, x := sh.toNat } : Fields)
  | .vstx t n a b c sh _ => ({ fn := typeCode t, g := groupCode n, a := gsrcCode a, b := b.val, c := c.val, x := sh.toNat } : Fields)
  | .vsplat t n d b _ => { Fields.ofSrcLit b with fn := typeCode t, g := groupCode n, d := d.val }
  | .vext t n d a b _ => { Fields.ofSrcLit b with fn := typeCode t, g := groupCode n, d := d.val, a := a.val }
  | .vins t n d a b _ => { Fields.ofSrcLit b with fn := typeCode t, g := groupCode n, d := d.val, a := gsrcCode a }
  | .vmov n d a _ => ({ g := groupCode n, d := d.val, a := a.val } : Fields)
  | .vadd o _ => (Fields.ofVBin o)
  | .vsub o _ => (Fields.ofVBin o)
  | .vmul o _ => (Fields.ofVBin o)
  | .vmulh o _ => (Fields.ofVBin o)
  | .vmadd o c _ => { Fields.ofVBin o with c := c.val }
  | .vadds o _ => (Fields.ofVBin o)
  | .vsubs o _ => (Fields.ofVBin o)
  | .vabsd o _ => (Fields.ofVBin o)
  | .vmin o _ => (Fields.ofVBin o)
  | .vmax o _ => (Fields.ofVBin o)
  | .vand o _ => (Fields.ofVBin o)
  | .vor o _ => (Fields.ofVBin o)
  | .vxor o _ => (Fields.ofVBin o)
  | .vshl o _ => (Fields.ofVBin o)
  | .vshr o _ => (Fields.ofVBin o)
  | .vclz o _ => (Fields.ofVUn o)
  | .vpopc o _ => (Fields.ofVUn o)
  | .vcmp cd o _ => ((Fields.ofVBin o).addFn (16 * condCode cd))
  | .vsel o c _ => { Fields.ofVBin o with c := c.val }
  | .vdot4 sa sb sat n d a b _ => { Fields.ofVB b with fn := ofBool sa + 2 * ofBool sb + 4 * ofBool sat, g := groupCode n, d := d.val, a := a.val }
  | .vdot8 sa sb sat n d a b _ => { Fields.ofVB b with fn := ofBool sa + 2 * ofBool sb + 4 * ofBool sat, g := groupCode n, d := d.val, a := a.val }
  | .vidx t n d b _ => { Fields.ofSrcLit b with fn := typeCode t, g := groupCode n, d := d.val, x := regMode b }
  | .vfadd r o _ => ((Fields.ofVBin o).addFn (16 * roundCode r))
  | .vfsub r o _ => ((Fields.ofVBin o).addFn (16 * roundCode r))
  | .vfmul r o _ => ((Fields.ofVBin o).addFn (16 * roundCode r))
  | .vfma r o c _ => { (Fields.ofVBin o).addFn (16 * roundCode r) with c := c.val }
  | .vfmin o _ => (Fields.ofVBin o)
  | .vfmax o _ => (Fields.ofVBin o)
  | .vfdiv r o _ => ((Fields.ofVBin o).addFn (16 * roundCode r))
  | .vfsqrt r o _ => ((Fields.ofVUn o).addFn (16 * roundCode r))
  | .vfrcp r o _ => ((Fields.ofVUn o).addFn (16 * roundCode r))
  | .vfrsq r o _ => ((Fields.ofVUn o).addFn (16 * roundCode r))
  | .vfexp2 r o _ => ((Fields.ofVUn o).addFn (16 * roundCode r))
  | .vflog2 r o _ => ((Fields.ofVUn o).addFn (16 * roundCode r))
  | .vftanh r o _ => ((Fields.ofVUn o).addFn (16 * roundCode r))
  | .vfcmp cd o _ => ((Fields.ofVBin o).addFn (16 * fcondCode cd))
  | .vfclass o _ => (Fields.ofVUn o)
  | .vfabs ng o _ => ((Fields.ofVUn o).addFn (16 * ofBool ng))
  | .vcvt sat dst src r n d a _ => ({ fn := typeCode dst + 16 * roundCode r + 128 * ofBool sat, x := typeCode src, g := groupCode n, d := d.val, a := a.val } : Fields)
  | .vwiden dst src n d a _ => ({ fn := typeCode dst, x := typeCode src, g := groupCode n, d := d.val, a := a.val } : Fields)
  | .vnarrow sat dst src n d a _ => ({ fn := typeCode dst + 128 * ofBool sat, x := typeCode src, g := groupCode n, d := d.val, a := a.val } : Fields)
  | .vscale r o _ => ((Fields.ofVBin o).addFn (16 * roundCode r))
  | .vbscale dq nr wi r n d a s _ => ({ fn := typeCode nr + 16 * roundCode r + 128 * ofBool dq, x := typeCode wi, g := groupCode n, d := d.val, a := a.val, b := if dq then s.val else 0, c := if dq then 0 else s.val } : Fields)
  | .vperm t n d a b _ => ({ fn := typeCode t, g := groupCode n, d := d.val, a := a.val, b := b.val } : Fields)
  | .vslide up t n d a b _ => { Fields.ofSrcLit b with fn := typeCode t + 16 * ofBool up, g := groupCode n, d := d.val, a := a.val }
  | .vzip t n d a b _ => ({ fn := typeCode t, g := groupCode n, d := d.val, a := a.val, b := b.val } : Fields)
  | .vunzip t n d a _ => ({ fn := typeCode t, g := groupCode n, d := d.val, a := a.val } : Fields)
  | .vred op wi ac r o _ => { (Fields.ofVUn o).addFn (16 * roundCode r + 128 * ofBool wi) with x := redOpCode op + 16 * ofBool ac }
  | .vscan op r o _ => { (Fields.ofVUn o).addFn (16 * roundCode r) with x := scanOpCode op }
  | .vcompr o _ => (Fields.ofVUn o)
  | .vexpnd o _ => (Fields.ofVUn o)
  | .vmpush n a _ => ({ a := a.val, x := groupCode n } : Fields)
  | .vminv _ => ({} : Fields)
  | .vmpop _ => ({} : Fields)
  | .vmget fm _ => (Fields.ofVmget fm)
  | .vmset ps a _ => ({ fn := ofBool ps, a := a.val } : Fields)
  | .brmz imm _ => ({ imm := imm.toNat } : Fields)
  | .vmcnt d n _ => ({ d := d.val, x := groupCode n } : Fields)
  | .mcfg rg v _ => { Fields.ofALit v with d := rg.val }
  | .mgo _ => ({} : Fields)
  | .mzero mask _ => ({ x := mask.toNat } : Fields)
  | .mout dst r sat d a b imm _ => ({ fn := typeCode dst + 16 * roundCode r + 128 * ofBool sat, d := d.val, a := gsrcCode a, b := gsrcCode b, imm := imm.toNat } : Fields)
  | .mget n d a e _ => { Fields.ofSrcLit e with g := groupCode n, d := d.val, a := a.val }
  | .mput fl ad n d a e _ => { Fields.ofSrcLit e with fn := (if fl then 13 else 6) + 16 * ofBool ad, g := groupCode n, d := d.val, a := a.val }
  | .mstat d rs _ => ({ d := d.val, x := ofBool rs } : Fields)
  | .msync _ => ({} : Fields)
  | .svret v _ => (Fields.ofSvret v)
  | .saveq d a imm _ => ({ d := d.val, a := gsrcCode a, imm := imm.toNat } : Fields)
  | .loadq a imm c _ => ({ a := gsrcCode a, c := gsrcCode c, imm := imm.toNat } : Fields)
  | .inflrd d a imm _ => ({ d := d.val, a := gsrcCode a, imm := imm.toNat } : Fields)
  | .inflwr a imm c _ => ({ a := gsrcCode a, c := gsrcCode c, imm := imm.toNat } : Fields)
  | .idle d a _ => ({ d := d.val, a := gsrcCode a } : Fields)
  | .stksave d a imm _ => ({ d := d.val, a := gsrcCode a, imm := imm.toNat } : Fields)
  | .stkload a imm c _ => ({ a := gsrcCode a, c := gsrcCode c, imm := imm.toNat } : Fields)
  | .nestrd d a imm _ => ({ d := d.val, a := gsrcCode a, imm := imm.toNat } : Fields)
  | .nestwr a imm c _ => ({ a := gsrcCode a, c := gsrcCode c, imm := imm.toNat } : Fields)
  | _ => {}

/-- The instruction the fields of a word name, OP 0x00-0x2F (chapter 04); reserved fields are not looked at here. -/
def parseScalar (f : Fields) (sy : Sync) : Nat → Option Instr
  | 0x00 => some (.nop sy)
  | 0x01 => (f.alu).bind fun o => some (.add o sy)
  | 0x02 => (f.alu).bind fun o => some (.sub o sy)
  | 0x03 => (f.alu).bind fun o => some (.mul o sy)
  | 0x04 => (f.alu).bind fun o => (mulhVarOf (f.fn / 4)).bind fun v => some (.mulh v o sy)
  | 0x05 => (f.alu).bind fun o => ((boolOf (f.fn / 4)).map Bool.not).bind fun sg => some (.div sg o sy)
  | 0x06 => (f.alu).bind fun o => ((boolOf (f.fn / 4)).map Bool.not).bind fun sg => some (.rem sg o sy)
  | 0x07 => (f.alu).bind fun o => some (.and o sy)
  | 0x08 => (f.alu).bind fun o => some (.or o sy)
  | 0x09 => (f.alu).bind fun o => some (.xor o sy)
  | 0x0A => (f.alu).bind fun o => some (.andn o sy)
  | 0x0B => (f.alu).bind fun o => some (.shl o sy)
  | 0x0C => (f.alu).bind fun o => (boolOf (f.fn / 4)).bind fun sg => some (.shr sg o sy)
  | 0x0D => (f.alu).bind fun o => some (.rot o sy)
  | 0x0E => (f.alu).bind fun o => ((boolOf (f.fn / 4)).map Bool.not).bind fun sg => some (.min sg o sy)
  | 0x0F => (f.alu).bind fun o => ((boolOf (f.fn / 4)).map Bool.not).bind fun sg => some (.max sg o sy)
  | 0x10 => (some (widthOf f.fn)).bind fun wd => (fin32 f.d).bind fun d => (gsrc f.a).bind fun a => some (.clz wd d a sy)
  | 0x11 => (some (widthOf f.fn)).bind fun wd => (fin32 f.d).bind fun d => (gsrc f.a).bind fun a => some (.popc wd d a sy)
  | 0x12 => (some (widthOf f.fn)).bind fun wd => (boolOf (f.fn / 4)).bind fun sg => (fin32 f.d).bind fun d => (gsrc f.a).bind fun a => (some (BitVec.ofNat 6 f.x)).bind fun pos => (some (BitVec.ofNat 7 (f.x / 64))).bind fun len => some (.bfx sg wd d a pos len sy)
  | 0x13 => (some (widthOf f.fn)).bind fun wd => (fin32 f.d).bind fun d => (gsrc f.a).bind fun a => (gsrc f.b).bind fun b => (some (BitVec.ofNat 6 f.x)).bind fun pos => (some (BitVec.ofNat 7 (f.x / 64))).bind fun len => some (.bfi wd d a b pos len sy)
  | 0x14 => (some (widthOf f.fn)).bind fun wd => (moviVarOf (f.fn / 4)).bind fun v => (fin32 f.d).bind fun d => (gsrc f.a).bind fun a => (some f.immv).bind fun imm => some (.movi v wd d a imm sy)
  | 0x15 => (f.alu).bind fun o => (some f.pred).bind fun p => some (.sel p o sy)
  | 0x16 => (fin32 f.d).bind fun d => (f.leaForm).bind fun fm => some (.lea d fm sy)
  | 0x17 => (some (widthOf f.fn)).bind fun wd => (condOf (f.fn / 4)).bind fun cd => (fin8 f.d).bind fun d => (gsrc f.a).bind fun a => (f.srcLit).bind fun b => some (.cmp cd wd d a b sy)
  | 0x18 => (fin8 f.d).bind fun d => (fin8 f.a).bind fun a => (fin8 f.b).bind fun b => (fin8 f.c).bind fun c => (some (BitVec.ofNat 8 f.imm)).bind fun tb => some (.plog d a b c tb sy)
  | 0x19 => (f.alu).bind fun o => (gsrc f.c).bind fun c => some (.madd o c sy)
  | 0x1A => (fin32 f.d).bind fun d => (some (BitVec.ofNat 8 f.x)).bind fun num => some (.ctlrd d num sy)
  | 0x1B => (f.srcLit).bind fun b => (some (BitVec.ofNat 8 f.x)).bind fun num => some (.ctlwr num b sy)
  | 0x1C => (boolOf f.fn).bind fun ng => (some f.pred).bind fun p => (some f.immv).bind fun imm => some (.br ng p imm sy)
  | 0x1D => (gsrc f.a).bind fun a => (some f.immv).bind fun imm => some (.jmp a imm sy)
  | 0x1E => (fin32 f.d).bind fun d => (f.callForm).bind fun fm => some (.call d fm sy)
  | 0x1F => (gsrc f.a).bind fun a => some (.ret a sy)
  | 0x20 => ((boolOf f.fn).map (fun t => if t then (1 : Fin 2) else 0)).bind fun lc => (some (BitVec.ofNat 26 f.x)).bind fun x => (f.srcLit).bind fun n => some (.loop lc x n sy)
  | 0x21 => (f.srcLit).bind fun v => some (.exit v sy)
  | 0x22 => (some f.immv).bind fun code => some (.svcall code sy)
  | 0x23 => (some (flagCondOf (f.fn / 32))).bind fun cd => (some (bitOf f.fn 7)).bind fun il => (some (bitOf f.fn 4)).bind fun dw => (some (bitOf f.fn 3)).bind fun aq => (some (scopeOf f.fn)).bind fun sc => (fin32 f.d).bind fun d => (gsrc f.a).bind fun a => (f.srcLit).bind fun b => (gsrc f.c).bind fun m => some (.waitf cd il dw aq sc d a b m sy)
  | 0x24 => (fin32 f.d).bind fun d => some (.tkget d sy)
  | 0x25 => (qselOf f.fn).bind fun q => (some (bitOf f.fn 2)).bind fun nb => (f.srcLit).bind fun b => some (.tkput q nb b sy)
  | 0x26 => (qselOf f.fn).bind fun q => (some (bitOf f.fn 2)).bind fun nb => (some (BitVec.ofNat 4 f.x)).bind fun ty => (some (BitVec.ofNat 12 (f.x / 16))).bind fun v => (some f.immv).bind fun count => some (.tkprime q nb ty v count sy)
  | 0x27 => (fin32 f.d).bind fun d => (some (bitOf f.fn 0)).bind fun out => (some (bitOf f.fn 1)).bind fun sec => some (.tklevel d out sec sy)
  | 0x28 => (some (widthOf f.fn)).bind fun wd => (some (bitOf f.fn 2)).bind fun sg => (fin32 f.d).bind fun d => (f.memOp).bind fun m => some (.ld sg wd d m sy)
  | 0x29 => (some (widthOf f.fn)).bind fun wd => (f.memOp).bind fun m => (gsrc f.c).bind fun c => some (.st wd m c sy)
  | 0x2A => (some (widthOf f.fn)).bind fun wd => (some (bitOf f.fn 2)).bind fun sg => (orderOf (f.fn / 8 % 8)).bind fun o => (some (scopeOf (f.fn / 64))).bind fun sc => (fin32 f.d).bind fun d => (f.memOp).bind fun m => some (.ldg sg wd o sc d m sy)
  | 0x2B => (some (widthOf f.fn)).bind fun wd => (orderOf (f.fn / 8 % 8)).bind fun o => (some (scopeOf (f.fn / 64))).bind fun sc => (f.memOp).bind fun m => (gsrc f.c).bind fun c => some (.stg wd o sc m c sy)
  | 0x2C => (atomOpOf (f.fn / 16)).bind fun op => (dwOf (f.fn % 16)).bind fun dw => (orderOf (f.x % 8)).bind fun o => (some (scopeOf (f.x / 8))).bind fun sc => (fin32 f.d).bind fun d => (f.memOp).bind fun m => (gsrc f.c).bind fun c => some (.atom op dw o sc d m c sy)
  | 0x2D => (dwOf f.fn).bind fun dw => (orderOf (f.x % 8)).bind fun o => (some (scopeOf (f.x / 8))).bind fun sc => (fin32 f.d).bind fun d => (gsrc f.a).bind fun a => (gsrc f.b).bind fun b => (gsrc f.c).bind fun c => (some f.immv).bind fun imm => some (.acas dw o sc d a b c imm sy)
  | 0x2E => (orderOf (f.fn % 8)).bind fun o => (some (scopeOf (f.fn / 8))).bind fun sc => some (.fence o sc sy)
  | 0x2F => (orderOf (f.fn % 8)).bind fun o => (some (scopeOf (f.fn / 8))).bind fun sc => (some (bitOf f.fn 5)).bind fun cr => (some (bitOf f.fn 6)).bind fun en => some (.xfence o sc cr en sy)
  | _ => none

/-- The instruction the fields of a word name, OP 0x40-0x67 (chapters 10, 12, 14); reserved fields are not looked at here. -/
def parseTransfer (f : Fields) (sy : Sync) : Nat → Option Instr
  | 0x40 => (f.recXfer).bind fun x => some (.dld x sy)
  | 0x41 => (f.listXfer).bind fun x => some (.dldx x sy)
  | 0x42 => (f.linXfer).bind fun x => some (.dcpy x sy)
  | 0x43 => (f.linXfer).bind fun x => some (.rget x sy)
  | 0x44 => (fin8 f.d).bind fun ch => (gsrc f.a).bind fun base => (some f.immv).bind fun imm => (some (BitVec.ofNat 16 f.x)).bind fun ver => some (.dpf ch base imm ver sy)
  | 0x45 => (some (lowFin32 f.x)).bind fun d => (some (lowFin8 (f.x / 32))).bind fun p => (gsrc f.a).bind fun a => some (.tlook d p a sy)
  | 0x46 => (some (lowFin32 f.x)).bind fun d => (gsrc f.a).bind fun a => (f.srcLit).bind fun b => (gsrc f.c).bind fun c => some (.tins d a b c sy)
  | 0x47 => (some (lowFin32 f.x)).bind fun d => (some (lowFin8 (f.x / 32))).bind fun p => (gsrc f.a).bind fun a => some (.tdel d p a sy)
  | 0x48 => (boolOf f.fn).bind fun tr => (some (lowFin32 f.x)).bind fun d => (gsrc f.a).bind fun a => some (.feedpop tr d a sy)
  | 0x49 => (some (lowFin32 f.x)).bind fun d => (gsrc f.a).bind fun a => (f.srcLit).bind fun b => some (.feedpeek d a b sy)
  | 0x50 => (some (lowFin32 f.x)).bind fun d => (fin8 f.d).bind fun ch => some (.chwm d ch sy)
  | 0x51 => (fin8 f.d).bind fun ch => (f.chwaitForm).bind fun fm => some (.chwait ch fm sy)
  | 0x52 => (some (BitVec.ofNat 8 f.x)).bind fun mask => some (.cfence mask sy)
  | 0x53 => (some (lowFin32 f.x)).bind fun d => (fin8 f.d).bind fun ch => some (.chstat d ch sy)
  | 0x54 => (some (lowFin32 f.x)).bind fun d => (fin8 f.d).bind fun ch => some (.chcan d ch sy)
  | 0x60 => (f.recXfer).bind fun x => (some f.flagSpec).bind fun fl => some (.dst x fl sy)
  | 0x61 => (f.listXfer).bind fun x => (some f.flagSpec).bind fun fl => some (.dstx x fl sy)
  | 0x62 => (f.recXfer).bind fun x => (some f.flagSpec).bind fun fl => some (.dred x fl sy)
  | 0x63 => (f.linXfer).bind fun x => (some f.flagSpec).bind fun fl => some (.rput x fl sy)
  | 0x64 => (fin8 f.d).bind fun ch => (some (bitOf f.fn 2)).bind fun ad => (some (scopeOf f.fn)).bind fun sc => (gsrc f.a).bind fun a => (f.srcLit).bind fun b => some (.rflag ch ad sc a b sy)
  | 0x65 => (boolOf f.fn).bind fun rs => (some (lowFin8 f.x)).bind fun p => (f.aLit).bind fun q => some (.enq rs p q sy)
  | 0x66 => (f.linXfer).bind fun x => some (.dstl x sy)
  | 0x67 => (f.linXfer).bind fun x => some (.dfill x sy)
  | _ => none

/-- The instruction the fields of a word name, OP 0x80-0x9D (chapter 08); reserved fields are not looked at here. -/
def parseVector (f : Fields) (sy : Sync) : Nat → Option Instr
  | 0x80 => (groupOf f.g).bind fun n => (some (v64 f.d)).bind fun d => (f.memOp).bind fun m => some (.vld n d m sy)
  | 0x81 => (groupOf f.g).bind fun n => (f.memOp).bind fun m => (some (v64 f.c)).bind fun c => some (.vst n m c sy)
  | 0x82 => (typeOf f.fn).bind fun t => (groupOf f.g).bind fun n => (some (v64 f.d)).bind fun d => (gsrc f.a).bind fun a => (some (v64 f.b)).bind fun b => (some (BitVec.ofNat 2 f.x)).bind fun sh => some (.vldx t n d a b sh sy)
  | 0x83 => (typeOf f.fn).bind fun t => (groupOf f.g).bind fun n => (gsrc f.a).bind fun a => (some (v64 f.b)).bind fun b => (some (v64 f.c)).bind fun c => (some (BitVec.ofNat 2 f.x)).bind fun sh => some (.vstx t n a b c sh sy)
  | 0x84 => (typeOf f.fn).bind fun t => (groupOf f.g).bind fun n => (some (v64 f.d)).bind fun d => (f.srcLit).bind fun b => some (.vsplat t n d b sy)
  | 0x85 => (typeOf f.fn).bind fun t => (groupOf f.g).bind fun n => (fin32 f.d).bind fun d => (some (v64 f.a)).bind fun a => (f.srcLit).bind fun b => some (.vext t n d a b sy)
  | 0x86 => (typeOf f.fn).bind fun t => (groupOf f.g).bind fun n => (some (v64 f.d)).bind fun d => (gsrc f.a).bind fun a => (f.srcLit).bind fun b => some (.vins t n d a b sy)
  | 0x87 => (groupOf f.g).bind fun n => (some (v64 f.d)).bind fun d => (some (v64 f.a)).bind fun a => some (.vmov n d a sy)
  | 0x88 => (f.vbin).bind fun o => some (.vadd o sy)
  | 0x89 => (f.vbin).bind fun o => some (.vsub o sy)
  | 0x8A => (f.vbin).bind fun o => some (.vmul o sy)
  | 0x8B => (f.vbin).bind fun o => some (.vmulh o sy)
  | 0x8C => (f.vbin).bind fun o => (some (v64 f.c)).bind fun c => some (.vmadd o c sy)
  | 0x8D => (f.vbin).bind fun o => some (.vadds o sy)
  | 0x8E => (f.vbin).bind fun o => some (.vsubs o sy)
  | 0x8F => (f.vbin).bind fun o => some (.vabsd o sy)
  | 0x90 => (f.vbin).bind fun o => some (.vmin o sy)
  | 0x91 => (f.vbin).bind fun o => some (.vmax o sy)
  | 0x92 => (f.vbin).bind fun o => some (.vand o sy)
  | 0x93 => (f.vbin).bind fun o => some (.vor o sy)
  | 0x94 => (f.vbin).bind fun o => some (.vxor o sy)
  | 0x95 => (f.vbin).bind fun o => some (.vshl o sy)
  | 0x96 => (f.vbin).bind fun o => some (.vshr o sy)
  | 0x97 => (f.vun).bind fun o => some (.vclz o sy)
  | 0x98 => (f.vun).bind fun o => some (.vpopc o sy)
  | 0x99 => (f.vbin).bind fun o => (condOf (f.fn / 16)).bind fun cd => some (.vcmp cd o sy)
  | 0x9A => (f.vbin).bind fun o => (some (v64 f.c)).bind fun c => some (.vsel o c sy)
  | 0x9B => (some (bitOf f.fn 0)).bind fun sa => (some (bitOf f.fn 1)).bind fun sb => (some (bitOf f.fn 2)).bind fun sat => (groupOf f.g).bind fun n => (some (v64 f.d)).bind fun d => (some (v64 f.a)).bind fun a => (f.vb).bind fun b => some (.vdot4 sa sb sat n d a b sy)
  | 0x9C => (some (bitOf f.fn 0)).bind fun sa => (some (bitOf f.fn 1)).bind fun sb => (some (bitOf f.fn 2)).bind fun sat => (groupOf f.g).bind fun n => (some (v64 f.d)).bind fun d => (some (v64 f.a)).bind fun a => (f.vb).bind fun b => some (.vdot8 sa sb sat n d a b sy)
  | 0x9D => (typeOf f.fn).bind fun t => (groupOf f.g).bind fun n => (some (v64 f.d)).bind fun d => (f.srcLit).bind fun b => some (.vidx t n d b sy)
  | _ => none

/-- The instruction the fields of a word name, OP 0xA0-0xC6 (chapter 08); reserved fields are not looked at here. -/
def parseVectorF (f : Fields) (sy : Sync) : Nat → Option Instr
  | 0xA0 => (f.vbin).bind fun o => (roundOf (f.fn / 16)).bind fun r => some (.vfadd r o sy)
  | 0xA1 => (f.vbin).bind fun o => (roundOf (f.fn / 16)).bind fun r => some (.vfsub r o sy)
  | 0xA2 => (f.vbin).bind fun o => (roundOf (f.fn / 16)).bind fun r => some (.vfmul r o sy)
  | 0xA3 => (f.vbin).bind fun o => (roundOf (f.fn / 16)).bind fun r => (some (v64 f.c)).bind fun c => some (.vfma r o c sy)
  | 0xA4 => (f.vbin).bind fun o => some (.vfmin o sy)
  | 0xA5 => (f.vbin).bind fun o => some (.vfmax o sy)
  | 0xA6 => (f.vbin).bind fun o => (roundOf (f.fn / 16)).bind fun r => some (.vfdiv r o sy)
  | 0xA7 => (f.vun).bind fun o => (roundOf (f.fn / 16)).bind fun r => some (.vfsqrt r o sy)
  | 0xA8 => (f.vun).bind fun o => (roundOf (f.fn / 16)).bind fun r => some (.vfrcp r o sy)
  | 0xA9 => (f.vun).bind fun o => (roundOf (f.fn / 16)).bind fun r => some (.vfrsq r o sy)
  | 0xAA => (f.vun).bind fun o => (roundOf (f.fn / 16)).bind fun r => some (.vfexp2 r o sy)
  | 0xAB => (f.vun).bind fun o => (roundOf (f.fn / 16)).bind fun r => some (.vflog2 r o sy)
  | 0xAC => (f.vun).bind fun o => (roundOf (f.fn / 16)).bind fun r => some (.vftanh r o sy)
  | 0xAD => (f.vbin).bind fun o => (fcondOf (f.fn / 16)).bind fun cd => some (.vfcmp cd o sy)
  | 0xAE => (f.vun).bind fun o => some (.vfclass o sy)
  | 0xAF => (f.vun).bind fun o => (boolOf (f.fn / 16)).bind fun ng => some (.vfabs ng o sy)
  | 0xB0 => (typeOf (f.fn % 16)).bind fun dst => (typeOf f.x).bind fun src => (roundOf (f.fn / 16 % 8)).bind fun r => (some (bitOf f.fn 7)).bind fun sat => (groupOf f.g).bind fun n => (some (v64 f.d)).bind fun d => (some (v64 f.a)).bind fun a => some (.vcvt sat dst src r n d a sy)
  | 0xB1 => (typeOf f.fn).bind fun dst => (typeOf f.x).bind fun src => (groupOf f.g).bind fun n => (some (v64 f.d)).bind fun d => (some (v64 f.a)).bind fun a => some (.vwiden dst src n d a sy)
  | 0xB2 => (typeOf (f.fn % 16)).bind fun dst => (typeOf f.x).bind fun src => (some (bitOf f.fn 7)).bind fun sat => (groupOf f.g).bind fun n => (some (v64 f.d)).bind fun d => (some (v64 f.a)).bind fun a => some (.vnarrow sat dst src n d a sy)
  | 0xB3 => (f.vbin).bind fun o => (roundOf (f.fn / 16)).bind fun r => some (.vscale r o sy)
  | 0xB4 => (typeOf (f.fn % 16)).bind fun nr => (typeOf f.x).bind fun wi => (roundOf (f.fn / 16 % 8)).bind fun r => (some (bitOf f.fn 7)).bind fun dq => (groupOf f.g).bind fun n => (some (v64 f.d)).bind fun d => (some (v64 f.a)).bind fun a => (some (v64 (if dq then f.b else f.c))).bind fun s => some (.vbscale dq nr wi r n d a s sy)
  | 0xB8 => (typeOf f.fn).bind fun t => (groupOf f.g).bind fun n => (some (v64 f.d)).bind fun d => (some (v64 f.a)).bind fun a => (some (v64 f.b)).bind fun b => some (.vperm t n d a b sy)
  | 0xB9 => (typeOf (f.fn % 16)).bind fun t => (boolOf (f.fn / 16)).bind fun up => (groupOf f.g).bind fun n => (some (v64 f.d)).bind fun d => (some (v64 f.a)).bind fun a => (f.srcLit).bind fun b => some (.vslide up t n d a b sy)
  | 0xBA => (typeOf f.fn).bind fun t => (groupOf f.g).bind fun n => (some (v64 f.d)).bind fun d => (some (v64 f.a)).bind fun a => (some (v64 f.b)).bind fun b => some (.vzip t n d a b sy)
  | 0xBB => (typeOf f.fn).bind fun t => (groupOf f.g).bind fun n => (some (v64 f.d)).bind fun d => (some (v64 f.a)).bind fun a => some (.vunzip t n d a sy)
  | 0xBC => (f.vun).bind fun o => (redOpOf (f.x % 16)).bind fun op => (some (bitOf f.fn 7)).bind fun wi => (some (bitOf f.x 4)).bind fun ac => (roundOf (f.fn / 16 % 8)).bind fun r => some (.vred op wi ac r o sy)
  | 0xBD => (f.vun).bind fun o => (scanOpOf f.x).bind fun op => (roundOf (f.fn / 16)).bind fun r => some (.vscan op r o sy)
  | 0xBE => (f.vun).bind fun o => some (.vcompr o sy)
  | 0xBF => (f.vun).bind fun o => some (.vexpnd o sy)
  | 0xC0 => (groupOf f.x).bind fun n => (some (v64 f.a)).bind fun a => some (.vmpush n a sy)
  | 0xC1 => some (.vminv sy)
  | 0xC2 => some (.vmpop sy)
  | 0xC3 => (f.vmgetForm).bind fun fm => some (.vmget fm sy)
  | 0xC4 => (boolOf f.fn).bind fun ps => (some (v64 f.a)).bind fun a => some (.vmset ps a sy)
  | 0xC5 => (some f.immv).bind fun imm => some (.brmz imm sy)
  | 0xC6 => (fin32 f.d).bind fun d => (groupOf f.x).bind fun n => some (.vmcnt d n sy)
  | _ => none

/-- The instruction the fields of a word name, OP 0xE0-0xF9 (chapters 09, 17); reserved fields are not looked at here. -/
def parseMatrix (f : Fields) (sy : Sync) : Nat → Option Instr
  | 0xE0 => (some (v64 f.d)).bind fun rg => (f.aLit).bind fun v => some (.mcfg rg v sy)
  | 0xE1 => some (.mgo sy)
  | 0xE2 => (some (BitVec.ofNat 8 f.x)).bind fun mask => some (.mzero mask sy)
  | 0xE3 => (typeOf (f.fn % 16)).bind fun dst => (roundOf (f.fn / 16 % 8)).bind fun r => (some (bitOf f.fn 7)).bind fun sat => (fin8 f.d).bind fun d => (gsrc f.a).bind fun a => (gsrc f.b).bind fun b => (some f.immv).bind fun imm => some (.mout dst r sat d a b imm sy)
  | 0xE4 => (groupOf f.g).bind fun n => (some (v64 f.d)).bind fun d => (fin8 f.a).bind fun a => (f.srcLit).bind fun e => some (.mget n d a e sy)
  | 0xE5 => (mputTypeOf (f.fn % 16)).bind fun fl => (some (bitOf f.fn 4)).bind fun ad => (groupOf f.g).bind fun n => (fin8 f.d).bind fun d => (some (v64 f.a)).bind fun a => (f.srcLit).bind fun e => some (.mput fl ad n d a e sy)
  | 0xE6 => (fin32 f.d).bind fun d => (boolOf f.x).bind fun rs => some (.mstat d rs sy)
  | 0xE7 => some (.msync sy)
  | 0xF0 => (f.svretVar).bind fun v => some (.svret v sy)
  | 0xF1 => (fin32 f.d).bind fun d => (gsrc f.a).bind fun a => (some f.immv).bind fun imm => some (.saveq d a imm sy)
  | 0xF2 => (gsrc f.a).bind fun a => (some f.immv).bind fun imm => (gsrc f.c).bind fun c => some (.loadq a imm c sy)
  | 0xF3 => (fin32 f.d).bind fun d => (gsrc f.a).bind fun a => (some f.immv).bind fun imm => some (.inflrd d a imm sy)
  | 0xF4 => (gsrc f.a).bind fun a => (some f.immv).bind fun imm => (gsrc f.c).bind fun c => some (.inflwr a imm c sy)
  | 0xF5 => (fin32 f.d).bind fun d => (gsrc f.a).bind fun a => some (.idle d a sy)
  | 0xF6 => (fin32 f.d).bind fun d => (gsrc f.a).bind fun a => (some f.immv).bind fun imm => some (.stksave d a imm sy)
  | 0xF7 => (gsrc f.a).bind fun a => (some f.immv).bind fun imm => (gsrc f.c).bind fun c => some (.stkload a imm c sy)
  | 0xF8 => (fin32 f.d).bind fun d => (gsrc f.a).bind fun a => (some f.immv).bind fun imm => some (.nestrd d a imm sy)
  | 0xF9 => (gsrc f.a).bind fun a => (some f.immv).bind fun imm => (gsrc f.c).bind fun c => some (.nestwr a imm c sy)
  | _ => none

/-- The instruction the fields of a word with OP `op` name (R49). -/
def parse (op : Nat) (f : Fields) (sy : Sync) : Option Instr :=
  if op < 0x40 then parseScalar f sy op
  else if op < 0x80 then parseTransfer f sy op
  else if op < 0xA0 then parseVector f sy op
  else if op < 0xE0 then parseVectorF f sy op
  else parseMatrix f sy op

/-- Whether R49 assigns the OP. -/
def opAssigned (op : Nat) : Bool :=
  op < 0x30 || (0x40 ≤ op && op ≤ 0x49) || (0x50 ≤ op && op ≤ 0x54) || (0x60 ≤ op && op ≤ 0x67) ||
  (0x80 ≤ op && op ≤ 0x9D) || (0xA0 ≤ op && op ≤ 0xB4) || (0xB8 ≤ op && op ≤ 0xC6) || (0xE0 ≤ op && op ≤ 0xE7) ||
  (0xF0 ≤ op && op ≤ 0xF9)

/-- Bits of a word: `n` bits from bit `k`. -/
def wordBits (w : Word128) (k n : Nat) : Nat := w.toNat / 2 ^ k % 2 ^ n

/-- The OP field (R36). -/
def wordOp (w : Word128) : Nat := wordBits w 120 8

/-- The fields of a word at the places of R36. -/
def wordFields (w : Word128) : Fields :=
  { fn := wordBits w 112 8, d := wordBits w 80 6, a := wordBits w 74 6, b := wordBits w 68 6, c := wordBits w 62 6,
    l := wordBits w 61 1 == 1, g := wordBits w 58 3, x := wordBits w 32 26, imm := wordBits w 0 32 }

/-- A wait type 0-14 (R41, R43). -/
def waitTypeOf (n : Nat) : Option (Fin 15) := if h : n < 15 then some ⟨n, h⟩ else none
/-- A post type 0-13 (R41, R43). -/
def postTypeOf (n : Nat) : Option (Fin 14) := if h : n < 14 then some ⟨n, h⟩ else none

/-- The wait of a word (R41): none for WQ = 0. -/
def wordWait (w : Word128) : Option (Option WaitSpec) :=
  match qselOf (wordBits w 110 2) with
  | none => some none
  | some q => (waitTypeOf (wordBits w 106 4)).map fun t => some ⟨q, t⟩

/-- The post of a word (R41): none for PQ = 0. -/
def wordPost (w : Word128) : Option (Option PostSpec) :=
  match qselOf (wordBits w 104 2) with
  | none => some none
  | some q =>
    (postTypeOf (wordBits w 100 4)).map fun t =>
      some ⟨q, t, wordBits w 99 1 == 1,
        if wordBits w 98 1 = 1 then .reg (lowFin32 (wordBits w 86 12)) else .imm (BitVec.ofNat 12 (wordBits w 86 12))⟩

/-- The SYNC field of a word (R41); none for the reserved values WT = 15 and PT = 14, 15 (R43). The other reserved values of R43
are those that encoding the field again does not give back. -/
def wordSync (w : Word128) : Option Sync :=
  (wordWait w).bind fun wt => (wordPost w).map fun p => ⟨wt, p⟩

/-- The bits of a wait, in place (R36, R41). -/
def waitBits : Option WaitSpec → Nat
  | none => 0
  | some s => qselCode s.q * 2 ^ 110 + s.ty.val * 2 ^ 106

/-- PVG and PV, in place (R41). -/
def postValBits : PostVal → Nat
  | .imm v => v.toNat * 2 ^ 86
  | .reg r => 2 ^ 98 + r.val * 2 ^ 86

/-- The bits of a post, in place (R36, R41). -/
def postBits : Option PostSpec → Nat
  | none => 0
  | some s => qselCode s.q * 2 ^ 104 + s.ty.val * 2 ^ 100 + ofBool s.nb * 2 ^ 99 + postValBits s.val

/-- The bits of a SYNC field, in place (R36). -/
def syncBits (s : Sync) : Nat := waitBits s.wait + postBits s.post

/-- The bits of the other fields, in place (R36). -/
def fieldBits (f : Fields) : Nat :=
  f.fn * 2 ^ 112 + f.d * 2 ^ 80 + f.a * 2 ^ 74 + f.b * 2 ^ 68 + f.c * 2 ^ 62 + ofBool f.l * 2 ^ 61 + f.g * 2 ^ 58 +
    f.x * 2 ^ 32 + f.imm

/-- The word of an instruction (R36); none for an event. -/
def encode (i : Instr) : Option Word128 :=
  (opOf i).map fun op => BitVec.ofNat 128 (op.toNat * 2 ^ 120 + syncBits (syncOf i) + fieldBits (fieldsOf i))

/-- What a word is (R51): an unassigned OP (step 1), a reserved encoding of an assigned OP (step 4), or an instruction. -/
inductive DecodeResult where
  | unassigned
  | reserved (op : Nat)
  | ok (i : Instr)
  deriving DecidableEq, Repr

/-- The instruction a word names: well formed, and with every bit of the word accounted for (R38). -/
def decodeInstr (w : Word128) : Option Instr :=
  (wordSync w).bind fun sy => (parse (wordOp w) (wordFields w) sy).bind fun i =>
    if i.wf && encode i == some w then some i else none

/-- Decoding a word (R51), before the checks that depend on the issuing context. -/
def decode (w : Word128) : DecodeResult :=
  if opAssigned (wordOp w) then
    match decodeInstr w with
    | some i => .ok i
    | none => .reserved (wordOp w)
  else .unassigned

/-- Whether a word asks for the service context: a service-class OP, or CTLRD or CTLWR of a number 0x40-0xFF
(step 3 of R35, R22, R51); it is looked at before the reserved fields. -/
def wordPrivileged (w : Word128) : Bool :=
  0xF0 ≤ wordOp w || ((wordOp w == 0x1A || wordOp w == 0x1B) && 0x40 ≤ wordBits w 32 8)

/-- The instruction read from a word whose bits are `w`, the first doubleword lowest (R36). -/
def decodeTableWord (_nbits w : Nat) : Option Instr :=
  match decode (BitVec.ofNat 128 w) with
  | .ok i => some i
  | _ => none

end Sys2Proof
end

