-- ==== Sys2Proof/Machine/Map.lean ====
section
/-! DEFINITION. Sparse maps in canonical form (keys strictly rising, no entry equal to the default), byte memories as such maps with
default 0, little-endian byte strings (R6), and CRC-32C (R66). -/

namespace Sys2Proof.Machine

/-- The value at key `k`, or the default. -/
def smGet {α : Type} (d : α) (k : Nat) : SMap α → α
  | [] => d
  | (k', v) :: r => if k' = k then v else smGet d k r

/-- Without the entry at key `k`. -/
def smErase {α : Type} (k : Nat) : SMap α → SMap α
  | [] => []
  | (k', v) :: r => if k' = k then smErase k r else (k', v) :: smErase k r

/-- An entry put before the first larger key. -/
def smInsert {α : Type} (k : Nat) (v : α) : SMap α → SMap α
  | [] => [(k, v)]
  | (k', v') :: r => if k < k' then (k, v) :: (k', v') :: r else (k', v') :: smInsert k v r

/-- The map with key `k` reading as `v`: the default removes the entry. -/
def smSet {α : Type} [DecidableEq α] (d : α) (k : Nat) (v : α) (m : SMap α) : SMap α :=
  if v = d then smErase k m else smInsert k v (smErase k m)

/-- Every key of the map is above `lo`, keys strictly rise, and no value is the default. -/
def smWfFrom {α : Type} [DecidableEq α] (d : α) : Option Nat → SMap α → Bool
  | _, [] => true
  | lo, (k, v) :: r => (match lo with | none => true | some l => l < k) && v != d && smWfFrom d (some k) r

/-- The canonical form of a sparse map. -/
def smWf {α : Type} [DecidableEq α] (d : α) (m : SMap α) : Bool := smWfFrom d none m

/-- One byte of a memory. -/
def memGet (m : SMap Byte) (a : Nat) : Byte := smGet 0 a m

/-- A memory with one byte written. -/
def memSet (m : SMap Byte) (a : Nat) (b : Byte) : SMap Byte := smSet 0 a b m

/-- `n` bytes from address `a`. -/
def memRead (m : SMap Byte) (a : Nat) : Nat → List Byte
  | 0 => []
  | n + 1 => memGet m a :: memRead m (a + 1) n

/-- A memory with bytes written from address `a`. -/
def memWrite (m : SMap Byte) (a : Nat) : List Byte → SMap Byte
  | [] => m
  | b :: r => memWrite (memSet m a b) (a + 1) r

/-- The canonical form of a memory. -/
def Mem.wf (m : SMap Byte) : Bool := smWf 0 m

/-- A byte string as a number, lowest byte first (R6). -/
def leNat : List Byte → Nat
  | [] => 0
  | b :: r => b.toNat + 256 * leNat r

/-- The low `n` bytes of a number, lowest first (R6). -/
def leBytes : Nat → Nat → List Byte
  | 0, _ => []
  | n + 1, x => BitVec.ofNat 8 x :: leBytes n (x / 256)

/-- The field of `n` bytes at offset `off` of a record. -/
def fieldAt (bs : List Byte) (off n : Nat) : Nat := leNat ((bs.drop off).take n)

/-- A record with bytes written from offset `off`. -/
def putAt (bs : List Byte) (off : Nat) (x : List Byte) : List Byte := bs.take off ++ x ++ bs.drop (off + x.length)

/-- `n` zero bytes. -/
def zeros (n : Nat) : List Byte := List.replicate n 0

/-- Whether all bytes of a field are 0. -/
def zeroAt (bs : List Byte) (off n : Nat) : Bool := fieldAt bs off n == 0

/-- One bit step of CRC-32C (R66). -/
def crcBit (c : Nat) : Nat := if c % 2 = 1 then (c / 2) ^^^ 0x82F63B78 else c / 2

/-- One byte of CRC-32C (R66). -/
def crcByte (c : Nat) (b : Byte) : Nat :=
  crcBit (crcBit (crcBit (crcBit (crcBit (crcBit (crcBit (crcBit (c ^^^ b.toNat))))))))

/-- CRC-32C over a byte string (R66). -/
def crc32c (bs : List Byte) : Nat := (bs.foldl crcByte 0xFFFFFFFF) ^^^ 0xFFFFFFFF

/-- The seal of a record of `n` bytes matches (R66). -/
def sealOk (bs : List Byte) (n : Nat) : Bool := fieldAt bs (n - 4) 4 == crc32c (bs.take (n - 4))

/-- A record of `n` bytes with its seal written. -/
def withSeal (bs : List Byte) (n : Nat) : List Byte := putAt bs (n - 4) (leBytes 4 (crc32c (bs.take (n - 4))))

end Sys2Proof.Machine
end

