-- ==== Sys2Proof/Config.lean ====
section
/-! DEFINITION. What an implementation fixes and the values the spec leaves open. The functions below have no body: nothing can
prove a value of one, so a statement that holds, holds whatever they are. -/

namespace Sys2Proof

/-- Free value: a data word the spec does not state, such as what an uncorrectable or never-filled entry holds (log entry 10). -/
opaque Config.freeWord : Nat → BitVec 64
/-- Free value: what a packet with a maquette does not carry to its home: by the copy's number, by what it is, and by its place (log entry 40). -/
opaque Config.copyWord : Nat → Nat → Nat → BitVec 64
/-- Free value: the scale code of a block that no scale array holds, by the operation's number and the block (log entry 25). -/
opaque Config.freeScale : Nat → Nat → BitVec 8
/-- SM3 digest of a byte string (R460, R466): named, not defined, by the spec. -/
opaque Config.sm3 : List (BitVec 8) → BitVec 256
/-- SM2 decryption of a 128-byte wrapped record under the fused identity key (R464): the 32 key bytes, or none when it fails. -/
opaque Config.sm2Unwrap : List (BitVec 8) → Option (BitVec 256)
/-- SM2 signature of a digest under the fused identity key (R466). -/
opaque Config.sm2Sign : BitVec 256 → BitVec 512
/-- Whether SM2 verifies a signature (64 bytes, r then s) over a digest under the fused vendor public key (R460). -/
opaque Config.sm2Verify : BitVec 256 → BitVec 512 → Bool
/-- SM4 encryption of a block under a key (R289): named, not defined, by the spec. -/
opaque Config.sm4 : BitVec 128 → BitVec 128 → BitVec 128
/-- The fused minimum security version (R460). -/
opaque Config.minSvn : BitVec 16

/-- HBM bytes of one stack (R276). -/
def stackBytes : Nat := 51539607552
/-- HBM bytes of the module (R275). -/
def hbmBytes : Nat := 1236950581248
/-- Scratchpad bytes of a tile (R94). -/
def spadBytes : Nat := 25165824
/-- Module time units in one nanosecond: chosen so that a tile clock at every throttle step (R467) is a whole number of units. -/
def unitsPerNs : Nat := 6486480

end Sys2Proof
end

