-- ==== Sys2Proof/Machine/State.lean ====
section
/-! DEFINITION. The state of one module (R1, R3): twelve dies of sixteen tiles, their memories, the dispatchers, the fabric gateways,
the host port, the time unit, the gang-time records and the reset, security and power logic. Plain data throughout; every list of bytes or
of keyed entries is in the canonical form of Machine/Map.lean. The fields `agenda`, `freeIdx` and `cur` are the model's own. -/

namespace Sys2Proof.Machine

/-- A byte memory: address and byte pairs, addresses strictly rising, no byte equal to what an unlisted address reads as. -/
abbrev Mem := List Host.Cell

/-- One hardware loop (R27). -/
structure Loop where
  count : BitVec 32
  start : Word64
  fin : Word64
  deriving DecidableEq, Repr

/-- The registers that each context of a core has (R15, R22, R159). -/
structure Regs where
  g : Vector Word64 32
  p : Vector Bool 8
  pc : Word64
  lc0 : Loop
  lc1 : Loop
  flags : BitVec 5
  round : BitVec 3
  seed : Word64
  srctr : Word64
  deriving DecidableEq, Repr

/-- State of a stream (R151, ctl.ustate of R362). -/
inductive Life where | live | exited | absent
  deriving DecidableEq, Repr

/-- How the service context of a core runs: svstat.MODE 0, 1 and 2 (R362). -/
inductive SvMode where | share | alone | entered
  deriving DecidableEq, Repr

/-- The trap record of a core (R360). `ford` is the model's own: the acceptance number of the faulting operation, from which INFL is set when
the in-flight table is made. -/
structure TrapRec where
  cause : BitVec 8
  valid : Bool
  async : Bool
  peer : Bool
  restore : Bool
  alone : Bool
  stream : BitVec 8
  akind : BitVec 8
  info : BitVec 32
  tpc : Word64
  word : Word128
  addr : Word64
  infl : BitVec 8
  pstream : BitVec 8
  ford : Option Nat
  time : Word64
  cycle : Word64
  deriving DecidableEq, Repr

/-- A service context's decision by SVRET (R369, R370). -/
inductive Vote where | resume | skip | done (status : BitVec 16) | leave
  deriving DecidableEq, Repr

/-- Why an instruction did not issue or complete in this clock (R157, R319): `wait` and `post` carry the queue code of R156. -/
inductive Stall where
  | wait (code : BitVec 2)
  | post (code : BitVec 2)
  | spad
  | blocked
  | feed
  | idleWait
  | held
  | other
  deriving DecidableEq, Repr

/-- The answer to a scalar access that left the module or went to the host window. -/
inductive RemoteResp where
  | data (bytes : List Byte)
  | fault (cause : BitVec 8) (info : BitVec 32)
  deriving DecidableEq, Repr

/-- What a core's outstanding access is for: a scalar access, a WAITF with the READ it polls with (R410), a record read before a transfer is
accepted (R310), or the ring accesses of an ENQ (R265). -/
inductive RemoteKind where
  | scalar
  | waitf (poll : Packet)
  | record
  | enq
  deriving DecidableEq, Repr

/-- An access that a context of a core has issued and that is not over (R71, R364): `tag` names its request; `here` says that its home is in
this module and cannot perform it yet (R416, R459); one that is neither sent nor here waits at the source gateway (R404, R429), and an ENQ
for another core's ENQ to its queue (R265); `at_` is the time of a WAITF's last poll. -/
structure Remote where
  tag : Nat
  ctx : CtxKind
  kind : RemoteKind
  sent : Bool
  here : Bool
  resp : Option RemoteResp
  va : Word64
  at_ : Nat
  deriving DecidableEq, Repr

/-- One word of an instruction cache (R18): which address space, address, word. -/
structure ICell where
  kind : CtxKind
  addr : Word64
  word : Word128
  deriving DecidableEq, Repr

/-- A READ of a code sector that lies on another module (R18, R399): its tag and address, whether it is a prefetch only, and the fault it was
answered with. -/
structure CodeReq where
  tag : Nat
  va : Word64
  pre : Bool
  bad : Option (BitVec 8 × BitVec 32)
  deriving DecidableEq, Repr

/-- The user context of a core. -/
structure UserCtx where
  regs : Regs
  lost : BitVec 32
  wdog : BitVec 6
  life : Life
  exitVal : BitVec 32
  deriving DecidableEq, Repr

/-- The service context of a core (R159, R160, R362). `idle` holds the wake time of an IDLE in progress and the destination, `woke` the code and
destination of one that ended in this clock (R378); `ridge` is ctl.svridge (R437); `held` says that its instruction holds the core (R21,
R160). -/
structure SvCtx where
  regs : Regs
  mode : SvMode
  trec : TrapRec
  vote : Option Vote
  share : BitVec 8
  credit : Nat
  vec : Word64
  idle : Option (Word64 × Fin 32)
  woke : Option (Word64 × Fin 32)
  held : Bool
  ridge : BitVec 5
  deriving DecidableEq, Repr

/-- A core. `issued` says that it issued in the current clock (R20); `stall` why its last attempt stalled, and `tried` that this was in the
current clock (R157); `word` is the word that the user context has fetched and not yet issued (R19, R360); `codes` are the reads of code on another module under way;
`stopped` that a drain has stopped
its user context; `pend` the record of an entry that waits for a held instruction (R364). -/
structure Core where
  u : UserCtx
  v : SvCtx
  ic : List ICell
  word : Option ICell
  codes : List CodeReq
  issued : Bool
  tried : Bool
  stall : Option Stall
  remote : Option Remote
  stopped : Bool
  pend : Option TrapRec
  deriving DecidableEq, Repr

/-- A token queue (R144): sixteen entries from the head, how many are held, the ceiling, the reserved count, the closed mark and the END
mark with its value (R152). `fresh` and `freed` count what entered and left in the current clock (R150); `ords` are the acceptance numbers of
the tokens that entered in it, in their order (R149). -/
structure TokQ where
  ents : Vector (BitVec 16) 16
  count : BitVec 5
  ceil : BitVec 5
  reserved : Nat
  closed : Bool
  endMark : Option (BitVec 12)
  fresh : Nat
  freed : Nat
  ords : List Nat
  freshEnd : Bool
  deriving DecidableEq, Repr

/-- The pending post of an accepted asynchronous instruction (R148). -/
structure PendPost where
  q : QSel
  ty : Fin 14
  val : BitVec 12
  deriving DecidableEq, Repr

/-- A fault that has stopped an asynchronous operation (R320). -/
structure OpFault where
  cause : BitVec 8
  info : BitVec 32
  akind : BitVec 8
  addr : Word64
  deriving DecidableEq, Repr

/-- What every accepted asynchronous operation keeps (R368): its stream, the context that issued it, acceptance number, word, post, stochastic
state, resolved rounding mode, the registers read at issue, its flags and its fault. -/
structure OpInfo where
  stream : Stream
  ctx : CtxKind
  order : Nat
  word : Word128
  post : Option PendPost
  seed : Word64
  ctr : Word64
  mode : BitVec 3
  ra : Word64
  rb : Word64
  rc : Word64
  rf : Word64
  flags : BitVec 5
  fault : Option OpFault
  deriving DecidableEq, Repr

/-- A translated page (R281, R282). -/
structure Page where
  pa : Nat
  r : Bool
  w : Bool
  x : Bool
  ord : Nat
  sync : Bool
  tol : Bool
  tfmt : Nat
  key : Nat
  striped : Bool
  attrOk : Bool
  deriving DecidableEq, Repr

/-- Physical bytes that an operation touches, with the ordering kind that counts for them (R303). -/
structure Touch where
  pa : Nat
  n : Nat
  ord : Nat
  deriving DecidableEq, Repr

/-- An access of a piece that is under way in another module or the host window: its piece and part, and what it touches. -/
structure Air where
  piece : Nat
  part : Nat
  touch : Touch
  deriving DecidableEq, Repr

/-- The state of a named flag (R326). -/
inductive FlagState where | none | waiting | sent | written
  deriving DecidableEq, Repr

/-- A transfer, RFLAG or DPF operation on a channel (R308): its instruction, checked record, maquette bytes (with the version and seal of
R351), the bytes of its logical prefix already performed when it was resumed, the pieces performed, the accesses of pieces, as (piece, part),
that are under way in another module or the host window, with what they touch, those answered with the bytes that came, the pieces that have
failed since it stopped, the pieces that wait at a scratchpad window of this module with the acceptance number there at their arrival (R318),
the tag of its maquette copies at other modules and the modules they were sent to (R402), whether a CHCAN stops it (R332), and a number of its
own, by which free values are drawn. -/
structure XferOp where
  info : OpInfo
  ch : Fin 8
  inst : Instr
  layout : List Byte
  maq : List Byte
  maqId : Option (BitVec 16 × BitVec 32)
  prefixBytes : Nat
  started : Bool
  done : List Nat
  out : List (Nat × Nat)
  air : List Air
  arrived : List (Nat × Nat × List Byte)
  bad : List Nat
  came : List (Nat × Nat)
  flag : FlagState
  stag : BitVec 16
  maqTo : List (BitVec 12)
  cancel : Bool
  tag : Nat
  deriving DecidableEq, Repr

/-- A matrix nest (R221, R224): the copied nest registers and the steps committed; `ghost` says that a service context in share mode started it
beside a task, so that it writes no accumulator (R161), `replay` that a residue mismatch has squashed its running step (R229). -/
structure NestOp where
  info : OpInfo
  regs : Vector Word64 20
  steps : Nat
  ghost : Bool
  replay : Bool
  deriving DecidableEq, Repr

/-- A MOUT (R235): its instruction and the rows written. -/
structure MoutOp where
  info : OpInfo
  inst : Instr
  rows : Nat
  deriving DecidableEq, Repr

/-- A CFENCE (R331). -/
structure CfOp where
  info : OpInfo
  mask : BitVec 8
  deriving DecidableEq, Repr

/-- A channel: its unretired operations, oldest first, and the count of retired ones (R308, R329). -/
structure Chan where
  ops : List XferOp
  retired : BitVec 32
  deriving DecidableEq, Repr

/-- The asynchronous units of a tile: the array, the output path, the channels, the CFENCEs, the operations the last drain recorded, whose
ranges and leases stay in force (R365), and the transfers that a drain recorded, by which an entry read back from the table finds the pieces
that were performed above its prefix (R321). -/
structure Engines where
  running : Option NestOp
  pending : Option NestOp
  mout : Option MoutOp
  chLoad : Vector Chan 8
  chStore : Vector Chan 8
  cf : List CfOp
  order : Nat
  frozenX : List XferOp
  frozenN : List NestOp
  frozenM : List MoutOp
  kept : List XferOp
  deriving DecidableEq, Repr

/-- The task on a tile (R243): packet, index, job, its descriptor fields in force, and when its streams were released. -/
structure TaskSt where
  pkt : Nat
  index : Nat
  job : JobId
  desc : Word64
  recAddr : Word64
  argptr : Word64
  hangpol : Bool
  feed : Option Nat
  tagbase : BitVec 32
  tagslot : BitVec 8
  entries : Vector Word64 3
  ceils : Vector (BitVec 5) 6
  wdog : BitVec 6
  preloads : List Byte
  tstart : Option Nat
  deriving DecidableEq, Repr

/-- The drain of a tile (R363-R371): `first` is the record of the first trap; `cancel` that it is a cancel's drain or one has been asked
for; `dead` that a service context has trapped (R373); `timeout` that a record of the drain holds a FABRIC TIMEOUT (R408); `mark` is the acceptance number at the
trigger: operations below it stop (R365). -/
structure Drain where
  draining : Bool
  drained : Bool
  trig : BitVec 8
  restore : Bool
  preq : Bool
  spend : Option (BitVec 32)
  first : Option TrapRec
  cancel : Bool
  dead : Bool
  quiet : Bool
  timeout : Bool
  ridge : Bool
  mark : Nat
  deriving DecidableEq, Repr

/-- The store of a tile: scratchpad, with the words that hold an uncorrectable and those that hold a correctable error (R469), vector registers,
mask stack, accumulators, shadow nest registers, tag table, record cache. -/
structure Store where
  spad : Mem
  spadBad : List Nat
  spadSoft : List Nat
  v : Vector (BitVec 4096) 64
  mask : Vector (BitVec 512) 16
  depth : BitVec 5
  acc : SMap (BitVec 8192)
  accBad : List Nat
  shadow : Vector Word64 20
  tags : SMap Word64
  recs : List (Word64 × BitVec 16 × List Byte)
  infl : SMap Word64
  deriving DecidableEq, Repr

/-- A tile. -/
structure Tile where
  ld : Core
  cp : Core
  st : Core
  queues : Vector TokQ 6
  store : Store
  eng : Engines
  task : Option TaskSt
  drain : Drain
  blocked : Nat
  wcount : Nat
  sink : Bool
  cycle : Word64
  residues : BitVec 32
  columns : SMap Nat
  degraded : Bool
  deriving DecidableEq, Repr

/-- How a 64-byte sector of HBM was last written (R284, R288): scheme 0 ordinary, 1 tolerant of format `tfmt`, 2 encrypted under slot `key`
with the tag of its keys; `err` is the number of symbols in error, of a tolerant sector those of its protected bits. -/
structure Sector where
  scheme : BitVec 2
  tfmt : BitVec 3
  key : BitVec 6
  tag : BitVec 256
  err : Nat
  deriving DecidableEq, Repr

/-- The counter block of a 4 KiB page (R288, R289): the major counter and the minor counter of each sector; `zeroed` the sectors that a
re-encryption found unwritten and stored as zeros. -/
structure PageCtr where
  major : BitVec 64
  minors : Vector (BitVec 7) 64
  zeroed : BitVec 64
  deriving DecidableEq, Repr

/-- A job's registers (R242, R278, R379); `lastPhase` is one more than the identity of its last completed PHASE packet (R263). -/
structure JobSt where
  jdone : Word64
  jphase : Word64
  xpt : Word64
  xrt : Word64
  xat : Word64
  invBusy : Bool
  pre : BitVec 2
  jsave : Word64
  lastPhase : Nat
  deriving DecidableEq, Repr

/-- A user queue's registers (R248-R250); `notified` that a read of the write index is due (R251), `reading` that one is under way, `upto` the
write index last read; `gen` counts its stops, and names the accesses of one run. -/
structure UQueue where
  base : Word64
  cfg : Word64
  err : BitVec 16
  state : BitVec 2
  notified : Bool
  reading : Bool
  upto : Option Word64
  gen : Nat
  deriving DecidableEq, Repr

/-- What has become of one task of a launch. `done` holds its 64-byte record (R255). -/
inductive TaskEnt where
  | waiting
  | placed (t : Nat)
  | saved (t : Nat)
  | done (status : BitVec 16) (rec : List Byte)
  deriving DecidableEq, Repr

/-- A taken packet (R251): its queue and index, its 64 bytes, whether it has started and when, its descriptor once read, the time at which
the next task of each die's share became ready, its tasks, its early status (rejected, cancelled or failed), and whether its feed records or
phase are done; what a CANCEL waits for (packet and task index, 4,096 for the packet); whether a LAUNCH record started it. -/
structure Pkt where
  id : Nat
  q : QueueId
  job : JobId
  bytes : List Byte
  started : Option Nat
  desc : List Byte
  ready : SMap Nat
  tasks : SMap TaskEnt
  status : Option (BitVec 16)
  recs : List Byte
  stage : Nat
  fin : Bool
  waits : List (Nat × Nat)
  free : Bool
  deriving DecidableEq, Repr

/-- A packet whose ring's read index is being written (R251): its queue, the name of the queue's accesses in that run, the queue as it was then,
the packet's bytes, and what was read with it: the status it is rejected with, its timed-launch record, the packet of a LAUNCH. -/
structure Landing where
  q : QueueId
  run : Nat
  u : UQueue
  bytes : List Byte
  status : Option (BitVec 16)
  tlr : List Byte
  lp : List Byte
  deriving DecidableEq, Repr

/-- A stalled FEEDPOP (R268): its tile and context, the clock in which it began to stall, and the sequence number of the record assigned to
it. -/
structure Waiter where
  tile : Nat
  ctx : CtxKind
  clk : Nat
  got : Option Word64
  deriving DecidableEq, Repr

/-- A feed (R266, R268): job, capacity exponent, records in push order with their sequence numbers, the sequence count, and the stalled
FEEDPOPs in order. -/
structure Feed where
  job : BitVec 12
  cap : BitVec 4
  recs : List (Word64 × List Byte)
  seq : Word64
  waiters : List Waiter
  deriving DecidableEq, Repr

/-- A cached translation of a die (R283): a leaf, a range entry or an attribute entry of a job, with the bytes it was read as. -/
structure TlbEnt where
  die : Nat
  job : Nat
  kind : BitVec 2
  key : Nat
  size : Nat
  data : BitVec 256
  deriving DecidableEq, Repr

/-- The name of one access of a dispatcher (or of an ENQ): what it belongs to and which part of it. The model's own. -/
structure FarKey where
  kind : Nat
  id : Nat
  sub : Nat
  part : Nat
  deriving DecidableEq, Repr

/-- What a saved task's tile keeps beside the descriptor (R379): its transfers as the drain recorded them, and the counts of operations retired on
its channels since the task's start (R329). -/
structure SavedEng where
  xs : List XferOp
  load : Vector (BitVec 32) 8
  store : Vector (BitVec 32) 8
  deriving DecidableEq, Repr

/-- The dispatchers (R257, R258): packets in the order they were taken, feeds, deficits and round-robin pointers per die and level,
cached translations, saved tasks, hang logs, tiles that take no more tasks (R373), and the accesses of an unfinished action that have been
answered, with the packets whose read index is being written, and the engines of saved tasks by packet and index. -/
structure Disp where
  jobs : SMap JobSt
  queues : SMap UQueue
  pkts : List Pkt
  nextPkt : Nat
  feeds : SMap Feed
  deficit : SMap Nat
  pointer : SMap Nat
  tlb : List TlbEnt
  saved : List (Nat × TaskSt × Vector Life 3)
  hangLog : SMap Word64
  nofit : List Nat
  far : List (FarKey × RemoteResp)
  landing : List Landing
  engs : List ((Nat × Nat) × SavedEng)
  deriving DecidableEq, Repr

/-- Who waits for the answer to a request that left the module, or to a host-window access: a context's scalar access, a fetch, a transfer's
piece, flag, maquette half, maquette read or result ATOM, or an access of the dispatchers. -/
inductive Owner where
  | scalar (t : Nat) (st : Stream) (tag : Nat)
  | code (t : Nat) (st : Stream) (tag : Nat)
  | piece (t : Nat) (store : Bool) (ch : Nat) (order : Nat) (piece : Nat) (part : Nat)
  | flag (t : Nat) (store : Bool) (ch : Nat) (order : Nat)
  | half (t : Nat) (store : Bool) (ch : Nat) (order : Nat)
  | maq (t : Nat) (store : Bool) (ch : Nat) (order : Nat) (part : Nat)
  | red (t : Nat) (store : Bool) (ch : Nat) (order : Nat) (piece : Nat)
  | far (k : FarKey)
  deriving DecidableEq, Repr

/-- An unanswered request of this module (R404, R405): its packet, its owner, the virtual address it is for, the attempts made, and the clock
of the last. -/
structure FabReq where
  die : DieId
  pkt : Packet
  owner : Owner
  va : Word64
  tries : Nat
  at_ : Nat
  deriving DecidableEq, Repr

/-- The replay state of one source at a die (R406): the highest SEQ performed, the requests performed with their responses, and when its last
request came. -/
structure Replay where
  die : DieId
  smod : BitVec 12
  sch : BitVec 16
  high : Option (BitVec 32)
  done : List (BitVec 32 × Packet)
  last : Nat
  deriving DecidableEq, Repr

/-- A maquette copy received from another module (R347, R402), with a number of its own, by which free values are drawn. -/
structure MaqCopy where
  smod : BitVec 12
  stag : BitVec 16
  tag : Nat
  half0 : Option (List Byte)
  half1 : Option (List Byte)
  deriving DecidableEq, Repr

/-- A stream slot of a memory-side dataflow array: the identity of the maquette it holds, `mark` its seal (R335, R347); of a copy from another
module also that module and its tag (R402), with address 0. -/
structure MaqSlot where
  src : Option (BitVec 12 × BitVec 16)
  job : Nat
  addr : Nat
  version : BitVec 16
  mark : BitVec 32
  deriving DecidableEq, Repr

/-- Buffer lending at a port (R411-R413). As receiver: limits announced, limits still committed until the peer acknowledges, `hist` the limits
announced since the last acknowledged epoch with theirs (the acknowledged ones last), targets, flits of the interval, the tile clock at which
it began, the epoch and the acknowledged one. As the sending peer: the limits received and their epoch, the flits in flight on each channel,
and the epochs still to be acknowledged with their limits, oldest first. -/
structure Lend where
  limits : Vector (BitVec 16) 8
  committed : Vector (BitVec 16) 8
  targets : Vector (BitVec 16) 8
  used : Vector Nat 8
  since : BitVec 64
  epoch : BitVec 16
  acked : BitVec 16
  hist : List (BitVec 16 × Vector (BitVec 16) 8)
  peer : Vector (BitVec 16) 8
  peerEpoch : BitVec 16
  flying : Vector Nat 8
  owed : List (BitVec 16 × Vector (BitVec 16) 8)
  deriving DecidableEq, Repr

/-- Link control flits sent by a port (R413). -/
inductive CtlFlit where
  | limits (p : Nat) (epoch : BitVec 16) (v : Vector (BitVec 16) 8)
  | ack (p : Nat) (epoch : BitVec 16)
  deriving DecidableEq, Repr

/-- A request that has reached its die and waits to be performed (R274, R403): when and at which port it arrived, the next acceptance number of
its window's tile then (R318), and the read data kept while the result ATOM of a maquette (R346) is under way. -/
structure HomeReq where
  pkt : Packet
  at_ : Nat
  port : Nat
  ord : Nat
  held : Option (List Byte)
  deriving DecidableEq, Repr

/-- A combine pass whose result ATOM is under way (R346, R349): whose it is, the sectors that no other access reaches until it is over, and what it
then writes, as (bit address, width, value), for the byte at index `idx` that byte `va` names. -/
structure Lock where
  owner : Owner
  sectors : List Nat
  page : Page
  idx : Nat
  va : Nat
  puts : List (Nat × Nat × Nat)
  deriving DecidableEq, Repr

/-- The fabric gateways and ports (R394-R413, R419). `modset` says that modnum has been written since the reset (R459); `floors` is, per source
stream, the lowest SEQ that may still be unanswered (R404, R406); `slots` is, per stack, the maquettes its array's 16 stream slots hold, the
latest first (R335, R347); `locks` are the combine passes whose result ATOM is under way; `out` holds the packets that the gateways have sent, `stay` the places in it of
those that still wait for a port with credit, with their die (R413). -/
structure Fab where
  modnum : BitVec 12
  modset : Bool
  fabcfg : BitVec 64
  portup : BitVec 48
  linkdown : BitVec 66
  seqs : SMap Nat
  reqs : List FabReq
  nextTag : Nat
  replay : List Replay
  floors : SMap Nat
  maqs : List MaqCopy
  slots : SMap (List MaqSlot)
  locks : List Lock
  out : List Packet
  stay : List (Nat × DieId)
  homeq : List HomeReq
  lend : Vector Lend 48
  ctl : List CtlFlit
  discarded : Nat
  deriving DecidableEq, Repr

/-- What leaves towards the host and the board (R415-R417, R460, R420). `msix` says that a vector is signalled: a message, or a pending bit while
its table entry masks it. Of a host-window access: the 64-byte line, and of a write whether it is WOWrInvF (the whole line) or WOWrInv with its
byte enables; a read is RdCurr. -/
inductive HostMsg where
  | msix (vector : Nat)
  | readRsp (tag : Nat) (data : List Byte) (poisoned : Bool)
  | unsupported (tag : Nat)
  | snoop (sector : Nat)
  | winRead (tag : Nat) (hpa : Nat) (len : Nat)
  | winWrite (tag : Nat) (hpa : Nat) (full : Bool) (enables : BitVec 64) (data : List Byte)
  | imageRequest
  | ptpLevel (high : Bool)
  deriving DecidableEq, Repr

/-- An access that waits for the host: a window access of an owner, or a module access to a sector the host may hold. -/
structure WinReq where
  tag : Nat
  owner : Owner
  write : Bool
  va : Word64
  deriving DecidableEq, Repr

/-- An HDM decoder (R415): host base, size, HBM offset of the range, HOME bit. -/
structure Hdm where
  base : Nat
  size : Nat
  off : Nat
  striped : Bool
  deriving DecidableEq, Repr, Inhabited

/-- Free value: how the host programs the HDM decoders when the link has trained; the spec gives them no registers (log entry 20). -/
opaque Config.freeHdm : Nat → Vector Hdm 4

/-- The host port (R414-R417): `msix` is the MSI-X table, an entry's four words lowest first, `pend` its pending-bit array. -/
structure HostPort where
  out : List HostMsg
  msix : SMap (BitVec 128)
  pend : List Nat
  hdm : Vector Hdm 4
  tracked : List Nat
  snooping : List Nat
  win : List WinReq
  deriving DecidableEq, Repr

/-- The time unit (R420-R423). `now` is module time in units of 1/6,486,480 ns; `clk` the clocks since reset in the same units, which
nothing steps; `slew` the offset still to be slewed; `secs` the whole seconds of the last PTP measurement while 1PPS gives the phase (R420). -/
structure TimeUnit where
  now : Nat
  clk : Nat
  tmctl : BitVec 24
  state : BitVec 2
  unc : BitVec 32
  good : Nat
  leftAt : Nat
  lastSync : Nat
  everLocked : Bool
  deferred : Option Int
  slew : Int
  secs : Option Int
  pps : Bool
  ppsNext : Nat
  deriving DecidableEq, Repr

/-- What the lead has heard from one participant (R430, R431, R433). -/
structure PartRep where
  smod : BitVec 12
  arm : Bool
  agree : Bool
  clock : Bool
  query : Bool
  verdict : Option (BitVec 32 × Bool)
  ready : Bool
  deriving DecidableEq, Repr

/-- A decision of the lead (R430): code 1 TIME, 2 FALLBACK, 3 ABANDON, 4 COMMIT, with REASON, SMOD and HEARD; `go` that it is sent as GO. -/
structure GDec where
  code : BitVec 3
  reason : BitVec 8
  smod : BitVec 16
  heard : BitVec 16
  go : Bool
  deriving DecidableEq, Repr

/-- An armed timed-launch record (R425-R438): the record's bytes (of a LAUNCH also those of
its packet), its packet, and the state of this participant; `atT` that the values at T have been taken, `fin` that its result is. -/
structure Ridge where
  gang : Word64
  pkt : Nat
  job : JobId
  tlr : Word64
  bytes : List Byte
  armedAt : Nat
  late : Bool
  sentFb : Bool
  quiesced : Bool
  dec : Option GDec
  acted : Option Nat
  rflags : BitVec 8
  verdictSent : Bool
  readySent : Bool
  inflight : BitVec 32
  unc : BitVec 32
  drained : BitVec 32
  tiles : BitVec 16
  atT : Bool
  fin : Bool
  deriving DecidableEq, Repr

/-- The lead's view of a gang it leads (R428-R434), kept until 10 s after T (R430): its own record's bytes, what it has heard, its first
and second decisions, its latest one, and the participants it has answered with a GO of their own (R432). -/
structure LeadSt where
  gang : Word64
  t : Word64
  bytes : List Byte
  reps : List PartRep
  first : Option GDec
  second : Option GDec
  last : Option GDec
  gos : List (BitVec 12)
  deriving DecidableEq, Repr

/-- Gang time (R424-R438). -/
structure Gang where
  ridges : List Ridge
  leads : List LeadSt
  stuck : List JobId
  nextQuery : SMap Nat
  deriving DecidableEq, Repr

/-- A key slot (R464): its keys when full, its binding, and the offset written for the load or clear (0) in progress. -/
structure KeySlot where
  keys : Option (BitVec 256)
  bind : Word64
  busy : Bool
  err : Bool
  next : Option (BitVec 64)
  deriving DecidableEq, Repr

/-- Reset and firmware (R456-R461): `bring` is the bring-up step in progress, 6 and above when ready; `resetAt` when the reset began; `kept`
whether it kept HBM. -/
structure Hk where
  bring : Nat
  recovery : Bool
  resetAt : Nat
  kept : Bool
  last : BitVec 2
  warms : BitVec 32
  retain : Bool
  fw : Option FwImage
  fwMem : Mem
  deriving DecidableEq, Repr

/-- Security, attestation and power (R462-R467): `touched` that an HBM access has been accepted since the last cold reset; `stepAt` when the
throttle step last moved. `roots` stands for the root of each stack's integrity tree, on the die: the counter blocks that it vouches for, by page;
`vouched` are the pages whose verified counter block a controller's cache holds (R289; log entry 45). -/
structure Sec where
  enc : Bool
  encOn : Bool
  touched : Bool
  keys : SMap KeySlot
  tamper : Bool
  glitch : Bool
  tree : Bool
  attBusy : Bool
  attDone : Bool
  attOff : Word64
  cap : BitVec 8
  temp : BitVec 16
  power : BitVec 16
  step : BitVec 4
  stepAt : Nat
  roots : SMap PageCtr
  vouched : List Nat
  deriving DecidableEq, Repr

/-- Event counters (R468), keyed 8 x die + n: evsel and evcnt, and the counters written in the current clock, whose events are lost. -/
structure Counters where
  sel : SMap Word64
  cnt : SMap Word64
  wrote : List Nat
  deriving DecidableEq, Repr

/-- The context an instruction acts for, and the value of tv (R37) while it runs. The model's own. -/
structure Cur where
  tile : TileId
  stream : Stream
  ctx : CtxKind
  tv : Word64
  deriving DecidableEq, Repr

/-- What happens to the stores and links of the module from outside its logic: errors in a sector of HBM, by the symbols that they span (R284), that
make other data of it, with the code beside it (R284), or that its check bytes do not protect (R287); a counter block in HBM that is another one
(R289, R290); one more wrong bit, a double-bit error or other data in a scratchpad word (R469); errors of the accumulators (R218) and of the MDAs
(R350); link replays (R468); and firmware's clearing of a degraded mark (R230). -/
inductive PhysEv where
  | hbmErr (sec : Nat) (symbols : Nat)
  | hbmOther (sec : Nat) (bytes : List Byte) (code : BitVec 56)
  | hbmLoose (idx : Nat) (bit : Fin 8)
  | ctrOther (page : Nat) (major : BitVec 64) (minors : Vector (BitVec 7) 64)
  | spadSoft (t : TileId) (word : Nat)
  | spadBad (t : TileId) (word : Nat)
  | spadOther (t : TileId) (word : Nat) (v : BitVec 32)
  | accSoft (t : TileId)
  | accBad (t : TileId) (row : Nat)
  | mdaSoft (stack : Nat)
  | mdaBad (t : TileId) (store : Bool) (ch : Fin 8)
  | rafterReplay (die : DieId) (peer : DieId)
  | purlinReplay (p : PortId)
  | undegrade (t : TileId)
  deriving DecidableEq, Repr

/-- An access of the host to BAR0 or BAR2 (R415): offset, and bytes read under a tag or written. -/
inductive BarAcc where
  | read (bar2 : Bool) (off len tag : Nat)
  | write (bar2 : Bool) (off : Nat) (bytes : List Byte)
  deriving DecidableEq, Repr

/-- What acts next (the model's own): a core's turn to issue, an event, a tile clock, the eviction of a cached instruction word (R18, R19) or of
a cached translation (R283), that of a cached counter block (R289), an error or replay, a host access to a BAR, or room that the peer of a port gives back on a virtual channel
(R413), or a decision on the throttle step with its readings (R467). -/
inductive Turn where
  | core (t : TileId) (st : Stream) (k : CtxKind)
  | event (i : Instr)
  | tick
  | evictWord (t : TileId) (st : Stream) (addr : Word64)
  | evictPage (n : Nat)
  | evictCtr (page : Nat)
  | phys (e : PhysEv)
  | bar (a : BarAcc)
  | room (p : PortId) (vc : Fin 8) (n : Nat)
  | power (power temp : BitVec 16)
  deriving DecidableEq, Repr, Inhabited

/-- Free value: the turn the schedule takes when nothing is on the agenda: a core's, an event with what the outside decides about it, a
clock, an eviction (log entry 2). -/
opaque Config.freeTurn : Nat → Turn

/-- The module. -/
structure State where
  tiles : Vector Tile 192
  hbm : Mem
  sectors : SMap Sector
  pages : SMap PageCtr
  disp : Disp
  fab : Fab
  host : HostPort
  time : TimeUnit
  gang : Gang
  hk : Hk
  sec : Sec
  ctrs : Counters
  agenda : List Turn
  freeIdx : Nat
  cur : Cur
  deriving DecidableEq, Repr

/-- Faults of the model itself. There are none: every trap, refusal and error the spec describes is a next state (R33, R358, R373), and
every unit an instruction or event can name exists, so no execution stops with a fault. -/
inductive Fault where
  deriving DecidableEq, Repr

/-- Refusals: an instruction without a meaning. -/
inductive Refusal where
  /-- Raised by an arm of exec that has no meaning yet. Safe. -/
  | notModelled (mnemonic : String)
  deriving DecidableEq, Repr

/-- An inactive loop (R22). -/
def Loop.zero : Loop := ⟨0, 0, 0⟩

/-- Registers all zero, p0 true (R15, R30, R461). -/
def Regs.zero : Regs :=
  { g := Vector.replicate 32 0, p := (Vector.replicate 8 false).set 0 true, pc := 0, lc0 := Loop.zero, lc1 := Loop.zero,
    flags := 0, round := 0, seed := 0, srctr := 0 }

/-- No trap record (R362: trec resets to 0). -/
def TrapRec.zero : TrapRec :=
  { cause := 0, valid := false, async := false, peer := false, restore := false, alone := false, stream := 0, akind := 0, info := 0,
    tpc := 0, word := 0, addr := 0, infl := 0, pstream := 0, ford := .none, time := 0, cycle := 0 }

/-- A core after reset: no stream, service context in share mode (R362, R461). -/
def Core.reset : Core :=
  { u := { regs := Regs.zero, lost := 0, wdog := 16, life := .absent, exitVal := 0 },
    v := { regs := Regs.zero, mode := .share, trec := TrapRec.zero, vote := none, share := 0, credit := 0, vec := 0, idle := none,
           woke := none, held := false, ridge := 0 },
    ic := [], word := none, codes := [], issued := false, tried := false, stall := none, remote := none, stopped := false, pend := none }

/-- An empty, closed queue with ceiling 16. -/
def TokQ.reset : TokQ :=
  { ents := Vector.replicate 16 0, count := 0, ceil := 16, reserved := 0, closed := true, endMark := none, fresh := 0, freed := 0, ords := [],
    freshEnd := false }

/-- A channel with no operations. -/
def Chan.reset : Chan := ⟨[], 0⟩

/-- No operation on any unit. -/
def Engines.reset : Engines :=
  { running := none, pending := none, mout := none, chLoad := Vector.replicate 8 Chan.reset, chStore := Vector.replicate 8 Chan.reset,
    cf := [], order := 0, frozenX := [], frozenN := [], frozenM := [], kept := [] }

/-- No drain (R362: svstat resets to 0). -/
def Drain.none : Drain :=
  { draining := false, drained := false, trig := 0, restore := false, preq := false, spend := .none, first := .none, cancel := false,
    dead := false, quiet := false, timeout := false, ridge := false, mark := 0 }

/-- The stores of a tile after reset, and at task start but for the scratchpad (R166, R217, R219, R293). -/
def Store.reset : Store :=
  { spad := [], spadBad := [], spadSoft := [], v := Vector.replicate 64 0, mask := Vector.replicate 16 0, depth := 0, acc := [], accBad := [],
    shadow := Vector.replicate 20 0, tags := [], recs := [], infl := [] }

/-- An idle tile. -/
def Tile.reset : Tile :=
  { ld := Core.reset, cp := Core.reset, st := Core.reset, queues := Vector.replicate 6 TokQ.reset, store := Store.reset,
    eng := Engines.reset, task := none, drain := Drain.none, blocked := 0, wcount := 0, sink := false, cycle := 0, residues := 0,
    columns := [], degraded := false }

/-- A sector that no access of a page has written: ordinary scheme, correct (R459 step 4). -/
def Sector.fresh : Sector := { scheme := 0, tfmt := 0, key := 0, tag := 0, err := 0 }

/-- A counter block as the initialisation leaves it (R463). -/
def PageCtr.fresh : PageCtr := { major := 0, minors := Vector.replicate 64 0, zeroed := 0 }

/-- A job's registers at reset (R242, R278, R379). -/
def JobSt.reset : JobSt := { jdone := 0, jphase := 0, xpt := 0, xrt := 0, xat := 0, invBusy := false, pre := 0, jsave := 0, lastPhase := 0 }

/-- A user queue at reset (R249, R250). -/
def UQueue.reset : UQueue := { base := 0, cfg := 0, err := 0, state := 0, notified := false, reading := false, upto := none, gen := 0 }

/-- A disabled feed (R266). -/
def Feed.reset : Feed := { job := 0, cap := 0, recs := [], seq := 0, waiters := [] }

/-- The dispatchers at reset. -/
def Disp.reset : Disp :=
  { jobs := [], queues := [], pkts := [], nextPkt := 0, feeds := [], deficit := [], pointer := [], tlb := [], saved := [], hangLog := [],
    nofit := [], far := [], landing := [], engs := [] }

/-- Equal limits of 512 flits (the start of the example of R413). -/
def Lend.reset : Lend :=
  { limits := Vector.replicate 8 512, committed := Vector.replicate 8 512, targets := Vector.replicate 8 512,
    used := Vector.replicate 8 0, since := 0, epoch := 0, acked := 0, hist := [(0, Vector.replicate 8 512)],
    peer := Vector.replicate 8 512, peerEpoch := 0, flying := Vector.replicate 8 0, owed := [] }

/-- fabcfg at reset: RTO 16, TRIES 8 (R419). -/
def fabcfgReset : BitVec 64 := 0x1008

/-- The fabric at reset: ports down (R458). -/
def Fab.reset : Fab :=
  { modnum := 0, modset := false, fabcfg := fabcfgReset, portup := 0, linkdown := 0, seqs := [], reqs := [], nextTag := 0, replay := [],
    floors := [], maqs := [], slots := [], locks := [], out := [], stay := [], homeq := [], lend := Vector.replicate 48 Lend.reset, ctl := [], discarded := 0 }

/-- The host port at reset: no decoder maps anything. -/
def HostPort.reset : HostPort := { out := [], msix := [], pend := [], hdm := Vector.replicate 4 ⟨0, 0, 0, false⟩, tracked := [], snooping := [], win := [] }

/-- The time unit at reset: FREERUN (R421, R422). -/
def TimeUnit.reset : TimeUnit :=
  { now := 0, clk := 0, tmctl := 0, state := 0, unc := 0xFFFFFFFF, good := 0, leftAt := 0, lastSync := 0, everLocked := false,
    deferred := none, slew := 0, secs := none, pps := false, ppsNext := 0 }

/-- No gang. -/
def Gang.reset : Gang := { ridges := [], leads := [], stuck := [], nextQuery := [] }

/-- An empty key slot (R456, R464). -/
def KeySlot.reset : KeySlot := { keys := none, bind := 0, busy := false, err := false, next := none }

/-- Bring-up step 1, no image (R459, R460). -/
def Hk.reset : Hk :=
  { bring := 1, recovery := false, resetAt := 0, kept := false, last := 0, warms := 0, retain := false, fw := none,
    fwMem := [] }

/-- Security and power state after a cold reset (R456, R462, R467). -/
def Sec.reset : Sec :=
  { enc := false, encOn := false, touched := false, keys := [], tamper := false, glitch := false, tree := false, attBusy := false,
    attDone := false, attOff := 0, cap := 145, temp := 0, power := 0, step := 0, stepAt := 0,
    roots := [], vouched := [] }

/-- The module right after a cold reset (R456-R459). -/
def State.reset : State :=
  { tiles := Vector.replicate 192 Tile.reset, hbm := [], sectors := [], pages := [], disp := Disp.reset, fab := Fab.reset, host := HostPort.reset,
    time := TimeUnit.reset, gang := Gang.reset, hk := Hk.reset, sec := Sec.reset, ctrs := ⟨[], [], []⟩, agenda := [], freeIdx := 0,
    cur := ⟨0, .load, .user, 0⟩ }

end Sys2Proof.Machine
end

