-- ==== Sys2Proof/Machine/Ops.lean ====
section
/-! DEFINITION. The named operations over the state: tiles, cores and their registers, token queues (chapter 06), event counters, taking a
trap (R33, R360-R373), the start of a drain (R363-R365), and the order in which an instruction is checked, performed and retired (R35). -/

namespace Sys2Proof.Machine

/-- The outcome of a step. -/
abbrev Out := Host.Outcome State Fault Refusal

/-- A tile of the module. -/
def State.tile (s : State) (t : TileId) : Tile := s.tiles[t.val]'t.isLt

/-- The module with one tile replaced. -/
def State.setTile (s : State) (t : TileId) (x : Tile) : State := { s with tiles := s.tiles.set t.val x t.isLt }

/-- The core of a stream (R142). -/
def Tile.core (x : Tile) : Stream → Core
  | .load => x.ld
  | .compute => x.cp
  | .store => x.st

/-- The tile with one core replaced. -/
def Tile.setCore (x : Tile) (st : Stream) (c : Core) : Tile :=
  match st with
  | .load => { x with ld := c }
  | .compute => { x with cp := c }
  | .store => { x with st := c }

/-- The registers of a context of a core. -/
def Core.regs (c : Core) : CtxKind → Regs
  | .user => c.u.regs
  | .service => c.v.regs

/-- The core with the registers of a context replaced. -/
def Core.setRegs (c : Core) (k : CtxKind) (r : Regs) : Core :=
  match k with
  | .user => { c with u := { c.u with regs := r } }
  | .service => { c with v := { c.v with regs := r } }

/-- The tile of the acting context. -/
def State.me (s : State) : Tile := s.tile s.cur.tile
/-- The module with the tile of the acting context replaced. -/
def State.setMe (s : State) (x : Tile) : State := s.setTile s.cur.tile x
/-- The acting core. -/
def State.myCore (s : State) : Core := s.me.core s.cur.stream
/-- The module with the acting core replaced. -/
def State.setMyCore (s : State) (c : Core) : State := s.setMe (s.me.setCore s.cur.stream c)
/-- The registers of the acting context. -/
def State.regs (s : State) : Regs := s.myCore.regs s.cur.ctx
/-- The module with the registers of the acting context replaced. -/
def State.setRegs (s : State) (r : Regs) : State := s.setMyCore (s.myCore.setRegs s.cur.ctx r)
/-- The PC of the acting context. -/
def State.pc (s : State) : Word64 := s.regs.pc
/-- The die of the acting tile (R3). -/
def dieOf (t : TileId) : DieId := ⟨t.val / 16, by omega⟩

/-- Reading a general register: g0 reads 0 (R15). -/
def Regs.readG (r : Regs) (n : Fin 32) : Word64 := if n = 0 then 0 else r.g[n.val]'n.isLt
/-- Writing a general register: writes to g0 are discarded (R15). -/
def Regs.writeG (r : Regs) (n : Fin 32) (v : Word64) : Regs := if n = 0 then r else { r with g := r.g.set n.val v n.isLt }
/-- Reading a predicate: p0 reads true (R15). -/
def Regs.readP (r : Regs) (n : Fin 8) : Bool := if n = 0 then true else r.p[n.val]'n.isLt
/-- Writing a predicate: writes to p0 are discarded (R15). -/
def Regs.writeP (r : Regs) (n : Fin 8) (v : Bool) : Regs := if n = 0 then r else { r with p := r.p.set n.val v n.isLt }

/-- A general register of the acting context. -/
def State.readG (s : State) (n : Fin 32) : Word64 := s.regs.readG n
/-- Writing a general register of the acting context. -/
def State.writeG (s : State) (n : Fin 32) (v : Word64) : State := s.setRegs (s.regs.writeG n v)
/-- A predicate of the acting context. -/
def State.readP (s : State) (n : Fin 8) : Bool := s.regs.readP n
/-- Writing a predicate of the acting context. -/
def State.writeP (s : State) (n : Fin 8) (v : Bool) : State := s.setRegs (s.regs.writeP n v)
/-- The flags ORed into ctl.flags (R25): bits NV DZ OF UF NX from 4 down. -/
def State.orFlags (s : State) (f : BitVec 5) : State := s.setRegs { s.regs with flags := s.regs.flags ||| f }

/-- Marks a sink event of the acting tile (R382). -/
def State.sink (s : State) : State := s.setMe { s.me with sink := true }

/-- Module time in nanoseconds (R26, R421). -/
def State.ns (s : State) : Nat := s.time.now / unitsPerNs
/-- Module time as a 64-bit word. -/
def State.ns64 (s : State) : Word64 := BitVec.ofNat 64 s.ns

/-- An entry of the MSI-X table at reset: its vector is masked, as PCI Express resets it (log entry 20). -/
def msixReset : BitVec 128 := 0x1000000000000000000000000
/-- Whether a vector's table entry masks it (R415). -/
def HostPort.masked (h : HostPort) (v : Nat) : Bool := (smGet msixReset v h.msix).getLsbD 96
/-- The pending bits after a message: a masked vector's is set (R415). -/
def HostPort.pendAfter (h : HostPort) : HostMsg → List Nat
  | .msix v => if h.masked v && !h.pend.contains v then v :: h.pend else h.pend
  | _ => h.pend

/-- A message towards the host or the board. -/
def State.sendHost (s : State) (m : HostMsg) : State :=
  { s with host := { s.host with out := s.host.out ++ [m], pend := s.host.pendAfter m } }

/-- A fresh index into the free values. -/
def State.bump (s : State) : State := { s with freeIdx := s.freeIdx + 1 }

/-! ### The header of a firmware image (R460) -/

/-- VERSION. -/
def fwVersion (f : FwImage) : Nat := fieldAt f.header 0 2
/-- SVN. -/
def fwSvn (f : FwImage) : Nat := fieldAt f.header 2 2
/-- LEN: the bytes of code after the header. -/
def fwLen (f : FwImage) : Nat := fieldAt f.header 4 4
/-- DIGEST. -/
def fwDigest (f : FwImage) : Nat := fieldAt f.header 8 32
/-- ENTRY. -/
def fwEntry (f : FwImage) : BitVec 64 := BitVec.ofNat 64 (fieldAt f.header 0x28 8)
/-- SIG. -/
def fwSig (f : FwImage) : BitVec 512 := BitVec.ofNat 512 (fieldAt f.header 0x80 64)
/-- The code: LEN bytes after the header. -/
def fwCode (f : FwImage) : List Byte := f.code.take (fwLen f)

/-- The reset value of evsel (R468). -/
def evselReset : Word64 := 0xFF00

/-- Whether a counter selects source `src` of unit `unit`; unit 256 stands for a source without units (R468). -/
def evSelects (sel : Word64) (src : Nat) (unit : Nat) : Bool :=
  sel.getLsbD 31 && sel.toNat % 256 == src && (unit == 256 || sel.toNat / 256 % 256 == 255 || sel.toNat / 256 % 256 == unit)

/-- The counters of a die after `n` events of one source and unit (R468): a counter written in this clock loses them. -/
def Counters.add (c : Counters) (die src unit n : Nat) : Counters :=
  (List.range 8).foldl
    (fun a i =>
      let k := 8 * die + i
      if evSelects (smGet evselReset k a.sel) src unit && !a.wrote.contains k then
        { a with cnt := smSet 0 k (smGet 0 k a.cnt + BitVec.ofNat 64 n) a.cnt }
      else a) c

/-- An event of a die (R468). -/
def State.countEvent (s : State) (die src unit n : Nat) : State := { s with ctrs := s.ctrs.add die src unit n }

/-! ### Token queues (R143-R156) -/

/-- The other two cores, in the order of R41. -/
def peerOf : Stream → Bool → Stream
  | .load, false => .compute
  | .load, true => .store
  | .compute, false => .load
  | .compute, true => .store
  | .store, false => .compute
  | .store, true => .load

/-- The queue a stream posts to, first or second peer, in the order of R377. -/
def queueOut : Stream → Bool → Fin 6
  | .load, false => 0
  | .load, true => 1
  | .compute, false => 2
  | .compute, true => 3
  | .store, false => 4
  | .store, true => 5

/-- The queue a stream waits on, first or second peer (R143). -/
def queueIn : Stream → Bool → Fin 6
  | .load, false => 2
  | .load, true => 5
  | .compute, false => 0
  | .compute, true => 4
  | .store, false => 3
  | .store, true => 1

/-- A queue of a tile. -/
def Tile.queue (x : Tile) (q : Fin 6) : TokQ := x.queues[q.val]'q.isLt
/-- The tile with a queue replaced. -/
def Tile.setQueue (x : Tile) (q : Fin 6) (v : TokQ) : Tile := { x with queues := x.queues.set q.val v q.isLt }

/-- Whether the consumer of a queue that `st` posts to is live (R153). -/
def Tile.consumerLive (x : Tile) (st : Stream) (second : Bool) : Bool := (x.core (peerOf st second)).u.life == .live

/-- The peers a selector names, first peer first (R41). -/
def peersOf : QSel → List Bool
  | .first => [false]
  | .second => [true]
  | .both => [false, true]

/-- The queue code of R156. -/
def peerCode (second : Bool) : BitVec 2 := if second then 2 else 1
/-- The queue code of a selector. -/
def selCode : QSel → BitVec 2
  | .first => 1
  | .second => 2
  | .both => 3

/-- What a wait finds at one queue (R146, R150). -/
inductive Head where
  | head (tok : BitVec 16)
  | orphan
  | empty
  deriving DecidableEq, Repr

/-- The head of a queue as a wait of this clock sees it: tokens that entered in this clock are not yet seen (R150); the END mark stands
behind the tokens (R152). -/
def TokQ.head (q : TokQ) : Head :=
  if q.fresh < q.count.toNat then .head q.ents[0]
  else if q.count = 0 then
    match q.endMark with
    | some v => if q.freshEnd then .empty else .head (BitVec.ofNat 16 (14 * 4096 + v.toNat))
    | none => if q.closed then .orphan else .empty
  else .empty

/-- Popping the head (R146): a token leaves, or the END mark. -/
def TokQ.pop (q : TokQ) : TokQ :=
  if q.count = 0 then { q with endMark := none }
  else { q with ents := Vector.ofFn fun i => if h : i.val + 1 < 16 then q.ents[i.val + 1] else 0, count := q.count - 1, freed := q.freed + 1 }

/-- How many tokens of this clock stand before a token of acceptance number `ord`: those accepted no later (R149). -/
def TokQ.rank (q : TokQ) (ord : Nat) : Nat := (q.ords.takeWhile fun k => k ≤ ord).length

/-- A token enters behind the tokens held (R149); of the tokens that enter in one clock, those of instructions accepted earlier stand first.
`ord` is the acceptance number of its instruction. -/
def TokQ.push (q : TokQ) (ord : Nat) (tok : BitVec 16) : TokQ :=
  let at_ := q.count.toNat - q.fresh + q.rank ord
  { q with
    ents := Vector.ofFn fun i =>
      if i.val < at_ then q.ents[i.val]'i.isLt else if i.val = at_ then tok else if h : i.val - 1 < 16 then q.ents[i.val - 1] else 0,
    count := q.count + 1, fresh := q.fresh + 1, ords := q.ords.insertIdx (q.rank ord) ord }

/-- Tokens held and slots reserved. -/
def TokQ.held (q : TokQ) : Nat := q.count.toNat + q.reserved

/-- The room a post of this clock finds (R144, R150): slots freed in this clock are not yet room. -/
def TokQ.room (q : TokQ) : Nat := q.ceil.toNat - (q.held + q.freed)

/-- What the wait of a SYNC field finds (R146, R147). -/
inductive WaitRes where
  | ok (tv : Word64)
  | trap (cause : BitVec 8) (info : BitVec 32)
  | stall (code : BitVec 2)
  deriving DecidableEq, Repr

/-- TOKEN_TYPE information (R156). -/
def tokenTypeInfo (tok : BitVec 16) (ty : Nat) (second : Bool) : BitVec 32 :=
  BitVec.ofNat 32 (tok.toNat * 65536 + ty * 16 + (peerCode second).toNat)

/-- Whether a head satisfies a wait type (R41). -/
def headOk (tok : BitVec 16) (ty : Nat) : Bool := ty == 0 || tok.toNat / 4096 == ty

/-- The 12-bit value of a token, as tv (R37). -/
def tokValue (tok : BitVec 16) : Word64 := BitVec.ofNat 64 (tok.toNat % 4096)

/-- A wait on one queue (R146). -/
def waitOne (x : Tile) (st : Stream) (second : Bool) (ty : Nat) : WaitRes :=
  match (x.queue (queueIn st second)).head with
  | .head tok => if headOk tok ty then .ok (tokValue tok) else .trap 0x08 (tokenTypeInfo tok ty second)
  | .orphan => .trap 0x0B ((peerCode second).setWidth 32)
  | .empty => .stall (peerCode second)

/-- A wait on both queues (R42, R147). -/
def waitBoth (x : Tile) (st : Stream) (ty : Nat) : WaitRes :=
  match (x.queue (queueIn st false)).head, (x.queue (queueIn st true)).head with
  | .orphan, _ => .trap 0x0B 1
  | _, .orphan => .trap 0x0B 2
  | .head a, .head b =>
    if headOk a ty then (if headOk b ty then .ok (tokValue a) else .trap 0x08 (tokenTypeInfo b ty true))
    else .trap 0x08 (tokenTypeInfo a ty false)
  | .empty, .empty => .stall 3
  | .empty, _ => .stall 1
  | _, .empty => .stall 2

/-- The wait of a SYNC field (R41). -/
def waitRes (x : Tile) (st : Stream) : Option WaitSpec → WaitRes
  | none => .ok 0
  | some w =>
    match w.q with
    | .first => waitOne x st false w.ty.val
    | .second => waitOne x st true w.ty.val
    | .both => waitBoth x st w.ty.val

/-- The heads that a satisfied wait pops (R13). -/
def popWait (x : Tile) (st : Stream) : Option WaitSpec → Tile
  | none => x
  | some w => (peersOf w.q).foldl (fun y b => y.setQueue (queueIn st b) (y.queue (queueIn st b)).pop) x

/-- A post: selector, type, value, no-block, and how many equal tokens (R112, R113). -/
structure Post where
  q : QSel
  ty : BitVec 4
  val : BitVec 12
  nb : Bool
  n : Nat
  deriving DecidableEq, Repr

/-- The token of a post (R145). -/
def Post.tok (p : Post) : BitVec 16 := p.ty ++ p.val

/-- How many tokens a list of posts sends to one peer's queue. -/
def demand (ps : List Post) (second : Bool) : Nat :=
  ps.foldl (fun a p => if (peersOf p.q).contains second then a + p.n else a) 0

/-- Whether a post of the list goes to the peer under no-block. -/
def anyNb (ps : List Post) (second : Bool) : Bool := ps.any fun p => p.nb && (peersOf p.q).contains second

/-- The result of the post check of R113. -/
inductive PostRes where
  | ok
  | overflow (info : BitVec 32)
  | stall (code : BitVec 2)
  deriving DecidableEq, Repr

/-- TOKEN_OVERFLOW information (R156), of the queue as it stood before the pops of this clock (R150). -/
def overflowInfo (q : TokQ) (second : Bool) : BitVec 32 :=
  BitVec.ofNat 32 ((q.held + q.freed) * 65536 + q.ceil.toNat * 256 + (peerCode second).toNat)

/-- Whether the queue to a peer lacks room for the posts: a queue without a live consumer never does (R153). -/
def lacks (x : Tile) (st : Stream) (ps : List Post) (second : Bool) : Bool :=
  x.consumerLive st second && (x.queue (queueOut st second)).room < demand ps second

/-- The check before acceptance (R113), on the queues as they stand before the instruction's own pops (R150); of the
queues that lack room the first with a post that may not wait is reported (log entry 59). -/
def postCheck (x : Tile) (st : Stream) (ps : List Post) : PostRes :=
  let l1 := lacks x st ps false
  let l2 := lacks x st ps true
  if l1 && anyNb ps false then .overflow (overflowInfo (x.queue (queueOut st false)) false)
  else if l2 && anyNb ps true then .overflow (overflowInfo (x.queue (queueOut st true)) true)
  else if l1 && l2 then .stall 3
  else if l1 then .stall 1
  else if l2 then .stall 2
  else .ok

/-- ctl.lost grown by one, saturating (R23, R153). -/
def bumpLost (c : BitVec 32) : BitVec 32 := if c = 0xFFFFFFFF then c else c + 1

/-- One token to one peer: into its queue in the order of acceptance `ord`, a sink event (R382), or discarded when it has no live consumer
(R153). -/
def postTok (x : Tile) (st : Stream) (ord : Nat) (second : Bool) (tok : BitVec 16) : Tile :=
  if x.consumerLive st second then
    { x.setQueue (queueOut st second) ((x.queue (queueOut st second)).push ord tok) with sink := true }
  else
    let c := x.core st
    x.setCore st { c with u := { c.u with lost := bumpLost c.u.lost } }

/-- `n` equal tokens to one peer. -/
def postToks (x : Tile) (st : Stream) (ord : Nat) (second : Bool) (tok : BitVec 16) : Nat → Tile
  | 0 => x
  | n + 1 => postToks (postTok x st ord second tok) st ord second tok n

/-- One post made (R113), of an instruction that retires as it is accepted: every operation accepted before it has a smaller number. -/
def makePost (x : Tile) (st : Stream) (p : Post) : Tile :=
  (peersOf p.q).foldl (fun y b => postToks y st x.eng.order b p.tok p.n) x

/-- Posts made in order (R113). -/
def makePosts (x : Tile) (st : Stream) (ps : List Post) : Tile := ps.foldl (fun y p => makePost y st p) x

/-- The post of a SYNC field, its register read at issue (R42). -/
def syncPost (s : State) (sy : Sync) : List Post :=
  match sy.post with
  | none => []
  | some p =>
    [{ q := p.q, ty := BitVec.ofNat 4 p.ty.val, nb := p.nb, n := 1,
       val := match p.val with | .imm v => v | .reg r => (s.readG r).setWidth 12 }]

/-- The pending post an asynchronous instruction keeps (R42, R148). -/
def pendPost (s : State) (sy : Sync) : Option PendPost :=
  match sy.post with
  | none => none
  | some p => some { q := p.q, ty := p.ty, val := match p.val with | .imm v => v | .reg r => (s.readG r).setWidth 12 }

/-- Whether the consumer of a queue that `st` posts to is absent (R151). -/
def Tile.consumerAbsent (x : Tile) (st : Stream) (second : Bool) : Bool := (x.core (peerOf st second)).u.life == .absent

/-- Whether the consumer of a queue that `st` posts to has exited (R153). -/
def Tile.consumerExited (x : Tile) (st : Stream) (second : Bool) : Bool := (x.core (peerOf st second)).u.life == .exited

/-- Changes the reserved count of one queue (R148). A queue without a consumer reserves nothing (R114: in a lone stream COUNT is 0; log
entry 58); one whose consumer has exited does (R153). -/
def reserveAt (x : Tile) (st : Stream) (f : TokQ → TokQ) (second : Bool) : Tile :=
  if x.consumerAbsent st second then x else x.setQueue (queueOut st second) (f (x.queue (queueOut st second)))

/-- Changes the reserved counts of the queues to which a pending post goes. -/
def postQueues (x : Tile) (st : Stream) (f : TokQ → TokQ) : Option PendPost → Tile
  | none => x
  | some p => (peersOf p.q).foldl (fun y b => reserveAt y st f b) x

/-- Takes the reserved slots of an accepted asynchronous instruction (R148). -/
def reservePost (x : Tile) (st : Stream) (p : Option PendPost) : Tile := postQueues x st (fun q => { q with reserved := q.reserved + 1 }) p

/-- Frees the reserved slots of an operation that will make no post (R230, R332); they are room from the next clock (R150). -/
def releasePost (x : Tile) (st : Stream) (p : Option PendPost) : Tile :=
  postQueues x st (fun q => { q with reserved := q.reserved - 1, freed := q.freed + 1 }) p

/-- The post of an operation at its retirement: the token replaces the reservation (R148), or is discarded (R153). `ord` is its acceptance
number. -/
def retirePost (x : Tile) (st : Stream) (ord : Nat) : Option PendPost → Tile
  | none => x
  | some p =>
    (peersOf p.q).foldl
      (fun y b =>
        postTok (reserveAt y st (fun q => { q with reserved := q.reserved - 1 }) b) st ord b (BitVec.ofNat 4 p.ty.val ++ p.val)) x

/-! ### Traps -/

/-- What a trap reports (R359): cause, information word, what ADDR holds. -/
structure TrapInfo where
  cause : BitVec 8
  info : BitVec 32
  akind : BitVec 8 := 0
  addr : Word64 := 0
  deriving DecidableEq, Repr

/-- ctl.stream of a stream (R23). -/
def streamCode : Stream → Nat
  | .load => 0
  | .compute => 1
  | .store => 2

/-- The cached word at an address of a context (R18). -/
def Core.cached (c : Core) (k : CtxKind) (a : Word64) : Option Word128 :=
  (c.ic.find? fun e => e.kind == k && e.addr == a).map (·.word)

/-- The word at a core's user PC as its record gives it (R360): the one fetched and not yet issued, else a cached one, else 0. -/
def recordWord (c : Core) : Word128 :=
  match c.word.filter fun e => e.addr == c.u.regs.pc with
  | some e => e.word
  | none => (c.cached .user c.u.regs.pc).getD 0

/-- A trap record of a stream of a tile (R360). -/
def trapRec (s : State) (t : TileId) (st : Stream) (ti : TrapInfo) : TrapRec :=
  let c := (s.tile t).core st
  { TrapRec.zero with
    cause := ti.cause, valid := true, stream := BitVec.ofNat 8 (streamCode st), akind := ti.akind, info := ti.info, addr := ti.addr,
    tpc := c.u.regs.pc, word := recordWord c, infl := 0xFF, pstream := 0xFF, time := s.ns64, cycle := (s.tile t).cycle }

/-- The loop check (R28): lc1 first; lc0 while the next address is still the following word. -/
def loopNext (r : Regs) (a : Word64) : Regs :=
  let hit1 := r.lc1.count ≠ 0 ∧ a = r.lc1.fin
  let c1 := r.lc1.count - 1
  let r1 := if hit1 then { r with lc1 := { r.lc1 with count := c1 } } else r
  let next := if hit1 ∧ c1 ≠ 0 then r.lc1.start else a + 16
  if next = a + 16 ∧ r.lc0.count ≠ 0 ∧ a = r.lc0.fin then
    let c0 := r.lc0.count - 1
    { r1 with lc0 := { r.lc0 with count := c0 }, pc := if c0 ≠ 0 then r.lc0.start else a + 16 }
  else { r1 with pc := next }

/-- An IDLE in progress ends with a wake code; one that ended in this clock takes the higher of its codes (R378). -/
def wakeIdle (v : SvCtx) (code : Word64) : SvCtx :=
  match v.idle, v.woke with
  | some (_, d), _ => { v with idle := none, woke := some (code, d), regs := loopNext (v.regs.writeG d code) v.regs.pc }
  | none, some (c, d) => if c < code then { v with woke := some (code, d), regs := v.regs.writeG d code } else v
  | none, none => v

/-- Entering a service context (R159, R160, R364): the record is written and execution goes to ctl.svvec; an IDLE in share mode wakes
with code 2 (R378). -/
def enterService (c : Core) (mode : SvMode) (r : TrapRec) : Core :=
  let v := wakeIdle c.v 2
  { c with v := { v with mode := mode, trec := r, vote := none, held := false, regs := { v.regs with pc := v.vec } }, stopped := true,
           pend := none, stall := none }

/-- Whether an outstanding access completes when its stream is stopped (R364): a scalar access that has been sent, answered or not, or waits at
its home in this module, or an ENQ. One that waits for the stream's transfers accepted earlier (R300) has done neither, and is
abandoned (log entries 18 and 30). -/
def Remote.completes (r : Remote) : Bool :=
  match r.kind with
  | .scalar => r.sent || r.here
  | .enq => true
  | _ => false

/-- Whether an instruction holds the core that completes when its stream is stopped (R364, R21): of the user context, or of a service context
in share mode. -/
def heldAccess (c : Core) : Bool := c.remote.any Remote.completes

/-- Whether the user context holds the core with such an instruction. -/
def heldUser (c : Core) : Bool := c.remote.any fun r => r.ctx == .user && r.completes

/-- The outstanding access of a core's service context alone. -/
def Core.ownRemote (c : Core) : Option Remote := c.remote.filter fun r => r.ctx == .service

/-- A live stream stops (R364): its service context is entered, or waits for the access that holds the core; a context entered alone keeps its
record and joins the drain; one that has returned with its decision stays (R372); in a cancel's drain no context is entered, and one in share
mode goes on (R363). -/
def stopCore (c : Core) (quiet : Bool) (r : TrapRec) : Core :=
  if c.u.life ≠ .live then c
  else
    match c.v.mode with
    | .alone => { c with v := { c.v with mode := if quiet then .alone else .entered }, stopped := true }
    | .entered => c
    | .share =>
      if c.v.vote.isSome then { c with stopped := true }
      else if heldUser c || (!quiet && heldAccess c) then { c with stopped := true, pend := some r }
      else if quiet then { c with stopped := true, stall := none, remote := c.ownRemote }
      else enterService { c with remote := none } .entered r

/-- A record passes to the first stalled FEEDPOP that holds none (R268). -/
def passAssigned : List Waiter → Word64 → List Waiter
  | [], _ => []
  | w :: r, q => if w.got.isNone then { w with got := some q } :: r else w :: passAssigned r q

/-- The waiters without those of tile `t`: what was assigned to one passes to the next in order (R268). -/
def dropWaiter (t : Nat) (ws : List Waiter) : List Waiter :=
  (ws.filter fun w => w.tile == t).foldl (fun a w => match w.got with | some q => passAssigned a q | none => a)
    (ws.filter fun w => w.tile != t)

/-- Stalled FEEDPOPs of a tile leave every feed (R268). -/
def dropWaiters (s : State) (t : TileId) : State :=
  { s with disp := { s.disp with feeds := s.disp.feeds.map fun kf => (kf.1, { kf.2 with waiters := dropWaiter t.val kf.2.waiters }) } }

/-- A channel whose CHCAN a drain has abandoned (R332): its operations are stopped by the drain alone. -/
def Chan.keep (c : Chan) : Chan := { c with ops := c.ops.map fun o => { o with cancel := false } }

/-- The start of a drain (R363-R365): every live stream stops at an instruction boundary with its record, operations start no new work,
the watchdog and deadlock counts stop. A second trigger changes nothing here (R367). -/
def startDrain (s : State) (t : TileId) (quiet : Bool) (trig : BitVec 8) (first : Option TrapRec) (recOf : Stream → TrapRec) : State :=
  let s := dropWaiters s t
  let x := s.tile t
  if x.drain.draining || x.drain.drained then s
  else
    let x := { x with
      ld := stopCore x.ld quiet (recOf .load), cp := stopCore x.cp quiet (recOf .compute), st := stopCore x.st quiet (recOf .store),
      eng := { x.eng with chLoad := x.eng.chLoad.map Chan.keep, chStore := x.eng.chStore.map Chan.keep },
      drain := { x.drain with draining := true, trig := trig, first := first, quiet := quiet, cancel := quiet,
                              mark := x.eng.order }, blocked := 0 }
    (s.setTile t x).countEvent (dieOf t).val 0x0C (t.val % 16) 1

/-- A PEER record (R361): stopped because another stream trapped. -/
def peerRec (s : State) (t : TileId) (st : Stream) (by_ : BitVec 8) : TrapRec :=
  { trapRec s t st { cause := 0, info := 0 } with peer := true, pstream := by_ }

/-- Whether a record is of a FABRIC TIMEOUT (R408, R409). -/
def isTimeout (r : TrapRec) : Bool := r.cause == 0x28 && r.info.toNat / 256 % 256 == 1

/-- A record with the module time and the cycle of another: those at entry (R360). -/
def TrapRec.entryOf (r e : TrapRec) : TrapRec := { r with time := e.time, cycle := e.cycle }

/-- A trap that a stream raises while its tile drains (R361): it replaces a PEER record, also one that waits for the held instruction, which
a fault of an operation leaves to complete; no other record is replaced. A record that replaces one already written keeps its time and cycle of
entry (R360). -/
def lateRecord (x : Tile) (st : Stream) (r : TrapRec) : Tile :=
  let c := x.core st
  match c.pend with
  | some p =>
    let p := if p.peer then r else p
    if r.async then x.setCore st { c with pend := some p }
    else if x.drain.quiet then x.setCore st { c with remote := c.ownRemote, pend := none }
    else x.setCore st (enterService { c with remote := none } .entered (p.entryOf r))
  | none => if c.v.mode = .entered ∧ c.v.trec.peer then x.setCore st { c with v := { c.v with trec := r.entryOf c.v.trec } } else x

/-- A core of a drain whose record names `n` as the stream of the drain's first trap; an SVCALL's record stays (R372). -/
def pstreamCore (n : BitVec 8) (c : Core) : Core :=
  if c.v.mode = .entered ∧ !c.v.trec.alone then { c with v := { c.v with trec := { c.v.trec with pstream := n } } }
  else { c with pend := c.pend.map fun p => { p with pstream := n } }

/-- Whether a trap raised while its tile drains comes first after all (R361, R163): it falls in the trigger's cycle, and its stream is a lower
one than that of the drain's first trap. -/
def comesFirst (x : Tile) (r : TrapRec) : Bool :=
  match x.drain.first with
  | some f => x.drain.draining && f.pstream != 0xFF && f.cycle == r.cycle && r.stream < f.stream
  | none => false

/-- A trap of a stream in a drain that has begun (R361). -/
def lateTrap (s : State) (t : TileId) (st : Stream) (r : TrapRec) : State :=
  let x := s.tile t
  if comesFirst x r then
    let r := { r with pstream := r.stream }
    let y := lateRecord x st r
    let n := r.stream
    s.setTile t { y with
      ld := pstreamCore n y.ld, cp := pstreamCore n y.cp, st := pstreamCore n y.st,
      drain := { y.drain with first := some r, trig := r.cause } }
  else s.setTile t (lateRecord x st { r with pstream := (x.drain.first.getD r).pstream })

/-- A trap of one stream starts the drain of its tile (R358, R363), or is recorded in the drain in progress (R361). -/
def trapDrain (s : State) (t : TileId) (st : Stream) (r : TrapRec) : State :=
  let r := { r with pstream := BitVec.ofNat 8 (streamCode st) }
  let x := s.tile t
  let s := if isTimeout r then s.setTile t { x with drain := { x.drain with timeout := true } } else s
  if x.drain.draining || x.drain.drained then lateTrap s t st r
  else startDrain s t false r.cause (some r) fun st' => if st' = st then r else peerRec s t st' (BitVec.ofNat 8 (streamCode st))

/-- A tile cause (R359): every live stream takes it, each with its own information word. -/
def tileDrain (s : State) (t : TileId) (cause : BitVec 8) (infoOf : Stream → BitVec 32) : State :=
  let recOf := fun st => trapRec s t st { cause := cause, info := infoOf st }
  let x := s.tile t
  let lowest : Stream := if x.ld.u.life = .live then .load else if x.cp.u.life = .live then .compute else .store
  startDrain s t false cause (some (recOf lowest)) recOf

/-- SVCALL (R372): only the calling stream stops, entered alone. -/
def enterAlone (s : State) (t : TileId) (st : Stream) (ti : TrapInfo) : State :=
  let x := s.tile t
  let c := enterService (x.core st) .alone { trapRec s t st ti with alone := true }
  s.setTile t (x.setCore st { c with stopped := false })

/-- Whether an outstanding access has left its core and goes on without it: a scalar access that has been sent, or an ENQ's. -/
def Remote.underWay (r : Remote) : Bool :=
  match r.kind with
  | .scalar => r.sent
  | .enq => r.sent
  | _ => false

/-- A trap taken by a service context (R373): every context of the tile stops, the task will complete with TRAP and the record of the
drain's first trap or of this one, the host is told, and nothing is placed on the tile until the next reset. Accesses that are already under
way are performed, before the task's record (R306, R366); a CHCAN is abandoned as by any drain (R332). -/
def serviceTrap (s : State) (t : TileId) (st : Stream) (ti : TrapInfo) : State :=
  let s := dropWaiters s t
  let x := s.tile t
  let c := x.core st
  let own : TrapRec := { trapRec s t st ti with tpc := c.v.regs.pc, word := (c.cached .service c.v.regs.pc).getD 0 }
  let stop := fun (c : Core) =>
    { c with stopped := true, pend := none, stall := none, remote := c.remote.filter Remote.underWay, v := { c.v with vote := none, held := false } }
  let x := { x with
    ld := stop x.ld, cp := stop x.cp, st := stop x.st,
    eng := { x.eng with chLoad := x.eng.chLoad.map Chan.keep, chStore := x.eng.chStore.map Chan.keep },
    drain := { x.drain with draining := true, dead := true, quiet := true, first := some (x.drain.first.getD own), mark := x.eng.order } }
  let s := s.setTile t x
  let s := { s with disp := { s.disp with nofit := t.val :: s.disp.nofit } }
  s.sendHost (.msix (1024 + t.val))

/-- Taking a trap at the acting instruction (R33): in a user context SVCALL enters alone and every other cause starts the drain; in a service
context R373 applies. -/
def takeTrap (s : State) (ti : TrapInfo) : State :=
  let s := if ti.cause = 0x20 ∧ ti.akind ≠ 1 then s.countEvent (dieOf s.cur.tile).val 0x02 (s.cur.tile.val % 16) 1 else s
  match s.cur.ctx with
  | .user =>
    if ti.cause = 0x3F then enterAlone s s.cur.tile s.cur.stream ti
    else trapDrain s s.cur.tile s.cur.stream (trapRec s s.cur.tile s.cur.stream ti)
  | .service => serviceTrap s s.cur.tile s.cur.stream ti

/-! ### Issue -/

/-- What the meaning of an instruction answers once its wait is satisfied. `done`: accepted, with the posts it makes of its own; `jump`:
accepted with a control transfer; `async`: accepted, its SYNC post reserved; `exit`: EXIT retires; `trap`; `stall`: not issued; `hold`: issued
and held; `raw`: the whole next state is given. -/
inductive Flow where
  | done (s : State) (posts : List Post)
  | jump (s : State) (target : Word64)
  | async (s : State)
  | exit (s : State) (v : BitVec 32)
  | trap (t : TrapInfo)
  | stall (w : Stall)
  | hold (s : State)
  | raw (s : State)

/-- An accepted instruction without posts of its own. -/
def ok (s : State) : Flow := .done s []

/-- ILLEGAL with an information word (R359). -/
def illegal (info : BitVec 32) : Flow := .trap { cause := 0x01, info := info }

/-- A core after an instruction of one of its contexts has issued and been accepted in this clock: that context's marks are gone. -/
def Core.markIssued (c : Core) : CtxKind → Core
  | .user => { c with issued := true, tried := true, stall := none, remote := none, word := none }
  | .service => { c with issued := true, remote := c.remote.filter fun r => r.ctx == .user, v := { c.v with held := false, woke := none } }

/-- A trap taken in a state that the instruction's checks have already changed (a cached translation, a count). -/
def trapIn (s : State) (ti : TrapInfo) : Flow := .raw (takeTrap { s with cur := { s.cur with tv := 0 } } ti)

/-- Whether a stall is of an instruction that holds its core (R160, R71): issued and not yet accepted. -/
def Stall.holds : Stall → Bool
  | .held => true
  | .idleWait => true
  | _ => false

/-- The service context as it takes an issue slot: in share mode beside a task it spends 256 of its credit (R160), once for an instruction
that holds the core. -/
def payShare (task : Bool) (v : SvCtx) : SvCtx := if task ∧ v.mode = .share ∧ !v.held then { v with credit := v.credit - 256 } else v

/-- The acting core after a stall: of a user context it keeps why (R157), of a service context whether its instruction holds the core (R21). -/
def markStall (s : State) (w : Stall) : State :=
  let c := s.myCore
  match s.cur.ctx with
  | .user => s.setMyCore { c with stall := some w, tried := true }
  | .service => s.setMyCore { c with v := { (if w.holds then payShare s.me.task.isSome c.v else c.v) with held := w.holds } }

/-- In share mode with a task on the tile the service context changes no state of the user context (R161): vector registers, mask stack,
accumulators and shadow nest registers stay. -/
def keepUser (before after : State) : State :=
  let x := before.me
  let y := after.me
  if before.cur.ctx = .service ∧ before.myCore.v.mode = .share ∧ x.task.isSome then
    after.setMe { y with store := { y.store with
      v := x.store.v, mask := x.store.mask, depth := x.store.depth, acc := x.store.acc, accBad := x.store.accBad,
      shadow := x.store.shadow } }
  else after

/-- Acceptance: the waited tokens leave (R13), then the posts are made (R72, R113). -/
def accept (s : State) (sy : Sync) (posts : List Post) : State :=
  s.setMe (makePosts (popWait s.me s.cur.stream sy.wait) s.cur.stream posts)

/-- A core after an issue of one of its contexts: a service context's slot is paid for (R160), and the core is marked. -/
def Core.spent (c : Core) (task : Bool) : CtxKind → Core
  | .user => c.markIssued .user
  | .service => { c with v := payShare task c.v }.markIssued .service

/-- The end of an issue: the core is marked, and tv is gone. -/
def retire (s : State) : State :=
  let s := s.setMyCore (s.myCore.spent s.me.task.isSome s.cur.ctx)
  { s with cur := { s.cur with tv := 0 } }

/-- EXIT retires (R152, R164): the queues it feeds close with an END mark behind their tokens, which an exited consumer's queue discards (R153); the
stream is exited. -/
def streamExit (x : Tile) (st : Stream) (v : BitVec 32) : Tile :=
  let close := fun (y : Tile) (b : Bool) =>
    let q := y.queue (queueOut st b)
    if !y.consumerExited st b then
      y.setQueue (queueOut st b) { q with closed := true, endMark := some (v.setWidth 12), freshEnd := true }
    else y.setQueue (queueOut st b) { q with closed := true }
  let x := close (close x false) true
  let c := x.core st
  x.setCore st { c with u := { c.u with life := .exited, exitVal := v } }

/-- The classes of R50 that a core and context hold: whether it may issue the OP. -/
def classOk (st : Stream) (k : CtxKind) (op : Nat) : Bool :=
  if op < 0x30 then true
  else if op < 0x50 then st == .load
  else if op < 0x60 then st == .load || st == .store
  else if op < 0x80 then st == .store
  else if op < 0xF0 then st == .compute
  else if op < 0xF6 then k == .service
  else k == .service && st == .compute

/-- Steps 3 and 4 of R35 for an OP (R51): PRIVILEGE for a service-class OP in a user context, then WRONG_STREAM. -/
def classTrap (st : Stream) (k : CtxKind) (op : Nat) (priv : Bool) : Option TrapInfo :=
  if priv && k == .user then some { cause := 0x03, info := 0 }
  else if !classOk st k op then some { cause := 0x02, info := 0 }
  else none

/-- Whether an instruction asks for the service context (R22, R51). -/
def instrPriv (i : Instr) : Bool :=
  match i with
  | .ctlrd _ n _ => 0x40 ≤ n.toNat
  | .ctlwr n _ _ => 0x40 ≤ n.toNat
  | _ => match opOf i with | some op => 0xF0 ≤ op.toNat | none => false

/-- The service registers that exist (R362, R437). -/
def svNumOk (n : BitVec 8) : Bool :=
  let k := n.toNat
  k < 0x40 || (0x40 ≤ k && k ≤ 0x44) || (0x48 ≤ k && k ≤ 0x4F) || (0x80 ≤ k && k ≤ 0xA2) || (0xC0 ≤ k && k ≤ 0xCA) ||
  (0xD0 ≤ k && k ≤ 0xD5)

/-- Step 5 of R35 for the acting context: the encoding (R38), a nonzero SYNC field in a service context (R44), a service register that does
not exist (R362). -/
def step5Ok (k : CtxKind) (i : Instr) : Bool :=
  i.wf && (k == .user || syncOf i == {}) &&
  (match i with
   | .ctlrd _ n _ => svNumOk n
   | .ctlwr n _ _ => svNumOk n
   | _ => true)

/-- What acceptance makes of a flow, given the SYNC field: the post check on the queues as they stand (R113, R150), then the effects, the
pops, the posts, and the PC (R28). The meaning's own traps come before the check, and a held access is checked as it begins (log entry 18). -/
def finishFlow (s : State) (sy : Sync) : Flow → State
  | .trap t => takeTrap s t
  | .stall w => markStall s w
  | .raw s' => s'
  | .hold s' =>
    match postCheck s.me s.cur.stream (syncPost s sy) with
    | .overflow info => takeTrap s { cause := 0x09, info := info }
    | .stall c => markStall s (.post c)
    | .ok =>
      let s' := markStall s' .held
      { s' with cur := { s'.cur with tv := 0 } }
  | .done s' own =>
    let posts := own ++ syncPost s sy
    match postCheck s.me s.cur.stream posts with
    | .overflow info => takeTrap s { cause := 0x09, info := info }
    | .stall c => markStall s (.post c)
    | .ok =>
      let s' := keepUser s s'
      retire (accept (s'.setRegs (loopNext s'.regs s'.regs.pc)) sy posts)
  | .jump s' target =>
    let posts := syncPost s sy
    match postCheck s.me s.cur.stream posts with
    | .overflow info => takeTrap s { cause := 0x09, info := info }
    | .stall c => markStall s (.post c)
    | .ok => retire (accept (s'.setRegs { s'.regs with pc := target }) sy posts)
  | .async s' =>
    match postCheck s.me s.cur.stream (syncPost s sy) with
    | .overflow info => takeTrap s { cause := 0x09, info := info }
    | .stall c => markStall s (.post c)
    | .ok =>
      let s' := keepUser s s'
      let s' := accept (s'.setRegs (loopNext s'.regs s'.regs.pc)) { sy with post := none } []
      retire (s'.setMe (reservePost s'.me s'.cur.stream (pendPost s sy)))
  | .exit s' v =>
    let posts := syncPost s sy
    match postCheck s.me s.cur.stream posts with
    | .overflow info => takeTrap s { cause := 0x09, info := info }
    | .stall c => markStall s (.post c)
    | .ok =>
      let s' := accept s' sy posts
      retire (s'.setMe (streamExit s'.me s'.cur.stream v))

/-- Issues one instruction for the acting context in the order of R35: class (steps 3 and 4), encoding (step 5), wait (step 6), then the
meaning's own checks and effect (steps 7 and 8) with tv in place. -/
def issue (i : Instr) (body : State → Flow) (s : State) : State :=
  match classTrap s.cur.stream s.cur.ctx ((opOf i).getD 0).toNat (instrPriv i) with
  | some t => takeTrap s t
  | none =>
    if !step5Ok s.cur.ctx i then takeTrap s { cause := 0x01, info := 0 }
    else
      match waitRes s.me s.cur.stream (syncOf i).wait with
      | .trap cause info => takeTrap s { cause := cause, info := info }
      | .stall code => markStall s (.wait code)
      | .ok tv => finishFlow s (syncOf i) (body { s with cur := { s.cur with tv := tv } })

/-- Issue as an outcome of exec. -/
def run (i : Instr) (body : State → Flow) (s : State) : Out := .next (issue i body s)

/-! ### Control transfer and asynchronous acceptance -/

/-- A control transfer: the target is checked before acceptance, PC_ALIGN then ACCESS (R16, R87). -/
def jumpTo (s : State) (target : Word64) : Flow :=
  if target.toNat % 16 ≠ 0 then .trap { cause := 0x04, info := target.setWidth 32, akind := 1, addr := target }
  else if target.toNat / 2 ^ 57 ≠ 0 then .trap { cause := 0x10, info := target.setWidth 32, akind := 1, addr := target }
  else .jump s target

/-- A PC-relative target in words (R40). -/
def relTarget (s : State) (imm : BitVec 32) : Word64 := s.pc + imm.signExtend 64 * 16

/-- The next acceptance number of a tile (R316). -/
def nextOrder (s : State) : Nat := s.me.eng.order

/-- A tile cause, alignment and range helpers shared by the memory forms. -/
def alignTrap (a : Word64) (kind : BitVec 8) : Flow := .trap { cause := 0x12, info := a.setWidth 32, akind := kind, addr := a }
/-- SCRATCH_RANGE with an offset (R359). -/
def rangeTrap (a : Word64) : Flow := .trap { cause := 0x14, info := a.setWidth 32, akind := 2, addr := a }

end Sys2Proof.Machine
end

