-- ==== Sys2Proof/Machine/Operands.lean ====
section
/-! DEFINITION. The operand forms: general-register sources and literals (R37, R39), scalar memory operands (R93), the vector element order
and the B modes (R165-R169, R180), and masks (R174, R182). -/

namespace Sys2Proof.Machine

/-- The value of a general-register source: g0-g31, or tv (R37). -/
def State.src (s : State) : GSrc → Word64
  | .g r => s.readG r
  | .tv => s.cur.tv

/-- A second source whose literal is sign-extended from 32 bits (R39). -/
def State.srcS (s : State) : SrcLit → Word64
  | .reg r => s.src r
  | .lit i => i.signExtend 64

/-- A second source whose literal is zero-extended from 32 bits (R39). -/
def State.srcZ (s : State) : SrcLit → Word64
  | .reg r => s.src r
  | .lit i => i.setWidth 64

/-- The address or offset of a memory operand (R93, R95, R186): base plus index or sign-extended offset, modulo 2^64. -/
def State.memAddr (s : State) (m : MemOp) : Word64 := s.src m.base + s.srcS m.idx

/-- A base register plus a sign-extended byte offset (R102, R322). -/
def State.baseOff (s : State) (a : GSrc) (imm : BitVec 32) : Word64 := s.src a + imm.signExtend 64

/-- Bytes of a scalar width. -/
def widthBytes (w : Width) : Nat := w.bits / 8

/-- The low `n` bits of a word as a number. -/
def lowBits (v : Word64) (n : Nat) : Nat := v.toNat % 2 ^ n

/-- A number below 2^n read as two's complement (R69). -/
def toSigned (n x : Nat) : Int := if x < 2 ^ (n - 1) then (x : Int) else (x : Int) - 2 ^ n

/-- An integer modulo 2^n. -/
def wrapTo (n : Nat) (x : Int) : Nat := (x % (2 ^ n : Int)).toNat

/-- An n-bit result sign-extended or zero-extended to 64 bits. -/
def extendTo64 (signed : Bool) (n x : Nat) : Word64 :=
  if signed then BitVec.ofInt 64 (toSigned n (x % 2 ^ n)) else BitVec.ofNat 64 (x % 2 ^ n)

/-! ### Vector elements (R165, R167, R169) -/

/-- A vector register of the acting tile. -/
def State.vreg (s : State) (r : Nat) : BitVec 4096 := if h : r < 64 then s.me.store.v[r] else 0

/-- The acting tile with a vector register replaced. -/
def State.setVreg (s : State) (r : Nat) (x : BitVec 4096) : State :=
  if h : r < 64 then s.setMe { s.me with store := { s.me.store with v := s.me.store.v.set r x h } } else s

/-- The registers of a group of the acting tile, lowest first. -/
def State.group (s : State) (base : Fin 64) (n : Nat) : List (BitVec 4096) := (List.range n).map fun k => s.vreg (base.val + k)

/-- The acting tile with the registers of a group replaced. -/
def State.setGroup (s : State) (base : Fin 64) : List (BitVec 4096) → State
  | [] => s
  | x :: r => (List.range (r.length + 1)).foldl (fun a k => a.setVreg (base.val + k) ((x :: r).getD k 0)) s

/-- Elements of width `w` per register (R165). -/
def elemsPerReg (w : Nat) : Nat := 4096 / w

/-- Lane (R12, R167): element `i` of a group, in Lane order. -/
def laneOf (g : List (BitVec 4096)) (w i : Nat) : Nat :=
  (g.getD (i / elemsPerReg w) 0).toNat / 2 ^ (w * (i % elemsPerReg w)) % 2 ^ w

/-- A register from its elements, lowest first (R165). -/
def packReg (w : Nat) (es : List Nat) : BitVec 4096 :=
  BitVec.ofNat 4096 (es.foldr (fun e a => e % 2 ^ w + 2 ^ w * a) 0)

/-- Registers from elements in Lane order (R167). -/
def packGroup (w : Nat) : Nat → List Nat → List (BitVec 4096)
  | 0, _ => []
  | n + 1, es => packReg w (es.take (elemsPerReg w)) :: packGroup w n (es.drop (elemsPerReg w))

/-- The place in Lane order of a wide group, of width `k` times `w`, that R169 pairs with narrow element `i`. -/
def widePlace (w k i : Nat) : Nat :=
  let ed := 4096 / (k * w)
  let q := i / k
  (k * (q / ed) + i % k) * ed + q % ed

/-- The top of the mask stack; at depth 0 the base mask of all ones (R173, R174). -/
def State.topMask (s : State) : BitVec 512 :=
  let st := s.me.store
  if st.depth = 0 then BitVec.allOnes 512
  else st.mask[(st.depth.toNat - 1) % 16]'(by omega)

/-- Whether element `i` of the narrowest operand, of width `w`, is active under a mask (R182). -/
def activeIn (top : BitVec 512) (w i : Nat) : Bool :=
  let e := elemsPerReg w
  top.getLsbD (128 * (i / e) + (w * (i % e)) / 32)

/-- Element `i` of the second vector source (R180). -/
def State.vbAt (s : State) (w : Nat) (g : Nat) (b : VB) : Nat → Nat :=
  match b with
  | .vec r => let gr := s.group r g; fun i => laneOf gr w i
  | .reg r => let x := (s.src r).toNat % 2 ^ w; fun _ => x
  | .lit i => let x := i.toNat % 2 ^ w; fun _ => x

/-- The narrow element that R169 pairs with element `p`, in Lane order, of a group `k` times wider than `w`. -/
def narrowOf (w k p : Nat) : Nat :=
  let ed := 4096 / (k * w)
  let reg := p / ed
  (reg / k * ed + p % ed) * k + reg % k

end Sys2Proof.Machine
end

