-- ==== Sys2Proof/Machine/Tasks.lean ====
section
/-! DEFINITION. The completion of a task (R164, R255, R256) and what it leaves on its tile; asynchronous work a stream still has (R31, R90,
R105). -/

namespace Sys2Proof.Machine

/-- Whether a drain, or a context entered for one, keeps the watchdog and the deadlock count still (R363, R382). -/
def inDrain (x : Tile) : Bool := x.drain.draining || x.drain.drained

/-- Whether an operation has stopped starting new work: a drain was triggered after its acceptance (R365), not before it, as for the operations
of a context entered for the drain. -/
def stopsNow (x : Tile) (o : OpInfo) : Bool := inDrain x && o.order < x.drain.mark

/-- The unretired channel operations of a stream. -/
def chanBusy (x : Tile) : Stream → Bool
  | .load => x.eng.chLoad.any fun c => !c.ops.isEmpty
  | .store => x.eng.chStore.any fun c => !c.ops.isEmpty
  | .compute => false

/-- Whether a stream has an accepted, unretired asynchronous instruction (R31, R105). -/
def streamBusy (x : Tile) (st : Stream) : Bool :=
  chanBusy x st || x.eng.cf.any (fun c => c.info.stream == st) ||
  (match x.eng.running with | some n => n.info.stream == st | none => false) ||
  (match x.eng.pending with | some n => n.info.stream == st | none => false) ||
  (match x.eng.mout with | some n => n.info.stream == st | none => false)

/-- Whether a context of a stream has an accepted, unretired asynchronous instruction (R105). -/
def ctxBusy (x : Tile) (st : Stream) (k : CtxKind) : Bool :=
  let mine := fun (o : OpInfo) => o.stream == st && o.ctx == k
  x.eng.chLoad.any (fun c => c.ops.any fun o => mine o.info) || x.eng.chStore.any (fun c => c.ops.any fun o => mine o.info) ||
  x.eng.cf.any (fun c => mine c.info) || x.eng.running.any (fun n => mine n.info) || x.eng.pending.any (fun n => mine n.info) ||
  x.eng.mout.any fun n => mine n.info

/-- Whether a context has an unretired nest or MOUT, which may still raise flags (R25, R216). -/
def flagsBusy (x : Tile) (k : CtxKind) : Bool :=
  (match x.eng.running with | some n => n.info.ctx == k | none => false) ||
  (match x.eng.pending with | some n => n.info.ctx == k | none => false) ||
  (match x.eng.mout with | some n => n.info.ctx == k | none => false)

/-- The unretired asynchronous operations of a tile (R308). -/
def asyncCount (x : Tile) : Nat :=
  (x.eng.chLoad.toList.foldl (fun n c => n + c.ops.length) 0) + (x.eng.chStore.toList.foldl (fun n c => n + c.ops.length) 0) +
  x.eng.cf.length + x.eng.running.toList.length + x.eng.pending.toList.length + x.eng.mout.toList.length

/-- What an accepted asynchronous instruction keeps (R42, R368), with acceptance number `ord`: its word, its pending post, the stochastic state
and the resolved mode. -/
def opInfo (s : State) (i : Instr) (mode : Nat) (ra rb rc rf : Word64) : OpInfo :=
  { stream := s.cur.stream, ctx := s.cur.ctx, order := s.me.eng.order, word := (encode i).getD 0, post := pendPost s (syncOf i),
    seed := s.regs.seed, ctr := s.regs.srctr, mode := BitVec.ofNat 3 mode, ra := ra, rb := rb, rc := rc, rf := rf, flags := 0,
    fault := none }

/-- The acting tile with its engines replaced and the next acceptance number taken (R316). -/
def State.acceptOp (s : State) (e : Engines) : State := s.setMe { s.me with eng := { e with order := s.me.eng.order + 1 } }

/-- An operation retires: its flags join ctl.flags of the context that issued it (R25), and its post is made (R148). -/
def retireOp (x : Tile) (o : OpInfo) : Tile :=
  let c := x.core o.stream
  let r := c.regs o.ctx
  retirePost (x.setCore o.stream (c.setRegs o.ctx { r with flags := r.flags ||| o.flags })) o.stream o.order o.post

/-- An event of a tile (R468). -/
def countTile (s : State) (t : TileId) (src : Nat) : State := s.countEvent (dieOf t).val src (t.val % 16) 1

/-- A fault after acceptance is reported at the issuing stream's oldest unaccepted instruction and starts the drain (R230, R320, R358); a
fault of a service context's operation is a trap of that context (R373). -/
def reportOp (s : State) (t : TileId) (o : OpInfo) (f : OpFault) : State :=
  let ti : TrapInfo := { cause := f.cause, info := f.info, akind := f.akind, addr := f.addr }
  match o.ctx with
  | .service => serviceTrap s t o.stream ti
  | .user => trapDrain s t o.stream { trapRec s t o.stream ti with async := true, ford := some o.order }

/-- A fault after acceptance, counted at its tile when a store of the tile is uncorrectable (R468). -/
def faultOp (s : State) (t : TileId) (o : OpInfo) (f : OpFault) : State :=
  reportOp (if f.cause = 0x20 ∧ f.akind ≠ 1 then countTile s t 0x02 else s) t o f

/-- Tokens still held in the queues of a tile, END marks not counted (R164). -/
def tokensLeft (x : Tile) : Nat := x.queues.toList.foldl (fun a q => a + q.count.toNat) 0

/-- The exit value of a stream for the record: 0 unless it has exited (R164). -/
def exitField (c : Core) : Nat := if c.u.life = .exited then c.u.exitVal.toNat else 0

/-- A task record (R255). `first` is the record of the first trap. -/
def taskRecord (x : Tile) (t : Nat) (status : BitVec 16) (first : Option TrapRec) (info : BitVec 32) (tstart tend : Nat) : List Byte :=
  leBytes 2 status.toNat ++
  (match first with
   | some r => [r.stream, r.cause]
   | none => [0xFF, 0]) ++
  leBytes 4 (tokensLeft x) ++
  leBytes 8 (match first with | some r => r.tpc.toNat | none => 0) ++
  leBytes 4 (exitField x.ld) ++ leBytes 4 (exitField x.cp) ++ leBytes 4 (exitField x.st) ++
  leBytes 4 x.ld.u.lost.toNat ++ leBytes 4 x.cp.u.lost.toNat ++ leBytes 4 x.st.u.lost.toNat ++
  leBytes 4 (match first with | some r => r.info.toNat | none => info.toNat) ++
  leBytes 2 t ++ zeros 2 ++ leBytes 8 tstart ++ leBytes 8 tend

/-- A core of an idle tile: no stream, its service context in share mode (R370). -/
def idleCore (c : Core) : Core :=
  { c with
    u := { c.u with life := .absent }, v := { c.v with mode := .share, vote := none, ridge := 0 },
    remote := c.remote.filter fun r => r.ctx == .service, word := none, codes := [], stopped := false, pend := none, stall := none }

/-- A tile that no longer holds a task: queues, operations and in-flight entries are gone (R164, R370). -/
def idleTile (x : Tile) : Tile :=
  { x with
    ld := idleCore x.ld, cp := idleCore x.cp, st := idleCore x.st,
    queues := Vector.replicate 6 TokQ.reset,
    eng := { Engines.reset with order := x.eng.order },
    store := { x.store with infl := [] },
    task := none, drain := Drain.none, blocked := 0, wcount := 0, sink := false }

/-- What has become of a task of a packet, recorded in the packet. -/
def setTaskEnt (s : State) (pkt index : Nat) (e : TaskEnt) : State :=
  { s with disp := { s.disp with pkts := s.disp.pkts.map fun p =>
      if p.id = pkt then { p with tasks := smSet .waiting index e p.tasks } else p } }

/-- Whether a tile holds a task of a job. -/
def holdsJob (j : Nat) (x : Tile) : Bool := match x.task with | some k => k.job.val == j | none => false

/-- A job's pre-emption goes on (R379): DRAINING ends when no tile holds a task of the job, RESUMING when every saved task has resumed. -/
def settleJob (s : State) (j : Nat) : State :=
  let x := smGet JobSt.reset j s.disp.jobs
  let set := fun v => { s with disp := { s.disp with jobs := smSet JobSt.reset j { x with pre := v } s.disp.jobs } }
  if x.pre = 1 ∧ !s.tiles.any (holdsJob j) then set 2
  else if x.pre = 3 ∧ !(s.disp.saved.any fun e => e.2.1.job.val == j) ∧ !(s.tiles.any fun x => holdsJob j x && x.drain.restore) then set 0
  else s

/-- The task of a tile completes with a status (R164, R255, R256), and the tile becomes idle; its stalled FEEDPOPs leave their feeds (R268). -/
def completeTask (s : State) (t : TileId) (status : BitVec 16) (first : Option TrapRec) (info : BitVec 32) : State :=
  let s := dropWaiters s t
  let x := s.tile t
  match x.task with
  | none => s
  | some k =>
    let bytes := taskRecord x t.val status first info (k.tstart.getD s.ns) s.ns
    settleJob ((setTaskEnt s k.pkt k.index (.done status bytes)).setTile t (idleTile x)) k.job.val

/-- A task is complete in the cycle its last present stream exits (R164); a drain in progress decides otherwise (R263, R370). -/
def completeIfExited (s : State) (t : TileId) : State :=
  let x := s.tile t
  if x.task.isSome && x.ld.u.life != .live && x.cp.u.life != .live && x.st.u.life != .live && !x.drain.draining && !x.drain.drained then
    completeTask s t 0 none 0
  else s

end Sys2Proof.Machine
end

