-- ==== Sys2Proof/Machine/Scalar.lean ====
section
/-! DEFINITION. The scalar instructions that use registers only (R73-R91), and the token instructions (R109-R114). -/

namespace Sys2Proof.Machine

/-- The scalar mould (R73, R74): w-bit sources, a w-bit result zero-extended into g[D]. -/
def aluBody (o : Alu) (f : Nat → Nat → Nat → Nat) (s : State) : Flow :=
  let w := o.w.bits
  ok (s.writeG o.d (BitVec.ofNat 64 (f w (lowBits (s.src o.a) w) (lowBits (s.srcS o.b) w) % 2 ^ w)))

/-- The signed reading of both operands: MULH.s. -/
def mulhOp (v : MulhVar) (w a b : Nat) : Nat :=
  match v with
  | .s => wrapTo w (toSigned w a * toSigned w b / 2 ^ w)
  | .z => a * b / 2 ^ w
  | .sz => wrapTo w (toSigned w a * (b : Int) / 2 ^ w)

/-- The quotient (R75): truncated toward zero; all ones for a divisor of 0. -/
def divOp (sg : Bool) (w a b : Nat) : Nat :=
  if b = 0 then 2 ^ w - 1
  else if sg then wrapTo w ((toSigned w a).tdiv (toSigned w b)) else a / b

/-- The remainder (R75): the dividend's sign; the dividend for a divisor of 0. -/
def remOp (sg : Bool) (w a b : Nat) : Nat :=
  if b = 0 then a
  else if sg then wrapTo w ((toSigned w a).tmod (toSigned w b)) else a % b

/-- a AND NOT b (R73). -/
def andnOp (w a b : Nat) : Nat := a &&& (2 ^ w - 1 - b)

/-- Right shifts (R73). -/
def shrOp (sg : Bool) (w a b : Nat) : Nat :=
  if sg then wrapTo w (toSigned w a / 2 ^ (b % w)) else a / 2 ^ (b % w)

/-- Rotation to the right (R73). -/
def rotOp (w a b : Nat) : Nat := (a / 2 ^ (b % w)) ||| (a * 2 ^ (w - b % w) % 2 ^ w)

/-- The smaller of two values (R73). -/
def minOp (sg : Bool) (w a b : Nat) : Nat :=
  if sg then (if toSigned w b < toSigned w a then b else a) else min a b

/-- The larger of two values (R73). -/
def maxOp (sg : Bool) (w a b : Nat) : Nat :=
  if sg then (if toSigned w a < toSigned w b then b else a) else max a b

/-- Leading zero bits of a w-bit value (R73). -/
def clzOp (w a : Nat) : Nat := if a = 0 then w else w - 1 - a.log2

/-- One bits of a w-bit value (R73). -/
def popcOp (w a : Nat) : Nat := (List.range w).foldl (fun n k => n + a / 2 ^ k % 2) 0

/-- NOP (R85). -/
def execNop (sy : Sync) (s : State) : Out := run (.nop sy) ok s
/-- ADD (R73). -/
def execAdd (o : Alu) (sy : Sync) (s : State) : Out := run (.add o sy) (aluBody o fun _ a b => a + b) s
/-- SUB (R73). -/
def execSub (o : Alu) (sy : Sync) (s : State) : Out := run (.sub o sy) (aluBody o fun w a b => a + 2 ^ w - b) s
/-- MUL (R73). -/
def execMul (o : Alu) (sy : Sync) (s : State) : Out := run (.mul o sy) (aluBody o fun _ a b => a * b) s
/-- MULH (R73). -/
def execMulh (v : MulhVar) (o : Alu) (sy : Sync) (s : State) : Out := run (.mulh v o sy) (aluBody o (mulhOp v)) s
/-- DIV (R73, R75). -/
def execDiv (sg : Bool) (o : Alu) (sy : Sync) (s : State) : Out := run (.div sg o sy) (aluBody o (divOp sg)) s
/-- REM (R73, R75). -/
def execRem (sg : Bool) (o : Alu) (sy : Sync) (s : State) : Out := run (.rem sg o sy) (aluBody o (remOp sg)) s
/-- AND (R73). -/
def execAnd (o : Alu) (sy : Sync) (s : State) : Out := run (.and o sy) (aluBody o fun _ a b => a &&& b) s
/-- OR (R73). -/
def execOr (o : Alu) (sy : Sync) (s : State) : Out := run (.or o sy) (aluBody o fun _ a b => a ||| b) s
/-- XOR (R73). -/
def execXor (o : Alu) (sy : Sync) (s : State) : Out := run (.xor o sy) (aluBody o fun _ a b => a ^^^ b) s
/-- ANDN (R73). -/
def execAndn (o : Alu) (sy : Sync) (s : State) : Out := run (.andn o sy) (aluBody o andnOp) s
/-- SHL (R73): the count is taken mod w. -/
def execShl (o : Alu) (sy : Sync) (s : State) : Out := run (.shl o sy) (aluBody o fun w a b => a * 2 ^ (b % w)) s
/-- SHR (R73). -/
def execShr (sg : Bool) (o : Alu) (sy : Sync) (s : State) : Out := run (.shr sg o sy) (aluBody o (shrOp sg)) s
/-- ROT (R73). -/
def execRot (o : Alu) (sy : Sync) (s : State) : Out := run (.rot o sy) (aluBody o rotOp) s
/-- MIN (R73). -/
def execMin (sg : Bool) (o : Alu) (sy : Sync) (s : State) : Out := run (.min sg o sy) (aluBody o (minOp sg)) s
/-- MAX (R73). -/
def execMax (sg : Bool) (o : Alu) (sy : Sync) (s : State) : Out := run (.max sg o sy) (aluBody o (maxOp sg)) s

/-- The one-source mould of CLZ and POPC (R76). -/
def unBody (wd : Width) (d : Fin 32) (a : GSrc) (f : Nat → Nat → Nat) (s : State) : Flow :=
  ok (s.writeG d (BitVec.ofNat 64 (f wd.bits (lowBits (s.src a) wd.bits) % 2 ^ wd.bits)))

/-- CLZ (R73, R76). -/
def execClz (wd : Width) (d : Fin 32) (a : GSrc) (sy : Sync) (s : State) : Out := run (.clz wd d a sy) (unBody wd d a clzOp) s
/-- POPC (R73, R76). -/
def execPopc (wd : Width) (d : Fin 32) (a : GSrc) (sy : Sync) (s : State) : Out := run (.popc wd d a sy) (unBody wd d a popcOp) s

/-- The field of BFX (R80). -/
def bfxOp (sg : Bool) (w a pos len : Nat) : Nat :=
  let f := a / 2 ^ pos % 2 ^ len
  if sg then wrapTo w (toSigned len f) else f

/-- BFX (R80). -/
def execBfx (sg : Bool) (wd : Width) (d : Fin 32) (a : GSrc) (pos : BitVec 6) (len : BitVec 7) (sy : Sync) (s : State) : Out :=
  run (.bfx sg wd d a pos len sy) (unBody wd d a fun w x => bfxOp sg w x pos.toNat len.toNat) s

/-- The insertion of BFI (R81). -/
def bfiOp (base f pos len : Nat) : Nat :=
  base % 2 ^ pos + f % 2 ^ len * 2 ^ pos + base / 2 ^ (pos + len) * 2 ^ (pos + len)

/-- BFI (R81). -/
def execBfi (wd : Width) (d : Fin 32) (a b : GSrc) (pos : BitVec 6) (len : BitVec 7) (sy : Sync) (s : State) : Out :=
  run (.bfi wd d a b pos len sy)
    (fun s => ok (s.writeG d (BitVec.ofNat 64 (bfiOp (lowBits (s.src b) wd.bits) (s.src a).toNat pos.toNat len.toNat % 2 ^ wd.bits)))) s

/-- The value of MOVI (R78). -/
def moviVal (v : MoviVar) (wd : Width) (a : Word64) (imm : BitVec 32) : Word64 :=
  match v with
  | .s => BitVec.ofNat 64 ((imm.signExtend 64).toNat % 2 ^ wd.bits)
  | .z => BitVec.ofNat 64 (imm.toNat % 2 ^ wd.bits)
  | .hi => BitVec.ofNat 64 (imm.toNat * 2 ^ 32 + a.toNat % 2 ^ 32)

/-- MOVI (R78). -/
def execMovi (v : MoviVar) (wd : Width) (d : Fin 32) (a : GSrc) (imm : BitVec 32) (sy : Sync) (s : State) : Out :=
  run (.movi v wd d a imm sy) (fun s => ok (s.writeG d (moviVal v wd (s.src a) imm))) s

/-- SEL (R79). -/
def execSel (p : Fin 8) (o : Alu) (sy : Sync) (s : State) : Out :=
  run (.sel p o sy) (fun s => aluBody o (fun _ a b => if s.readP p then a else b) s) s

/-- The address of LEA (R82); no access and no check. -/
def leaVal (s : State) : LeaForm → Word64
  | .idx a b sh imm => s.src a + s.src b * BitVec.ofNat 64 (2 ^ sh.toNat) + imm.signExtend 64
  | .off a imm => s.src a + imm.signExtend 64
  | .pcrel imm => s.pc + imm.signExtend 64

/-- LEA (R82). -/
def execLea (d : Fin 32) (f : LeaForm) (sy : Sync) (s : State) : Out :=
  run (.lea d f sy) (fun s => ok (s.writeG d (leaVal s f))) s

/-- The conditions of CMP and VCMP (R83, R192). -/
def condHolds (c : Cond) (w a b : Nat) : Bool :=
  match c with
  | .eq => a == b
  | .ne => a != b
  | .lt => toSigned w a < toSigned w b
  | .le => toSigned w a ≤ toSigned w b
  | .gt => toSigned w a > toSigned w b
  | .ge => toSigned w a ≥ toSigned w b
  | .lo => a < b
  | .ls => a ≤ b
  | .hi => a > b
  | .hs => a ≥ b
  | .tst => (a &&& b) != 0
  | .ntst => (a &&& b) == 0

/-- CMP (R83). -/
def execCmp (c : Cond) (wd : Width) (d : Fin 8) (a : GSrc) (b : SrcLit) (sy : Sync) (s : State) : Out :=
  run (.cmp c wd d a b sy)
    (fun s => ok (s.writeP d (condHolds c wd.bits (lowBits (s.src a) wd.bits) (lowBits (s.srcS b) wd.bits)))) s

/-- PLOG (R84). -/
def execPlog (d a b c : Fin 8) (table : BitVec 8) (sy : Sync) (s : State) : Out :=
  run (.plog d a b c table sy)
    (fun s => ok (s.writeP d (table.getLsbD (ofBool (s.readP a) * 4 + ofBool (s.readP b) * 2 + ofBool (s.readP c))))) s

/-- MADD (R77). -/
def execMadd (o : Alu) (c : GSrc) (sy : Sync) (s : State) : Out :=
  run (.madd o c sy) (fun s => aluBody o (fun w a b => a * b + lowBits (s.src c) w) s) s

/-- BR (R86, R87). -/
def execBr (neg : Bool) (p : Fin 8) (imm : BitVec 32) (sy : Sync) (s : State) : Out :=
  run (.br neg p imm sy) (fun s => if s.readP p != neg then jumpTo s (relTarget s imm) else ok s) s

/-- JMP (R86, R87). -/
def execJmp (a : GSrc) (imm : BitVec 32) (sy : Sync) (s : State) : Out :=
  run (.jmp a imm sy) (fun s => jumpTo s (s.baseOff a imm)) s

/-- The target of CALL (R86). -/
def callTarget (s : State) : CallForm → Word64
  | .rel imm => relTarget s imm
  | .ind a imm => s.baseOff a imm

/-- CALL (R86, R87): the target is checked, then g[D] receives the return address. -/
def execCall (d : Fin 32) (f : CallForm) (sy : Sync) (s : State) : Out :=
  run (.call d f sy)
    (fun s =>
      match jumpTo s (callTarget s f) with
      | .jump s t => .jump (s.writeG d (s.pc + 16)) t
      | r => r) s

/-- RET (R86, R87). -/
def execRet (a : GSrc) (sy : Sync) (s : State) : Out := run (.ret a sy) (fun s => jumpTo s (s.src a)) s

/-- The loop count of LOOP (R88). -/
def loopCount (s : State) : SrcLit → BitVec 32
  | .reg r => (s.src r).setWidth 32
  | .lit i => i

/-- Setting a hardware loop (R27). -/
def Regs.setLoop (r : Regs) (lc : Fin 2) (l : Loop) : Regs := if lc = 0 then { r with lc0 := l } else { r with lc1 := l }

/-- LOOP (R88). -/
def execLoop (lc : Fin 2) (x : BitVec 26) (n : SrcLit) (sy : Sync) (s : State) : Out :=
  run (.loop lc x n sy)
    (fun s =>
      let fin := s.pc + BitVec.ofNat 64 (x.toNat * 16)
      if fin.toNat / 2 ^ 57 ≠ 0 then .trap { cause := 0x10, info := fin.setWidth 32, akind := 1, addr := fin }
      else ok (s.setRegs (s.regs.setLoop lc ⟨loopCount s n, s.pc + 16, fin⟩))) s

/-- The exit value (R90). -/
def exitValue (s : State) : SrcLit → BitVec 32
  | .reg r => (s.src r).setWidth 32
  | .lit i => i

/-- EXIT (R90, R152): waits for every earlier instruction; the task completes with the last stream (R164). A service context has no stream to
end (log entry 12). -/
def execExit (v : SrcLit) (sy : Sync) (s : State) : Out :=
  .next (completeIfExited
    (issue (.exit v sy)
      (fun s =>
        if s.cur.ctx = .service then illegal 0
        else if streamBusy s.me s.cur.stream then .stall .blocked
        else .exit s (exitValue s v)) s) s.cur.tile)

/-- SVCALL (R91): never accepted; its trap is the request. In a service context it raises ILLEGAL. -/
def execSvcall (code : BitVec 32) (sy : Sync) (s : State) : Out :=
  run (.svcall code sy) (fun s => if s.cur.ctx = .service then illegal 0 else .trap { cause := 0x3F, info := code }) s

/-! ### Token instructions -/

/-- The head of the queue of one incoming peer, 0 when none is seen. -/
def headOf (s : State) (second : Bool) : Nat :=
  match (s.me.queue (queueIn s.cur.stream second)).head with
  | .head t => t.toNat
  | _ => 0

/-- What TKGET writes (R110): the head of the first-selected queue, and of both for WQ = 3. -/
def tkgetVal (s : State) (sy : Sync) : Word64 :=
  match sy.wait with
  | none => 0
  | some w =>
    match w.q with
    | .first => BitVec.ofNat 64 (headOf s false)
    | .second => BitVec.ofNat 64 (headOf s true)
    | .both => BitVec.ofNat 64 (headOf s false + headOf s true * 2 ^ 16)

/-- TKGET (R110). -/
def execTkget (d : Fin 32) (sy : Sync) (s : State) : Out := run (.tkget d sy) (fun s => ok (s.writeG d (tkgetVal s sy))) s

/-- The token TKPUT posts (R111). -/
def tkputTok (s : State) : SrcLit → BitVec 16
  | .reg r => (s.src r).setWidth 16
  | .lit i => i.setWidth 16

/-- TKPUT (R111); a service context has no queues but through SAVEQ and LOADQ (R44). -/
def execTkput (q : QSel) (nb : Bool) (b : SrcLit) (sy : Sync) (s : State) : Out :=
  run (.tkput q nb b sy)
    (fun s =>
      let tok := tkputTok s b
      if s.cur.ctx = .service then illegal 0
      else if tok.toNat / 4096 ≥ 14 then illegal (tok.setWidth 32)
      else .done s [⟨q, BitVec.ofNat 4 (tok.toNat / 4096), BitVec.ofNat 12 tok.toNat, nb, 1⟩]) s

/-- The first named queue with a live consumer whose ceiling is below a TKPRIME count (R112). -/
def primeOver (s : State) (q : QSel) (n : Nat) : Option Bool :=
  (peersOf q).find? fun b =>
    s.me.consumerLive s.cur.stream b && (s.me.queue (queueOut s.cur.stream b)).ceil.toNat < n

/-- TKPRIME (R112). -/
def execTkprime (q : QSel) (nb : Bool) (ty : BitVec 4) (v : BitVec 12) (count : BitVec 32) (sy : Sync) (s : State) : Out :=
  run (.tkprime q nb ty v count sy)
    (fun s =>
      if s.cur.ctx = .service then illegal 0
      else
        match primeOver s q count.toNat with
        | some b => .trap { cause := 0x09, info := overflowInfo (s.me.queue (queueOut s.cur.stream b)) b }
        | none => .done s [⟨q, ty, v, nb, count.toNat⟩]) s

/-- TKLEVEL's doubleword (R114, R154). -/
def tklevelVal (s : State) (out second : Bool) : Word64 :=
  let q := s.me.queue (if out then queueOut s.cur.stream second else queueIn s.cur.stream second)
  let n := if out then q.held else q.count.toNat
  let gone := !s.me.consumerLive s.cur.stream second
  BitVec.ofNat 64 (n % 32 + q.ceil.toNat * 256 + ofBool gone * 65536)

/-- TKLEVEL (R114). -/
def execTklevel (d : Fin 32) (out second : Bool) (sy : Sync) (s : State) : Out :=
  run (.tklevel d out second sy)
    (fun s => if s.cur.ctx = .service then illegal 0 else ok (s.writeG d (tklevelVal s out second))) s

end Sys2Proof.Machine
end

