-- ==== Sys2Proof/Machine/Flags.lean ====
section
/-! DEFINITION. Floating values, rounding and flags (chapter 05). A finite value is exact: a sign, a natural significand and a power of two. A
result that is no such number (a quotient, a root, an exponential, a logarithm, a hyperbolic tangent) is represented by the midpoint of the
interval of width 2^-p that contains it, which rounds as the exact value does in every mode of R125 (log entry 14). -/

namespace Sys2Proof.Machine

/-- A floating operand: a NaN with its sign, significand and significand width; an infinity; or (-1)^neg x m x 2^e, zero for m = 0. -/
inductive FVal where
  | nan (neg : Bool) (m w : Nat)
  | inf (neg : Bool)
  | fin (neg : Bool) (m : Nat) (e : Int)
  deriving DecidableEq, Repr

/-- The flags of R134, in the layout of ctl.flags. -/
abbrev FFlags := BitVec 5
/-- NV. -/
def fNV : FFlags := 16
/-- DZ. -/
def fDZ : FFlags := 8
/-- OF and NX. -/
def fOF : FFlags := 5
/-- UF and NX. -/
def fUF : FFlags := 3
/-- NX. -/
def fNX : FFlags := 1

/-- A result with its flags: a code of the result format. -/
abbrev FRes := Nat × FFlags

/-- How a result rounds: the mode resolved at issue (0-5, R126), seed, counter and index (R132), and whether overflow saturates (R127). -/
structure Rnd where
  mode : Nat
  seed : Word64
  ctr : Word64
  idx : Nat
  sat : Bool
  deriving DecidableEq, Repr

/-- Rounding to nearest even, as the array, .fadd and widening use it. -/
def Rnd.near : Rnd := ⟨0, 0, 0, 0, false⟩

/-- StochasticBits (R131). -/
def stochasticBits (seed ctr idx : Word64) : Nat :=
  let z := seed + ctr * 0x9E3779B97F4A7C15 + idx * 0xD1B54A32D192ED03
  let z := (z ^^^ (z >>> 30)) * 0xBF58476D1CE4E5B9
  let z := (z ^^^ (z >>> 27)) * 0x94D049BB133111EB
  let z := z ^^^ (z >>> 31)
  z.toNat / 2 ^ 40

/-- The stochastic bits of a rounding. -/
def Rnd.bits (r : Rnd) : Nat := stochasticBits r.seed r.ctr (BitVec.ofNat 64 r.idx)

/-- Whether the upper neighbour is chosen when `rem` of `2^d` lies between the neighbours and the lower multiple is `lo` (R125, R133). -/
def Rnd.up (r : Rnd) (neg : Bool) (lo rem d : Nat) : Bool :=
  match r.mode with
  | 0 => 2 * rem > 2 ^ d || (2 * rem == 2 ^ d && lo % 2 == 1)
  | 1 => false
  | 2 => neg
  | 3 => !neg
  | 4 => 2 * rem ≥ 2 ^ d
  | _ => rem * 2 ^ 24 / 2 ^ d + r.bits ≥ 2 ^ 24

/-- The magnitude m x 2^e rounded to a multiple of 2^qe: the multiple, and whether it is inexact (R125). -/
def roundAt (r : Rnd) (neg : Bool) (m : Nat) (e qe : Int) : Nat × Bool :=
  if qe ≤ e then (m * 2 ^ (e - qe).toNat, false)
  else
    let d := (qe - e).toNat
    let lo := m / 2 ^ d
    let rem := m % 2 ^ d
    if rem = 0 then (lo, false) else (if r.up neg lo rem d then lo + 1 else lo, true)

/-- A floating format (R118): bits, significand bits, exponent of the smallest normal, the largest finite value as k x 2^e, whether it has
infinities. -/
structure FFmt where
  w : Nat
  mb : Nat
  emin : Int
  lk : Nat
  le : Int
  hasInf : Bool
  deriving DecidableEq, Repr

/-- The formats of R118. -/
def ffmt : ElemType → FFmt
  | .e2m1 => ⟨4, 1, 0, 3, 1, false⟩
  | .e4m3 => ⟨8, 3, -6, 14, 5, false⟩
  | .e5m2 => ⟨8, 2, -14, 7, 13, true⟩
  | .h16 => ⟨16, 10, -14, 2047, 5, true⟩
  | .bf16 => ⟨16, 7, -126, 255, 120, true⟩
  | _ => ⟨32, 23, -126, 16777215, 104, true⟩

/-- The sign bit of a format, in place. -/
def FFmt.sign (f : FFmt) (neg : Bool) : Nat := if neg then 2 ^ (f.w - 1) else 0

/-- The code of the largest finite magnitude. -/
def FFmt.maxCode (f : FFmt) : Nat := (f.le + f.mb - f.emin).toNat * 2 ^ f.mb + f.lk

/-- The code of an infinity, for a format that has them. -/
def FFmt.infCode (f : FFmt) : Nat := 2 ^ (f.w - 1) - 2 ^ f.mb

/-- The value of a code (R118, R119). -/
def decodeF (t : ElemType) (c : Nat) : FVal :=
  match t with
  | .e8m0 => if c % 256 = 255 then .nan false 1 1 else .fin false 1 ((c % 256 : Int) - 127)
  | _ =>
    let f := ffmt t
    let neg := c / 2 ^ (f.w - 1) % 2 == 1
    let mag := c % 2 ^ (f.w - 1)
    let ex := mag / 2 ^ f.mb
    let m := mag % 2 ^ f.mb
    if f.hasInf ∧ f.infCode ≤ mag then (if m = 0 then .inf neg else .nan neg m f.mb)
    else if t = .e4m3 ∧ mag = 127 then .nan neg 7 3
    else if ex = 0 then .fin neg m (f.emin - f.mb)
    else .fin neg (2 ^ f.mb + m) (f.emin - f.mb + ((ex : Int) - 1))

/-- Whether a NaN is signalling (R120). -/
def FVal.signalling : FVal → Bool
  | .nan _ m w => m / 2 ^ (w - 1) % 2 == 0
  | _ => false

/-- Whether an operand is a NaN. -/
def FVal.isNaN : FVal → Bool
  | .nan _ _ _ => true
  | _ => false

/-- The flags of the NaN operands of an operation: NV for a signalling one (R134). -/
def nanFlags (xs : List FVal) : FFlags := if xs.any FVal.signalling then fNV else 0

/-- CanonicalNaN as a value: quiet, positive (R120). -/
def canonNaN : FVal := .nan false 1 1

/-- A significand moved to another width, from its top bit down (R129). -/
def nanPayload (m w mb : Nat) : Nat := if mb ≤ w then m / 2 ^ (w - mb) else m * 2 ^ (mb - w)

/-- ConvertNaN (R129), without the flag of a signalling operand. -/
def convertNaN (t : ElemType) (neg : Bool) (m w : Nat) : FRes :=
  let f := ffmt t
  match t with
  | .e2m1 => (0, fNV)
  | .e8m0 => (0xFF, 0)
  | .e4m3 => (f.sign neg + 0x7F, 0)
  | _ => (f.sign neg + f.infCode + (nanPayload m w f.mb ||| 2 ^ (f.mb - 1)), 0)

/-- The result of an overflow (R127). -/
def overflowF (f : FFmt) (r : Rnd) (neg : Bool) : FRes :=
  let toInf := f.hasInf && !r.sat &&
    (match r.mode with
     | 1 => false
     | 2 => neg
     | 3 => !neg
     | _ => true)
  (f.sign neg + (if toInf then f.infCode else f.maxCode), fOF)

/-- Whether a magnitude k x 2^qe lies beyond the largest finite value. -/
def FFmt.beyond (f : FFmt) (k : Nat) (qe : Int) : Bool :=
  if qe ≤ f.le then k > f.lk * 2 ^ (f.le - qe).toNat else k * 2 ^ (qe - f.le).toNat > f.lk

/-- Whether an inexact value is tiny: rounded with an unbounded exponent range it lies below the smallest normal (R134). -/
def tiny (f : FFmt) (r : Rnd) (neg : Bool) (m : Nat) (e : Int) : Bool :=
  let fe := (m.log2 : Int) + e
  fe < f.emin && !(fe + 1 == f.emin && (roundAt r neg m e (fe - f.mb)).1 == 2 ^ (f.mb + 1))

/-- RoundToFormat of a finite nonzero value (R125, R127, R134). -/
def roundFin (t : ElemType) (r : Rnd) (neg : Bool) (m : Nat) (e : Int) : FRes :=
  let f := ffmt t
  let fe := (m.log2 : Int) + e
  let ee := max fe f.emin
  let qe := ee - f.mb
  let (k, inexact) := roundAt r neg m e qe
  if f.beyond k qe then overflowF f r neg
  else
    (f.sign neg + ((ee - f.emin).toNat * 2 ^ f.mb + k),
      if inexact then (if tiny f r neg m e then fUF else fNX) else 0)

/-- A finite positive value into .e8m0 (R130). -/
def roundE8 (r : Rnd) (m : Nat) (e : Int) : FRes :=
  let fe := (m.log2 : Int) + e
  let rem := m % 2 ^ m.log2
  let up := rem != 0 &&
    (match r.mode with
     | 0 => 2 * rem > 2 ^ m.log2 || (2 * rem == 2 ^ m.log2 && (fe + 127) % 2 == 1)
     | _ => r.up false 1 rem m.log2)
  let j := if up then fe + 1 else fe
  if j < -127 then (0, fUF)
  else if j > 127 then (0xFE, fOF)
  else ((j + 127).toNat, if rem = 0 then 0 else fNX)

/-- RoundToFormat (R125): the code and the flags of the rounding; a signalling operand's NV is the caller's. -/
def roundToFormat (t : ElemType) (r : Rnd) (x : FVal) : FRes :=
  match t with
  | .e8m0 =>
    match x with
    | .nan _ _ _ => (0xFF, 0)
    | .inf _ => (0xFF, fNV)
    | .fin neg m e => if neg ∨ m = 0 then (0xFF, fNV) else roundE8 r m e
  | _ =>
    let f := ffmt t
    match x with
    | .nan neg m w => convertNaN t neg m w
    | .inf neg => if f.hasInf then (f.sign neg + f.infCode, 0) else (f.sign neg + f.maxCode, fNV)
    | .fin neg m e => if m = 0 then (f.sign neg, 0) else roundFin t r neg m e

/-- Whether a result is an exact 0 of either sign. -/
def FVal.isZero : FVal → Bool
  | .fin _ m _ => m == 0
  | _ => false

/-- The first NaN among operands in priority order, with its NV (R135). -/
def pickNaN : List FVal → Option FVal
  | [] => none
  | x :: r => if x.isNaN then some x else pickNaN r

/-- The sign and magnitude of an exact sum of two signed dyadic numbers. -/
def addDyadic (n1 : Bool) (m1 : Nat) (e1 : Int) (n2 : Bool) (m2 : Nat) (e2 : Int) : Int × Int :=
  let e := min e1 e2
  let a : Int := m1 * 2 ^ (e1 - e).toNat
  let b : Int := m2 * 2 ^ (e2 - e).toNat
  ((if n1 then -a else a) + (if n2 then -b else b), e)

/-- An exact sum of two operands that are not NaN; none when it is invalid (R136). Zeros by R128. -/
def addF (mode : Nat) (x y : FVal) : Option FVal :=
  match x, y with
  | .inf a, .inf b => if a = b then some (.inf a) else none
  | .inf a, _ => some (.inf a)
  | _, .inf b => some (.inf b)
  | .fin n1 m1 e1, .fin n2 m2 e2 =>
    let (v, e) := addDyadic n1 m1 e1 n2 m2 e2
    if v = 0 then some (.fin (if n1 = n2 then n1 else mode == 2) 0 0)
    else some (.fin (v < 0) v.natAbs e)
  | x, _ => some x

/-- An exact product of two operands that are not NaN; none when it is invalid (R136). -/
def mulF (x y : FVal) : Option FVal :=
  match x, y with
  | .inf a, .inf b => some (.inf (a != b))
  | .inf a, .fin b m _ => if m = 0 then none else some (.inf (a != b))
  | .fin a m _, .inf b => if m = 0 then none else some (.inf (a != b))
  | .fin a m1 e1, .fin b m2 e2 => some (.fin (a != b) (m1 * m2) (e1 + e2))
  | x, _ => some x

/-- The negation of an operand that is not a NaN. -/
def negF : FVal → FVal
  | .nan s m w => .nan s m w
  | .inf s => .inf (!s)
  | .fin s m e => .fin (!s) m e

/-- The result of an operation whose operands are `xs` in priority order (R135, R136): a NaN operand, the canonical NaN of an invalid
operation, or the rounded exact result. -/
def finishF (t : ElemType) (r : Rnd) (xs : List FVal) (exact : Option FVal) : FRes :=
  match pickNaN xs with
  | some x => let (c, fl) := roundToFormat t r x; (c, fl ||| nanFlags xs)
  | none =>
    match exact with
    | some v => roundToFormat t r v
    | none => let (c, fl) := roundToFormat t r canonNaN; (c, fl ||| fNV)

/-- x + y (R194, R125). -/
def fAdd (t : ElemType) (r : Rnd) (x y : FVal) : FRes := finishF t r [x, y] (addF r.mode x y)
/-- x - y. -/
def fSub (t : ElemType) (r : Rnd) (x y : FVal) : FRes := finishF t r [x, y] (addF r.mode x (negF y))
/-- x times y. -/
def fMul (t : ElemType) (r : Rnd) (x y : FVal) : FRes := finishF t r [x, y] (mulF x y)

/-- a x b + c, rounded once; NaN priority c, a, b; 0 x infinity is invalid even beside a NaN addend (R135, R138). -/
def fFma (t : ElemType) (r : Rnd) (a b c : FVal) : FRes :=
  let p := if a.isNaN || b.isNaN then some a else mulF a b
  let res := finishF t r [c, a, b] (p.bind fun q => addF r.mode q c)
  (res.1, res.2 ||| (if p.isNone then fNV else 0))

/-! ### Quotients, roots and the elementary functions -/

/-- Precision in bits of the interval that stands for an inexact real. -/
def realBits : Nat := 320

/-- The midpoint of [n, n + 1) x 2^-p. -/
def midpoint (neg : Bool) (n p : Nat) : FVal := .fin neg (2 * n + 1) (-(p : Int) - 1)

/-- A value that is a multiple of 2^-p, or strictly between two multiples. -/
def fixedVal (neg exact : Bool) (n p : Nat) : FVal := if exact then .fin neg n (-(p : Int)) else midpoint neg n p

/-- A power of two times a value. -/
def scaleF (k : Int) : FVal → FVal
  | .fin s m e => .fin s m (e + k)
  | x => x

/-- The quotient of two nonzero finite magnitudes. -/
def quotient (neg : Bool) (m1 : Nat) (e1 : Int) (m2 : Nat) (e2 : Int) : FVal :=
  scaleF (e1 - e2) (fixedVal neg (m1 * 2 ^ realBits % m2 == 0) (m1 * 2 ^ realBits / m2) realBits)

/-- x / y with its flags (R134, R136). -/
def fDiv (t : ElemType) (r : Rnd) (x y : FVal) : FRes :=
  match x, y with
  | .fin a m1 e1, .fin b m2 e2 =>
    if m2 = 0 then
      (if m1 = 0 then finishF t r [] none
       else let (c, fl) := roundToFormat t r (.inf (a != b)); (c, fl ||| fDZ))
    else if m1 = 0 then roundToFormat t r (.fin (a != b) 0 0)
    else roundToFormat t r (quotient (a != b) m1 e1 m2 e2)
  | .inf a, .fin b _ _ => roundToFormat t r (.inf (a != b))
  | .fin a _ _, .inf b => roundToFormat t r (.fin (a != b) 0 0)
  | x, y => finishF t r [x, y] none

/-- The floor of a square root, one bit a step from bit `n - 1` down. -/
def isqrtFrom (x : Nat) : Nat → Nat → Nat
  | 0, y => y
  | n + 1, y => if (y + 2 ^ n) * (y + 2 ^ n) ≤ x then isqrtFrom x n (y + 2 ^ n) else isqrtFrom x n y

/-- The floor of a square root. -/
def isqrt (x : Nat) : Nat := isqrtFrom x (x.log2 / 2 + 1) 0

/-- A finite positive value as m x 4^h. -/
def evenExp (m : Nat) (e : Int) : Nat × Int := if e % 2 = 0 then (m, e / 2) else (2 * m, (e - 1) / 2)

/-- The square root of a positive finite value. -/
def sqrtVal (m : Nat) (e : Int) : FVal :=
  let (m, h) := evenExp m e
  let x := m * 2 ^ (2 * realBits)
  let n := isqrt x
  scaleF h (fixedVal false (n * n == x) n realBits)

/-- The reciprocal square root of a positive finite value. -/
def rsqrtVal (m : Nat) (e : Int) : FVal :=
  let (m, h) := evenExp m e
  let n := isqrt (2 ^ (2 * realBits) / m)
  scaleF (-h) (fixedVal false (n * n * m == 2 ^ (2 * realBits)) n realBits)

/-- ln 2 in units of 2^-400. -/
def ln2 : Nat := 0xb17217f7d1cf79abc9e3b39803f2f6af40f343267298b62d8a0d175b8baafa2be7b876206debac98559552fb4afa1b10ed2e

/-- The sum of the terms t, t y / k, ... of an exponential series in units of 2^-400, `n` of them. -/
def expSeries (y : Nat) : Nat → Nat → Nat → Nat
  | 0, _, _ => 0
  | n + 1, k, t => t + expSeries y n (k + 1) (t * y / 2 ^ 400 / k)

/-- e^y for 0 <= y < 1, in units of 2^-400. -/
def expFrac (y : Nat) : Nat := expSeries y 100 1 (2 ^ 400)

/-- A dyadic magnitude in units of 2^-400, rounded down. -/
def toFixed (m : Nat) (e : Int) : Nat := if 0 ≤ e + 400 then m * 2 ^ (e + 400).toNat else m / 2 ^ (-(e + 400)).toNat

/-- 2^x of a finite x. An x beyond 4,096 in magnitude rounds as +-4,096 does in every format. -/
def exp2Val (neg : Bool) (m : Nat) (e : Int) : FVal :=
  if m = 0 then .fin false 1 0
  else if 12 ≤ (m.log2 : Int) + e then scaleF (if neg then -4096 else 4096) (midpoint false (2 ^ realBits) realBits)
  else
    let x := toFixed m e
    if x % 2 ^ 400 = 0 then .fin false 1 (if neg then -(x / 2 ^ 400 : Int) else (x / 2 ^ 400 : Int))
    else
      let n : Int := if neg then -(x / 2 ^ 400 : Int) - 1 else (x / 2 ^ 400 : Int)
      let f := if neg then 2 ^ 400 - x % 2 ^ 400 else x % 2 ^ 400
      scaleF n (midpoint false (expFrac (f * ln2 / 2 ^ 400) / 2 ^ 80) realBits)

/-- Bits of a base-2 logarithm by repeated squaring of a number in [1, 2) held in units of 2^-700. -/
def log2Bits : Nat → Nat → Nat → Nat
  | 0, _, acc => acc
  | n + 1, y, acc =>
    let y2 := y * y / 2 ^ 700
    if 2 ^ 701 ≤ y2 then log2Bits n (y2 / 2) (2 * acc + 1) else log2Bits n y2 (2 * acc)

/-- log2 of a positive finite value. -/
def log2Val (m : Nat) (e : Int) : FVal :=
  let fe : Int := m.log2 + e
  if m = 2 ^ m.log2 then .fin (fe < 0) fe.natAbs 0
  else
    let n : Int := fe * 2 ^ 256 + log2Bits 256 (m * 2 ^ 700 / 2 ^ m.log2) 0
    let v := 2 * n + 1
    .fin (v < 0) v.natAbs (-257)

/-- tanh of a finite nonzero value: just below the operand when it is small, just below 1 when it is large. -/
def tanhVal (neg : Bool) (m : Nat) (e : Int) : FVal :=
  let fe := (m.log2 : Int) + e
  if fe < -40 then .fin neg (m * 2 ^ 90 - 1) (e - 90)
  else if 7 ≤ fe then .fin neg (2 ^ 180 - 1) (-180)
  else
    let y := 2 * toFixed m e
    let n := y / ln2
    let ex := expFrac (y % ln2) * 2 ^ n
    midpoint neg ((ex - 2 ^ 400) * 2 ^ realBits / (ex + 2 ^ 400)) realBits

/-- A function of one operand (R196): a NaN operand, or what the function gives. -/
def unaryF (t : ElemType) (r : Rnd) (x : FVal) (f : FVal → FRes) : FRes :=
  if x.isNaN then finishF t r [x] none else f x

/-- An invalid operation's result (R136). -/
def invalidF (t : ElemType) (r : Rnd) : FRes := finishF t r [] none

/-- A result with DZ (R134). -/
def divZero (t : ElemType) (r : Rnd) (neg : Bool) : FRes :=
  let (c, fl) := roundToFormat t r (.inf neg)
  (c, fl ||| fDZ)

/-- Square root (R196, R136). -/
def fSqrt (t : ElemType) (r : Rnd) (x : FVal) : FRes :=
  unaryF t r x fun x =>
    match x with
    | .inf neg => if neg then invalidF t r else roundToFormat t r (.inf false)
    | .fin neg m e => if m = 0 then roundToFormat t r x else if neg then invalidF t r else roundToFormat t r (sqrtVal m e)
    | _ => invalidF t r

/-- Reciprocal (R196). -/
def fRcp (t : ElemType) (r : Rnd) (x : FVal) : FRes := unaryF t r x fun x => fDiv t r (.fin false 1 0) x

/-- Reciprocal square root (R196, R134, R136). -/
def fRsqrt (t : ElemType) (r : Rnd) (x : FVal) : FRes :=
  unaryF t r x fun x =>
    match x with
    | .inf neg => if neg then invalidF t r else roundToFormat t r (.fin false 0 0)
    | .fin neg m e => if m = 0 then divZero t r neg else if neg then invalidF t r else roundToFormat t r (rsqrtVal m e)
    | _ => invalidF t r

/-- Base-2 exponential (R196). -/
def fExp2 (t : ElemType) (r : Rnd) (x : FVal) : FRes :=
  unaryF t r x fun x =>
    match x with
    | .inf neg => if neg then roundToFormat t r (.fin false 0 0) else roundToFormat t r (.inf false)
    | .fin neg m e => roundToFormat t r (exp2Val neg m e)
    | _ => invalidF t r

/-- Base-2 logarithm (R196, R136). -/
def fLog2 (t : ElemType) (r : Rnd) (x : FVal) : FRes :=
  unaryF t r x fun x =>
    match x with
    | .inf neg => if neg then invalidF t r else roundToFormat t r (.inf false)
    | .fin neg m e => if m = 0 then divZero t r true else if neg then invalidF t r else roundToFormat t r (log2Val m e)
    | _ => invalidF t r

/-- Hyperbolic tangent (R196). -/
def fTanh (t : ElemType) (r : Rnd) (x : FVal) : FRes :=
  unaryF t r x fun x =>
    match x with
    | .inf neg => roundToFormat t r (.fin neg 1 0)
    | .fin neg m e => if m = 0 then roundToFormat t r x else roundToFormat t r (tanhVal neg m e)
    | _ => invalidF t r

/-! ### Comparison, minimum and maximum (R137) -/

/-- An exact comparison of two operands that are not NaN; zeros of either sign are equal. -/
def cmpF (x y : FVal) : Ordering :=
  match x, y with
  | .inf a, .inf b => if a = b then .eq else if a then .lt else .gt
  | .inf a, _ => if a then .lt else .gt
  | _, .inf b => if b then .gt else .lt
  | .fin n1 m1 e1, .fin n2 m2 e2 =>
    let v := (addDyadic n1 m1 e1 (!n2) m2 e2).1
    if v < 0 then .lt else if v = 0 then .eq else .gt
  | _, _ => .eq

/-- The sign of an operand. -/
def FVal.neg : FVal → Bool
  | .nan s _ _ => s
  | .inf s => s
  | .fin s _ _ => s

/-- Whether x comes before y, with -0 before +0 (R137). -/
def beforeF (x y : FVal) : Bool :=
  match cmpF x y with
  | .lt => true
  | .gt => false
  | .eq => x.neg && !y.neg

/-- Minimum (R137). -/
def fMin (t : ElemType) (x y : FVal) : FRes := finishF t Rnd.near [x, y] (some (if beforeF y x then y else x))
/-- Maximum (R137). -/
def fMax (t : ElemType) (x y : FVal) : FRes := finishF t Rnd.near [x, y] (some (if beforeF x y then y else x))

/-- The relations of VFCMP (R197) with their NV (R137). -/
def fCmp (c : FCond) (x y : FVal) : Bool × FFlags :=
  let un := x.isNaN || y.isNaN
  let o := cmpF x y
  let v := match c with
    | .eq => !un && o == .eq
    | .ne => un || o != .eq
    | .lt => !un && o == .lt
    | .le => !un && o != .gt
    | .gt => !un && o == .gt
    | .ge => !un && o != .lt
    | .un => un
    | .or => !un
  (v, nanFlags [x, y])

/-! ### Conversions (R129, R130) -/

/-- The range of an integer type (R116). -/
def intMin (t : ElemType) : Int := if t.isSigned then -(2 ^ (t.width - 1)) else 0
/-- The largest value of an integer type (R116). -/
def intMax (t : ElemType) : Int := if t.isSigned then 2 ^ (t.width - 1) - 1 else 2 ^ t.width - 1
/-- Saturate (R12). -/
def saturate (t : ElemType) (x : Int) : Int := max (intMin t) (min (intMax t) x)
/-- The value of an integer code (R116). -/
def decodeI (t : ElemType) (c : Nat) : Int := if t.isSigned then toSigned t.width (c % 2 ^ t.width) else ((c % 2 ^ t.width : Nat) : Int)
/-- The code of an integer, wrapped to the type's width (R117). -/
def encodeI (t : ElemType) (x : Int) : Nat := wrapTo t.width x

/-- A floating value into an integer type (R130). -/
def toInt (t : ElemType) (r : Rnd) (x : FVal) : FRes :=
  match x with
  | .nan _ _ _ => (0, fNV)
  | .inf neg => (encodeI t (if neg then intMin t else intMax t), fNV)
  | .fin neg m e =>
    let (k, inexact) := roundAt r neg m e 0
    let y : Int := if neg then -(k : Int) else k
    if y < intMin t ∨ intMax t < y then (encodeI t (saturate t y), fNV) else (encodeI t y, if inexact then fNX else 0)

/-- An exact integer as a floating value. -/
def ofInt (x : Int) : FVal := .fin (x < 0) x.natAbs 0

/-- A conversion between any two types (R129, R130); between integers R117 and R201. -/
def convert (dt st : ElemType) (r : Rnd) (c : Nat) : FRes :=
  if st.isInt then
    (if dt.isInt then (encodeI dt (if r.sat then saturate dt (decodeI st c) else decodeI st c), 0)
     else roundToFormat dt r (ofInt (decodeI st c)))
  else
    let x := decodeF st c
    if dt.isInt then toInt dt r x
    else let (y, fl) := roundToFormat dt r x; (y, fl ||| nanFlags [x])

/-! ### Block quantisation (R124) -/

/-- emax of R124. -/
def quantEmax : ElemType → Int
  | .e2m1 => 2
  | .e4m3 => 8
  | _ => 15

/-- The exponent of the largest finite magnitude among values, none when all are zero. -/
def maxExp (xs : List FVal) : Option Int :=
  xs.foldl
    (fun a x =>
      match x with
      | .fin _ m e => if m = 0 then a else (match a with | none => some (m.log2 + e) | some b => some (max b (m.log2 + e)))
      | _ => a) none

/-- The scale code of a block, or none for a block that holds a NaN or an infinity it cannot keep (R124). -/
def quantScale (t : ElemType) (xs : List FVal) : Option Nat :=
  if xs.any FVal.isNaN || (t != .e5m2 && xs.any fun x => match x with | .inf _ => true | _ => false) then none
  else
    match maxExp xs with
    | none => some 0
    | some e => some (max (-127) (min 127 (e - quantEmax t)) + 127).toNat

/-- One element quantised under a scale code, with index `idx` (R124). -/
def quantElem (t : ElemType) (r : Rnd) (k : Nat) (idx : Nat) (x : FVal) : FRes :=
  roundToFormat t { r with idx := idx, sat := true } (scaleF (127 - (k : Int)) x)

end Sys2Proof.Machine
end

