-- ==== Sys2Proof/Machine/Xlate.lean ====
section
/-! DEFINITION. Addresses (chapter 12): the physical map (R275), homes (R276), translation by ranges and page table with cached entries
(R278-R283), the checks of an access in the order of R96, the path to another die (R395, R398), and when a home can be reached (R416). -/

namespace Sys2Proof.Machine

/-- What an access is, for the rights and targets it needs (R96, R276, R320). -/
inductive AccKind where
  | load | store | rmw | waitf | fetch | pieceRead | pieceWrite | fill | combine | mdaRead | mdaWrite | record | dispRead | dispWrite | dispAny
  deriving DecidableEq, Repr

/-- Where a physical address lies (R275), seen from this module. -/
inductive Target where
  | hbm (h : Nat)
  | window (t : Nat) (off : Nat)
  | dev (off : Nat)
  | host (hpa : Nat)
  | remote (pa : Nat)
  | unmapped
  deriving DecidableEq, Repr

/-- The map of local physical addresses (R275). -/
def localTarget (a : Nat) : Target :=
  if a < hbmBytes then .hbm a
  else if 0x4000000000000 ≤ a ∧ a < 0x4000000000000 + 0x2000000 * 192 then
    let t := (a - 0x4000000000000) / 0x2000000
    let off := (a - 0x4000000000000) % 0x2000000
    if off < spadBytes then .window t off else .unmapped
  else if 0x6000000000000 ≤ a ∧ a < 0x6000100000000 then .dev (a - 0x6000000000000)
  else if 0x8000000000000 ≤ a ∧ a < 0x10000000000000 then .host (a - 0x8000000000000)
  else .unmapped

/-- The target of a global physical address (R275, R399): on another module only HBM and windows exist. -/
def targetOf (s : State) (pa : Nat) : Target :=
  let a := pa % 2 ^ 64
  let m := a / 2 ^ 52
  if m = s.fab.modnum.toNat then localTarget (a % 2 ^ 52)
  else
    match localTarget (a % 2 ^ 52) with
    | .hbm _ => .remote a
    | .window _ _ => .remote a
    | _ => .unmapped

/-- The stack and offset of an HBM offset (R276). -/
def stackOf (striped : Bool) (h : Nat) : Nat × Nat :=
  if striped then
    let b := h / 4096
    (b % 24, b / 24 * 4096 + h % 4096)
  else (h / stackBytes, h % stackBytes)

/-- The byte of HBM that a home names: its stack's base plus its offset (R276). -/
def hbmIndex (striped : Bool) (h : Nat) : Nat := (stackOf striped h).1 * stackBytes + (stackOf striped h).2

/-- Whether encryption carves the offset out (R288). -/
def carvedOut (s : State) (striped : Bool) (h : Nat) : Bool := s.sec.enc && 48318382080 ≤ (stackOf striped h).2

/-- Rights and kind of a leaf entry or range attribute (R281): V LF RD W X in bits 0-4, ATTR in bits 11:5. -/
def entryV (e : Nat) : Bool := e % 2 == 1
/-- Leaf bit (R281). -/
def entryLF (e : Nat) : Bool := e / 2 % 2 == 1
/-- Read right (R281). -/
def entryR (e : Nat) : Bool := e / 4 % 2 == 1
/-- Write right (R281). -/
def entryW (e : Nat) : Bool := e / 8 % 2 == 1
/-- Execute right (R281). -/
def entryX (e : Nat) : Bool := e / 16 % 2 == 1
/-- Attribute index (R281). -/
def entryAttr (e : Nat) : Nat := e / 32 % 128

/-- A translation before its attribute entry is read. -/
structure Leaf where
  pa : Nat
  ent : Nat
  base : Nat
  size : Nat
  deriving DecidableEq, Repr

/-- The die of an HBM index. -/
def dieOfIdx (idx : Nat) : Nat := idx / stackBytes / 2

/-- The Rafter link between two dies, a < b (R395). -/
def linkNum (a b : Nat) : Nat := 11 * a - a * (a - 1) / 2 + (b - a - 1)

/-- Whether the link between two dies is up (R398). -/
def linkUp (s : State) (a b : Nat) : Bool :=
  if a = b then true else !s.fab.linkdown.getLsbD (if a < b then linkNum a b else linkNum b a)

/-- Whether one die reaches another, directly or through one other die (R398). -/
def rafterOk (s : State) (a b : Nat) : Bool :=
  linkUp s a b || (List.range 12).any fun c => c ≠ a && c ≠ b && linkUp s a c && linkUp s c b

/-- Whether a die has a Purlin port up (R409). -/
def portsUp (s : State) (die : Nat) : Bool := (List.range 4).any fun p => s.fab.portup.getLsbD (4 * die + p)

/-- Whether a combine pass holds a sector (R349). -/
def lockedSec (s : State) (sec : Nat) : Bool := s.fab.locks.any fun l => l.sectors.contains sec

/-- Before any access to a sector (R349, R416, R459, R463): waits until HBM is trained and filled, while encryption is being initialised and while
a combine pass holds the sector, snoops a sector the host may hold. -/
def homeReady (s : State) (sec : Nat) : Option State :=
  if s.hk.bring < 5 || (s.sec.enc && !s.sec.encOn) || lockedSec s sec then some s
  else if s.host.tracked.contains sec then
    some (if s.host.snooping.contains sec then s
          else ({ s with host := { s.host with snooping := sec :: s.host.snooping } }).sendHost (.snoop sec))
  else none

/-- What a read of a table comes to (R278): its value, a fault with its cause, a wait at the home, or a die that cannot be reached (R398). -/
inductive TabRes where
  | val (x : Nat)
  | fault (cause : BitVec 8)
  | wait
  | rafter (die : Nat)
  deriving DecidableEq, Repr

/-- A MEM_UNCORRECTED report of the stack that holds a byte, counted (R468). -/
def countBad (s : State) (idx : Nat) : State := s.countEvent (idx / stackBytes / 2) 0x02 (idx / stackBytes % 2) 1

/-- Corrections in the sector of a byte, counted at its stack (R284, R468). -/
def countFix (s : State) (idx n : Nat) : State :=
  if n = 0 then s else s.countEvent (idx / stackBytes / 2) 0x01 (idx / stackBytes % 2) n

/-- Reading HBM bytes under the die-local policy, as the walker of a die does (R278): beyond HBM and in the metadata ACCESS (R288), and the home
reports and snoops as for any access (R284, R398, R416). -/
def walkRead (s : State) (die h n : Nat) : TabRes × State :=
  if hbmBytes < h + n ∨ carvedOut s false h then (.fault 0x10, s)
  else if !rafterOk s die (dieOfIdx h) then (.rafter (dieOfIdx h), s)
  else
    match homeReady s (h / 64) with
    | some s => (.wait, s)
    | none =>
      let s := { s with sec := { s.sec with touched := true } }
      let sec := smGet Sector.fresh (h / 64) s.sectors
      if 1 < sec.err ∨ sec.scheme ≠ 0 then (.fault 0x20, countBad s h)
      else (.val (leNat (memRead s.hbm h n)), countFix s h (if sec.err = 0 then 0 else 1))

/-- The result of a walk: a leaf, a fault with its cause, a wait, or a die that cannot be reached. -/
inductive WalkRes where
  | leaf (l : Leaf)
  | fault (cause : BitVec 8)
  | wait
  | rafter (die : Nat)
  deriving DecidableEq, Repr

/-- Goes on with the value of a table entry. -/
def TabRes.bind (r : TabRes × State) (f : Nat → State → WalkRes × State) : WalkRes × State :=
  match r with
  | (.val e, s) => f e s
  | (.fault c, s) => (.fault c, s)
  | (.wait, s) => (.wait, s)
  | (.rafter d, s) => (.rafter d, s)

/-- The page-table walk from level `lvl` (R281). -/
def walk (s : State) (die va : Nat) : Nat → Nat → WalkRes × State
  | 0, table =>
    TabRes.bind (walkRead s die (table + 8 * (va / 2 ^ 12 % 512)) 8) fun e s =>
      if entryV e ∧ entryLF e ∧ ¬(entryW e ∧ entryX e) then
        (.leaf ⟨e / 4096 * 4096 + va % 4096, e, va / 4096 * 4096, 4096⟩, s)
      else (.fault 0x10, s)
  | l + 1, table =>
    match walkRead s die (table + 8 * (va / 2 ^ (12 + 9 * (l + 1)) % 512)) 8 with
    | (.fault c, s) => (.fault c, s)
    | (.wait, s) => (.wait, s)
    | (.rafter d, s) => (.rafter d, s)
    | (.val e, s) =>
      let sz := 2 ^ (12 + 9 * (l + 1))
      if ¬ entryV e then (.fault 0x10, s)
      else if entryLF e then
        if l + 1 ≤ 2 ∧ (e / 4096 * 4096) % sz = 0 ∧ ¬(entryW e ∧ entryX e) then
          (.leaf ⟨e / 4096 * 4096 + va % sz, e, va / sz * sz, sz⟩, s)
        else (.fault 0x10, s)
      else if e / 4 % 1024 = 0 ∧ e / 2 ^ 52 = 0 then walk s die va l (e / 4096 * 4096)
      else (.fault 0x10, s)

/-- Whether a range entry (32 bytes as a number, R280) is valid and contains an address. -/
def rangeHit (e va : Nat) : Bool :=
  entryV (e / 2 ^ 192) && e % 2 ^ 64 / 4096 * 4096 % 2 ^ 57 ≤ va && va < e / 2 ^ 64 % 2 ^ 58 / 4096 * 4096

/-- The leaf a range entry gives, none when a nonzero reserved bit, or W with X, makes it raise ACCESS (R279, R280, R281). -/
def rangeLeaf (e va : Nat) : Option Leaf :=
  let vb := e % 2 ^ 64
  let vl := e / 2 ^ 64 % 2 ^ 64
  let pb := e / 2 ^ 128 % 2 ^ 64
  let at_ := e / 2 ^ 192
  if vb % 4096 ≠ 0 ∨ vb / 2 ^ 57 ≠ 0 ∨ vl % 4096 ≠ 0 ∨ vl / 2 ^ 58 ≠ 0 ∨ pb % 4096 ≠ 0 ∨ at_ / 4096 ≠ 0 ∨ entryLF at_ ∨
      (entryW at_ ∧ entryX at_) then none
  else some ⟨(pb + (va - vb)) % 2 ^ 64, at_, vb, vl - vb⟩

/-- What a search of the range table finds. -/
inductive RangeRes where
  | miss
  | hit (k e : Nat)
  | stop (r : WalkRes)
  deriving DecidableEq, Repr

/-- The first valid range entry of the table that contains an address, in ascending entry number (R279). -/
def findRange (s : State) (die base va : Nat) : Nat → Nat → RangeRes × State
  | 0, _ => (.miss, s)
  | n + 1, k =>
    match walkRead s die (base + 32 * k) 32 with
    | (.val e, s) => if rangeHit e va then (.hit k e, s) else findRange s die base va n (k + 1)
    | (.fault c, s) => (.stop (.fault c), s)
    | (.wait, s) => (.stop .wait, s)
    | (.rafter d, s) => (.stop (.rafter d), s)

/-- How many cached entries of a kind a die holds: 2,048 leaves, 256 ranges, and the attribute entries they use (R283). -/
def tlbCap (kind : BitVec 2) : Nat := if kind = 1 then 256 else 2048

/-- The first `n` cached entries of a die and kind, and every other: the oldest leave (log entry 54). -/
def tlbKeep (die : Nat) (kind : BitVec 2) : Nat → List TlbEnt → List TlbEnt
  | _, [] => []
  | n, e :: r =>
    if e.die = die ∧ e.kind = kind then (match n with | 0 => tlbKeep die kind 0 r | n + 1 => e :: tlbKeep die kind n r)
    else e :: tlbKeep die kind n r

/-- Adds a cached translation of a die (R283). -/
def addTlb (s : State) (e : TlbEnt) : State :=
  if s.disp.tlb.contains e then s else { s with disp := { s.disp with tlb := e :: tlbKeep e.die e.kind (tlbCap e.kind - 1) s.disp.tlb } }

/-- Step 2 of R279: the cached ranges of the die, and on a miss the range table; a valid result is cached (R283). -/
def rangeStep (s : State) (die j va : Nat) : Option WalkRes × State :=
  let ofEnt := fun (e : Nat) => match rangeLeaf e va with | some l => WalkRes.leaf l | none => .fault 0x10
  match s.disp.tlb.find? fun e => e.die == die && e.job == j && e.kind == 1 && rangeHit e.data.toNat va with
  | some e => (some (ofEnt e.data.toNat), s)
  | none =>
    let xrt := (smGet JobSt.reset j s.disp.jobs).xrt.toNat
    match findRange s die (xrt % 2 ^ 52 / 32 * 32) va (xrt / 2 ^ 53) 0 with
    | (.miss, s) => (none, s)
    | (.stop r, s) => (some r, s)
    | (.hit k e, s) => (some (ofEnt e), if (rangeLeaf e va).isSome then addTlb s ⟨die, j, 1, k, 0, BitVec.ofNat 256 e⟩ else s)

/-- Step 3 of R279: the cached leaves of the die, and on a miss the page table; a leaf is cached (R283). -/
def pageStep (s : State) (die j va : Nat) : WalkRes × State :=
  match s.disp.tlb.find? fun e => e.die == die && e.job == j && e.kind == 0 && e.key ≤ va && va < e.key + e.size with
  | some e => (.leaf ⟨e.data.toNat / 4096 * 4096 + va % e.size, e.data.toNat, e.key, e.size⟩, s)
  | none =>
    let xpt := (smGet JobSt.reset j s.disp.jobs).xpt.toNat
    if xpt % 2 = 1 then
      match walk s die va 4 (xpt % 2 ^ 52 / 4096 * 4096) with
      | (.leaf l, s) => (.leaf l, addTlb s ⟨die, j, 0, l.base, l.size, BitVec.ofNat 256 l.ent⟩)
      | r => r
    else (.fault 0x10, s)

/-- Steps 2 and 3 of R279. -/
def findLeaf (s : State) (die j va : Nat) : WalkRes × State :=
  match rangeStep s die j va with
  | (some r, s) => (r, s)
  | (none, s) => pageStep s die j va

/-- Whether an attribute entry can be used by any access at all (R282): one that cannot is not cached (R283). -/
def attrUsable (s : State) (a : Nat) : Bool :=
  let tol := a / 2 ^ 9 % 2 == 1
  a / 2 ^ 20 == 0 && a / 4 % 64 == 0 && a % 4 != 3 && !(tol && 6 ≤ a / 2 ^ 10 % 8) && !(a / 2 ^ 8 % 2 == 1 && (a % 4 == 2 || tol)) &&
  (a / 2 ^ 13 % 64 == 0 || s.sec.enc)

/-- An attribute entry, cached or read (R282, R283). -/
def findAttr (s : State) (die j idx : Nat) : TabRes × State :=
  match s.disp.tlb.find? fun e => e.die == die && e.job == j && e.kind == 2 && e.key == idx with
  | some e => (.val e.data.toNat, s)
  | none =>
    match walkRead s die ((smGet JobSt.reset j s.disp.jobs).xat.toNat % 2 ^ 52 / 512 * 512 + 4 * idx) 4 with
    | (.val a, s) => (.val a, if attrUsable s a then addTlb s ⟨die, j, 2, idx, 0, BitVec.ofNat 256 a⟩ else s)
    | r => r

/-- The page that a leaf and its attribute entry give (R281, R282). -/
def pageOf (l : Leaf) (a : Nat) : Page :=
  let ord := a % 4
  let sync := a / 2 ^ 8 % 2 == 1
  let tol := a / 2 ^ 9 % 2 == 1
  let tfmt := a / 2 ^ 10 % 8
  { pa := l.pa, r := entryR l.ent, w := entryW l.ent, x := entryX l.ent, ord := ord, sync := sync, tol := tol, tfmt := tfmt,
    key := a / 2 ^ 13 % 64, striped := a / 2 ^ 19 % 2 == 1,
    attrOk := a / 2 ^ 20 == 0 && a / 4 % 64 == 0 && ord != 3 && !(tol && 6 ≤ tfmt) &&
      !(sync && (entryX l.ent || ord == 2 || tol)) }

/-- A translated address; the cause of the fault; a wait for a table's home (R416); or a table on a die that cannot be reached (R398). -/
inductive XRes where
  | page (p : Page)
  | fault (cause : BitVec 8)
  | wait
  | rafter (die : Nat)
  deriving DecidableEq, Repr

/-- Translation of a virtual address of a job at a die, up to the attribute entry (R279). -/
def translate (s : State) (die : Nat) (j : Nat) (va : Nat) : XRes × State :=
  if 2 ^ 57 ≤ va then (.fault 0x10, s)
  else
    match findLeaf s die j va with
    | (.fault c, s) => (.fault c, s)
    | (.wait, s) => (.wait, s)
    | (.rafter d, s) => (.rafter d, s)
    | (.leaf l, s) =>
      match findAttr s die j (entryAttr l.ent) with
      | (.fault c, s) => (.fault c, s)
      | (.wait, s) => (.wait, s)
      | (.rafter d, s) => (.rafter d, s)
      | (.val a, s) => (.page (pageOf l a), s)

/-- Whether a target accepts an access (R276): `bytes` is the width of a scalar access, `rw` that the access is RGET or RPUT. The device
registers from 0x40_0000 up are the host's and the board's alone (R456's chapter; log entry 17). -/
def targetOk (k : AccKind) (bytes : Nat) (rw : Bool) (p : Page) : Target → Bool
  | .hbm _ => true
  | .window _ _ => rw
  | .dev off => (k == .load || k == .store) && (bytes == 4 || bytes == 8) && p.ord == 0 && off < 0x400000
  | .host _ => k == .load || k == .store || k == .pieceRead || k == .pieceWrite || k == .fill || k == .record
  | .remote pa => match localTarget (pa % 2 ^ 52) with | .window _ _ => rw | _ => true
  | .unmapped => false

/-- The rights an access needs (R96). -/
def rightsOk (k : AccKind) (p : Page) : Bool :=
  match k with
  | .load | .waitf | .pieceRead | .mdaRead | .record | .dispRead => p.r
  | .store | .pieceWrite | .fill | .mdaWrite | .dispWrite => p.w
  | .rmw | .combine => p.r && p.w
  | .fetch => p.x
  | .dispAny => true

/-- Whether an access is refused on a sync page (R96, R320). -/
def syncRefused : AccKind → Bool
  | .load | .store | .pieceRead | .pieceWrite | .fill | .combine | .mdaRead | .mdaWrite | .record | .dispWrite => true
  | _ => false

/-- Whether a job may use a key slot (R290): bound and full. -/
def keyOk (s : State) (j : Nat) (k : Nat) : Bool :=
  let ks := smGet KeySlot.reset k s.sec.keys
  ks.keys.isSome &&
  (List.range 4).any fun n => ks.bind.getLsbD (60 + n) && ks.bind.toNat / 2 ^ (12 * n) % 4096 == j

/-- The cause an access to a page raises, in the order ACCESS, PERMISSION, SYNC_PAGE (R96, R279). What a key of another module's page asks
is checked at its home (log entry 46). -/
def accessCause (s : State) (j : Nat) (k : AccKind) (bytes : Nat) (rw : Bool) (p : Page) : Option (BitVec 8) :=
  let tg := targetOf s p.pa
  let isHbm := match tg with | .hbm _ => true | .remote pa => (match localTarget (pa % 2 ^ 52) with | .hbm _ => true | _ => false) | _ => false
  let isRemote := match tg with | .remote _ => true | _ => false
  let carved := match tg with | .hbm h => carvedOut s p.striped h | _ => false
  if !p.attrOk || (p.key ≠ 0 && (!isHbm || (!isRemote && !s.sec.enc))) || (p.tol && !isHbm) || !targetOk k bytes rw p tg || carved then
    some 0x10
  else if !rightsOk k p || (p.key ≠ 0 && !isRemote && !keyOk s j p.key) then some 0x11
  else if p.sync && syncRefused k then some 0x13
  else none

end Sys2Proof.Machine
end

