-- ==== Sys2Proof/Machine/Home.lean ====
section
/-! DEFINITION. Homes (R274): accesses to HBM sectors under the page's protection scheme (R284-R290), with back-invalidate snoops of sectors
the host may hold (R416); the atomic operations performed there (R99-R102); reads and writes of the scratchpad with its check bits (R469). -/

namespace Sys2Proof.Machine

/-- The answer of a home: done, a fault with its cause, or the access waits (a snoop or the encryption's initialisation). -/
inductive HomeRes (α : Type) where
  | ok (x : α) (s : State)
  | fault (cause : BitVec 8) (s : State)
  | wait (s : State)

/-- The scheme a page asks for (R284). -/
def schemeOf (p : Page) : BitVec 2 := if p.key ≠ 0 then 2 else if p.tol then 1 else 0

/-- The keys in a slot, 0 when empty. -/
def slotKeys (s : State) (k : Nat) : BitVec 256 := ((smGet KeySlot.reset k s.sec.keys).keys).getD 0

/-- The counter block of the page that a sector lies in (R288), as the root of its stack's tree vouches for it. -/
def ctrsOf (s : State) (sec : Nat) : PageCtr := smGet PageCtr.fresh (sec / 64) s.sec.roots
/-- Whether the counter block of a sector's page fails its tree (R289, R290): no controller has it verified, and HBM holds another one. -/
def treeFails (s : State) (sec : Nat) : Bool :=
  !s.sec.vouched.contains (sec / 64) && smGet PageCtr.fresh (sec / 64) s.pages != ctrsOf s sec
/-- A sector's minor counter. -/
def PageCtr.minor (c : PageCtr) (k : Nat) : BitVec 7 := c.minors[k % 64]'(Nat.mod_lt _ (by decide))
/-- Whether a sector has never been written under encryption (R463): its counters are both 0. -/
def PageCtr.unwritten (c : PageCtr) (k : Nat) : Bool := c.major == 0 && c.minor k == 0

/-- Whether a sector can be read under a page's scheme (R284, R290, R463): it was last written under it, with the same format or keys, and
its error is within the symbols that the scheme corrects. -/
def sectorOk (s : State) (sec : Nat) (p : Page) : Bool :=
  let e := smGet Sector.fresh sec s.sectors
  match schemeOf p with
  | 2 => !treeFails s sec && ((ctrsOf s sec).unwritten sec || (e.err ≤ 1 && e.scheme == 2 && e.tag == slotKeys s p.key))
  | 1 => e.err ≤ 2 && e.scheme == 1 && e.tfmt.toNat == p.tfmt
  | _ => e.err ≤ 1 && e.scheme == 0

/-- Whether a sector reads as zeros: an encrypted page over a sector never written under encryption (R463), or only re-encrypted since. -/
def readsZero (s : State) (sec : Nat) (p : Page) : Bool :=
  schemeOf p == 2 && ((ctrsOf s sec).unwritten sec || (ctrsOf s sec).zeroed.getLsbD (sec % 64))

/-- A sector after a write under a page's scheme. -/
def wroteSector (s : State) (sec : Sector) (p : Page) : Sector :=
  match schemeOf p with
  | 2 => { sec with scheme := 2, tfmt := 0, key := BitVec.ofNat 6 p.key, tag := slotKeys s p.key, err := 0 }
  | 1 => { sec with scheme := 1, tfmt := BitVec.ofNat 3 p.tfmt, key := 0, tag := 0, err := 0 }
  | _ => { sec with scheme := 0, tfmt := 0, key := 0, tag := 0, err := 0 }

/-- A counter block after a write of its sector `k` (R289): the minor counter grows by 1, and when it wraps the major one, with the unwritten
sectors re-encrypted as the zeros they read as. -/
def PageCtr.wrote (c : PageCtr) (k : Nat) : PageCtr :=
  let m := c.minor k + 1
  let z := c.zeroed &&& ~~~((1 : BitVec 64) <<< (k % 64))
  let ms := c.minors.set (k % 64) m (Nat.mod_lt _ (by decide))
  if m = 0 then
    { c with major := c.major + 1, minors := ms,
             zeroed := (List.range 64).foldl (fun z i => if i ≠ k % 64 ∧ c.unwritten i then z ||| (1 : BitVec 64) <<< i else z) z }
  else { c with minors := ms, zeroed := z }

/-- The other sectors of a page with a correctable error that a re-encryption corrects (R284, R289). -/
def reencFixes (s : State) (sec : Nat) : List Nat :=
  if (ctrsOf s sec).minor sec + 1 ≠ 0 then []
  else
    ((List.range 64).map (sec / 64 * 64 + ·)).filter fun k =>
      let e := smGet Sector.fresh k s.sectors
      k ≠ sec && !(ctrsOf s sec).unwritten k && e.scheme == 2 && e.err == 1

/-- The sectors of a page after a write of its sector `sec` wrapped the minor counter (R289): the unwritten ones are now encrypted under the
page's keys too, and the others are written with new check bytes. -/
def reencrypt (s : State) (sec : Nat) (p : Page) (m : SMap Sector) : SMap Sector :=
  let c := ctrsOf s sec
  if c.minor sec + 1 ≠ 0 then m
  else
    (List.range 64).foldl
      (fun m i =>
        let k := sec / 64 * 64 + i
        if k ≠ sec ∧ c.unwritten i then smSet Sector.fresh k (wroteSector s (smGet Sector.fresh k m) p) m
        else if (reencFixes s sec).contains k then smSet Sector.fresh k { smGet Sector.fresh k m with err := 0 } m
        else m) m

/-- The latch of the security alarm (R465): cause bit, erased key slots, and a message when it was clear before. -/
def raiseAlarm (s : State) (c : AlarmCause) : State :=
  let was := s.sec.tamper || s.sec.glitch || s.sec.tree
  let sec := match c with
    | .tamper => { s.sec with tamper := true }
    | .glitch => { s.sec with glitch := true }
    | .tree => { s.sec with tree := true }
  if was then { s with sec := sec }
  else
    let ks := sec.keys.map fun kv => (kv.1, { kv.2 with keys := none })
    ({ s with sec := { sec with keys := ks.filter fun kv => kv.2 != KeySlot.reset } }).sendHost (.msix 1216)

/-- An uncorrectable report at a home: counted per stack (R468), and the alarm when the counter tree failed (R290). -/
def reportBad (s : State) (sec : Nat) (p : Page) : State :=
  let s := countBad s (sec * 64)
  if schemeOf p = 2 ∧ treeFails s sec then raiseAlarm s .tree else s

/-- A read of a readable sector: its counter block is verified and stays in the controller's cache (R289), a correctable error is corrected and
counted (R284, R468). -/
def checkedSector (s : State) (sec : Nat) (p : Page) : State :=
  let e := smGet Sector.fresh sec s.sectors
  let s := if schemeOf p = 2 ∧ !s.sec.vouched.contains (sec / 64) then { s with sec := { s.sec with vouched := (sec / 64) :: s.sec.vouched } } else s
  countFix s (64 * sec) (if e.err = 0 ∨ (schemeOf p = 2 ∧ (ctrsOf s sec).unwritten sec) then 0 else 1)

/-- A read of `n` bytes of one sector at its home (R284). -/
def homeRead (s : State) (idx n : Nat) (p : Page) : HomeRes (List Byte) :=
  match homeReady s (idx / 64) with
  | some s => .wait s
  | none =>
    let s := { s with sec := { s.sec with touched := true } }
    if sectorOk s (idx / 64) p then .ok (if readsZero s (idx / 64) p then zeros n else memRead s.hbm idx n) (checkedSector s (idx / 64) p)
    else .fault 0x20 (reportBad s (idx / 64) p)

/-- The bytes and the tag of a sector written; zeros first where an encrypted page finds it never written (R463); its counters when the page is
encrypted (R289). -/
def storeSector (s : State) (idx : Nat) (bs : List Byte) (p : Page) : State :=
  let sec := idx / 64
  let hbm := if readsZero s sec p then memWrite s.hbm (sec * 64) (zeros 64) else s.hbm
  let sectors := smSet Sector.fresh sec (wroteSector s (smGet Sector.fresh sec s.sectors) p) s.sectors
  if schemeOf p = 2 then
    let c := (ctrsOf s sec).wrote sec
    let vouched := if s.sec.vouched.contains (sec / 64) then s.sec.vouched else (sec / 64) :: s.sec.vouched
    countFix { s with hbm := memWrite hbm idx bs, sectors := reencrypt s sec p sectors, pages := smSet PageCtr.fresh (sec / 64) c s.pages,
                      sec := { s.sec with roots := smSet PageCtr.fresh (sec / 64) c s.sec.roots, vouched := vouched } }
      (64 * sec) (reencFixes s sec).length
  else { s with hbm := memWrite hbm idx bs, sectors := sectors }

/-- Whether a write may be performed (R285, R290): a whole sector needs a counter block that stands in its tree, less the sector itself. -/
def writeOk (s : State) (sec n : Nat) (p : Page) : Bool :=
  if n = 64 then !(schemeOf p == 2 && treeFails s sec) else sectorOk s sec p

/-- A write within one sector at its home: a whole sector replaces it, less is merged after a check (R285). -/
def homeWrite (s : State) (idx : Nat) (bs : List Byte) (p : Page) : HomeRes Unit :=
  match homeReady s (idx / 64) with
  | some s => .wait s
  | none =>
    let s := { s with sec := { s.sec with touched := true } }
    if writeOk s (idx / 64) bs.length p then
      .ok () (storeSector (if bs.length = 64 then s else checkedSector s (idx / 64) p) idx bs p)
    else .fault 0x20 (reportBad s (idx / 64) p)

/-- A read-modify-write of `n` bytes of one sector as one step (R103). -/
def homeRmw (s : State) (idx n : Nat) (p : Page) (f : List Byte → List Byte) : HomeRes (List Byte) :=
  match homeRead s idx n p with
  | .wait s => .wait s
  | .fault c s => .fault c s
  | .ok old s => .ok old (storeSector s idx (f old) p)

/-! ### Scratchpad (R94, R469) -/

/-- The words of the scratchpad that bytes touch. -/
def wordsOf (off n : Nat) : List Nat := if n = 0 then [] else (List.range ((off + n - 1) / 4 - off / 4 + 1)).map (off / 4 + ·)

/-- The offset of the first byte read of an uncorrectable word among those a read touches (R469). -/
def spadBadAt (st : Store) (off n : Nat) : Option Nat :=
  (wordsOf off n).find? (fun w => st.spadBad.contains w) |>.map fun w => max off (4 * w)

/-- Bytes read from a scratchpad. -/
def spadRead (st : Store) (off n : Nat) : List Byte := memRead st.spad off n

/-- Bytes written to a scratchpad: a word all of whose bytes are written loses its error; of those written in part the correctable ones are
corrected, the others keep it (R469). -/
def spadWrite (st : Store) (off : Nat) (bs : List Byte) : Store :=
  { st with
    spad := memWrite st.spad off bs,
    spadBad := st.spadBad.filter fun w => !(off ≤ 4 * w && 4 * w + 4 ≤ off + bs.length),
    spadSoft := st.spadSoft.filter fun w => !(off < 4 * w + 4 && 4 * w < off + bs.length) }

/-- The words with a correctable error that reads of runs of bytes touch (R469). -/
def softRead (st : Store) (rs : List (Nat × Nat)) : Nat :=
  (st.spadSoft.filter fun w => rs.any fun r => decide (r.1 < 4 * w + 4 ∧ 4 * w < r.1 + r.2)).length

/-- The words with a correctable error that writes of runs of bytes cover in part (R469). -/
def softWrite (st : Store) (rs : List (Nat × Nat)) : Nat :=
  (st.spadSoft.filter fun w =>
    rs.any fun r => decide (r.1 < 4 * w + 4 ∧ 4 * w < r.1 + r.2) && !decide (r.1 ≤ 4 * w ∧ 4 * w + 4 ≤ r.1 + r.2)).length

/-- Corrections in the scratchpad of a tile, counted (R468, R469). -/
def countSoft (s : State) (t : TileId) (n : Nat) : State := if n = 0 then s else s.countEvent (dieOf t).val 0x03 (t.val % 16) n

/-! ### Atomic operations (R99-R102) -/

/-- The .amax operation (R100). -/
def amaxOp (m c : Nat) : Nat :=
  if c / 2 ^ 32 > m / 2 ^ 32 ∨ (c / 2 ^ 32 = m / 2 ^ 32 ∧ c % 2 ^ 32 < m % 2 ^ 32) then c else m

/-- The .arrive operation (R101). -/
def arriveOp (m : Nat) : Nat :=
  if m % 2 ^ 32 ≥ 2 then m - 1
  else
    let reload := m / 2 ^ 32 % 2 ^ 31
    (1 - m / 2 ^ 63 % 2) * 2 ^ 63 + reload * 2 ^ 32 + reload

end Sys2Proof.Machine
end

