-- ==== Sys2Proof/Machine/Layout.lean ====
section
/-! DEFINITION. The geometry of transfers (R309-R315, R321-R325): layout records, the places of elements, the pieces of an operation in
logical order, active ranges with their watermarks, and index lists. A piece is all of an operation's elements and scales within one
64-byte sector (R309), or within one window for a permuting maquette (R345); pieces stand in the order of their first elements (log entry 15). -/

namespace Sys2Proof.Machine

/-- The type of a code (R46). -/
def typeOfCode : Nat → ElemType
  | 0 => .s4 | 1 => .z4 | 2 => .s8 | 3 => .z8 | 4 => .s16 | 5 => .z16 | 6 => .s32 | 7 => .z32
  | 8 => .e2m1 | 9 => .e4m3 | 10 => .e5m2 | 11 => .h16 | 12 => .bf16 | 13 => .f32 | _ => .e8m0

/-- A layout record (R311). -/
structure Lay where
  version : Nat
  fmt : Nat
  tol : Bool
  bsc : Bool
  ndim : Nat
  sf : Nat
  same : Bool
  base : Nat
  dims : List Nat
  strides : List Int
  maq : Nat
  scoff : Int
  deriving DecidableEq, Repr

/-- A signed 32-bit field. -/
def sfield (bs : List Byte) (off : Nat) : Int := toSigned 32 (fieldAt bs off 4)

/-- Reading a layout record (R311); dimension 0's stride stands as 0. -/
def layOf (bs : List Byte) : Lay :=
  { version := fieldAt bs 0 2, fmt := fieldAt bs 2 1, tol := fieldAt bs 3 1 % 2 == 1, bsc := fieldAt bs 3 1 / 2 % 2 == 1,
    ndim := fieldAt bs 4 1, sf := if fieldAt bs 5 1 = 0xF then fieldAt bs 2 1 else fieldAt bs 5 1, same := fieldAt bs 5 1 == 0xF,
    base := fieldAt bs 8 8, dims := [0, 1, 2, 3, 4, 5].map fun d => fieldAt bs (0x10 + 2 * d) 2 + 1,
    strides := 0 :: [0, 1, 2, 3, 4].map fun d => sfield bs (0x1C + 4 * d),
    maq := fieldAt bs 0x30 8, scoff := sfield bs 0x38 }

/-- Memory element width of a record. -/
def Lay.wm (l : Lay) : Nat := (typeOfCode l.fmt).width
/-- Scratchpad element width of a record (R313). -/
def Lay.ws (l : Lay) : Nat := (typeOfCode l.sf).width
/-- Whether block scales are delivered to and from the scratchpad (R313): with bsc = 1 and sfmt = 0xF. -/
def Lay.delivered (l : Lay) : Bool := l.bsc && l.same
/-- The number of elements (R313). -/
def Lay.count (l : Lay) : Nat := (l.dims.take l.ndim).foldl (· * ·) 1
/-- round64 (R313). -/
def round64 (x : Nat) : Nat := (x + 63) / 64 * 64
/-- The elements of one slice of the outermost dimension (R324). -/
def Lay.sliceCount (l : Lay) : Nat := (l.dims.take (l.ndim - 1)).foldl (· * ·) 1
/-- The size of the outermost dimension (R324). -/
def Lay.outer (l : Lay) : Nat := l.dims.getD (l.ndim - 1) 1

/-- The byte size that bases and strides are multiples of (R312). -/
def Lay.unit (l : Lay) : Nat := max 1 (l.wm / 8)

/-- A field rule of R312: the offset it reports, and whether it holds. -/
abbrev RecCheck := Nat × Bool

/-- A rule of R312: the offset it reports, and whether it holds. -/
def recCheck (off : Nat) (good : Bool) : RecCheck := (off, good)

/-- The rules of R312 in the order of their offsets; a rule that ties fields stands at the last of them. -/
def layChecks (bs : List Byte) (dred : Bool) : List RecCheck :=
  let l := layOf bs
  let sf := fieldAt bs 5 1
  let nd := l.ndim
  [recCheck 0x00 (l.version ≠ 0),
   recCheck 0x02 (l.fmt ≤ 0xE),
   recCheck 0x03 (fieldAt bs 3 1 / 4 == 0 &&
     (!l.bsc || (8 ≤ l.fmt && l.fmt ≤ 10)) && (l.fmt != 8 || l.bsc) && (!l.tol || (8 ≤ l.fmt && l.fmt ≤ 13))),
   recCheck 0x04 (1 ≤ nd && nd ≤ 6),
   recCheck 0x05 (sf ≤ 0xF),
   recCheck 0x06 (fieldAt bs 6 1 == 0), recCheck 0x07 (fieldAt bs 7 1 == 0),
   recCheck 0x08 (l.base % l.unit == 0), recCheck 0x0F (l.base / 2 ^ 57 == 0),
   recCheck 0x10 ((l.wm != 4 || l.dims.getD 0 1 % 2 == 0) && (!l.bsc || l.dims.getD 0 1 % 32 == 0))] ++
  [1, 2, 3, 4, 5].map (fun d => recCheck (0x10 + 2 * d) (d < nd || fieldAt bs (0x10 + 2 * d) 2 == 0)) ++
  [1, 2, 3, 4, 5].map (fun d =>
    recCheck (0x1C + 4 * (d - 1)) (if d < nd then l.strides.getD d 0 % l.unit == 0 else fieldAt bs (0x1C + 4 * (d - 1)) 4 == 0)) ++
  [recCheck 0x30 (l.maq % 64 == 0 && (sf == 0xF || l.maq != 0) && (!dred || l.maq != 0)), recCheck 0x37 (l.maq / 2 ^ 57 == 0)]

/-- The first failed rule: its offset. -/
def firstBad : List RecCheck → Option Nat
  | [] => none
  | (o, g) :: r => if g then firstBad r else some o

/-- The field check of a layout record (R312). -/
def layBad (bs : List Byte) (dred : Bool) : Option Nat := firstBad (layChecks bs dred)

/-- An element of an operation: its memory bit address, its place in bits from the start of the scratchpad range, and its logical number. -/
structure Elem where
  bit : Nat
  sp : Nat
  l : Nat
  deriving DecidableEq, Repr

/-- The indices of a logical number (R313). -/
def indices : List Nat → Nat → List Nat
  | [], _ => []
  | s :: r, n => n % s :: indices r (n / s)

/-- The byte address of an index vector but for dimension 0, modulo 2^64 (R313). -/
def strided (base : Nat) : List Nat → List Int → Int
  | i :: is, st :: sts => (i : Int) * st + strided base is sts
  | _, _ => base

/-- The memory bit address of element `n` of a record (R313). -/
def Lay.bitOf (l : Lay) (n : Nat) : Nat :=
  let is := indices (l.dims.take l.ndim) n
  wrapTo 64 (strided l.base is l.strides) * 8 + is.headD 0 * l.wm

/-- The memory byte address of the scale of a block (R313). -/
def Lay.scaleAddr (l : Lay) (n : Nat) : Nat := wrapTo 64 ((l.base : Int) + l.scoff + (n / 32 : Nat))

/-- The outer-slice elements: element `k` of slice `j`, whose outer index is `idx` (R324). -/
def Lay.sliceElem (l : Lay) (j idx k : Nat) : Elem :=
  let n := idx * l.sliceCount + k
  ⟨l.bitOf n, (j * l.sliceCount + k) * l.ws, n⟩

/-- The elements of slice `j`. -/
def Lay.slice (l : Lay) (j idx : Nat) : List Elem := (List.range l.sliceCount).map (l.sliceElem j idx)

/-- The elements of a whole record in logical order (R309). -/
def Lay.elems (l : Lay) : List Elem := (List.range l.count).map fun n => ⟨l.bitOf n, n * l.ws, n⟩

/-- The scale bytes of a whole record, after its data (R313). -/
def Lay.scales (l : Lay) : List Elem :=
  (List.range (l.count / 32)).map fun b => ⟨l.scaleAddr (32 * b) * 8, (round64 (l.count * l.ws / 8) + b) * 8, 32 * b⟩

/-- The scale bytes of slice `j` of `cnt` (R324). -/
def Lay.sliceScales (l : Lay) (cnt j idx : Nat) : List Elem :=
  (List.range (l.sliceCount / 32)).map fun b =>
    ⟨l.scaleAddr (idx * l.sliceCount + 32 * b) * 8,
      (round64 (cnt * l.sliceCount * l.ws / 8) + j * l.sliceCount / 32 + b) * 8, idx * l.sliceCount + 32 * b⟩

/-- A piece: its data elements with their memory and scratchpad widths, the block scales that lie in its sector, or the fault that stops the
operation there (an index of R324, an unreadable list word). -/
structure Piece where
  els : List Elem
  mw : Nat
  sw : Nat
  scs : List Elem
  stop : Option OpFault
  deriving DecidableEq, Repr

/-- An element, and whether it is a block scale. -/
abbrev Tagged := Bool × Elem

/-- Whether two elements belong to one piece: they lie in one sector, or, both data of a permuting maquette, in one window of `512 * mw` bits. -/
def sameUnit (perm : Bool) (mw : Nat) (a b : Tagged) : Bool :=
  a.2.bit / 512 == b.2.bit / 512 || (perm && !a.1 && !b.1 && a.2.bit / (512 * mw) == b.2.bit / (512 * mw))

/-- Puts an element before the groups of those after it: the groups it belongs with join it and come first. -/
def joinUnit (same : Tagged → Tagged → Bool) (e : Tagged) (gs : List (List Tagged)) : List (List Tagged) :=
  let mine := fun (r : List Tagged) => r.any (same e)
  (e :: (gs.filter mine).flatten) :: gs.filter fun r => !mine r

/-- The elements of each piece, in the order of their first elements. -/
def groupsOf (same : Tagged → Tagged → Bool) (es : List Tagged) : List (List Tagged) := es.foldr (joinUnit same) []

/-- The piece of some elements. -/
def pieceOfEls (mw sw : Nat) (r : List Tagged) : Piece :=
  ⟨(r.filter fun e => !e.1).map (·.2), mw, sw, (r.filter fun e => e.1).map (·.2), none⟩

/-- The pieces of data elements and block scales. -/
def piecesOf (mw sw : Nat) (perm : Bool) (es scs : List Elem) : List Piece :=
  (groupsOf (sameUnit perm mw) (es.map (Prod.mk false) ++ scs.map (Prod.mk true))).map (pieceOfEls mw sw)

/-- A piece that only stops its operation. -/
def stopPiece (sp : Nat) (f : OpFault) : Piece := ⟨[⟨0, sp, 0⟩], 8, 8, [], some f⟩

/-- The list entries of an index-list operation (R324): each index, or none for an uncorrectable word. -/
def listIdx (st : Store) (list cnt : Nat) : List (Option Nat) :=
  (List.range cnt).map fun j => if st.spadBad.contains (list / 4 + j) then none else some (leNat (memRead st.spad (list + 4 * j) 4))

/-- The elements of slices in list order up to the first index that stops the operation, the slices with their indices, and that stop
(R324; the AKIND and ADDR of INDEX: log entry 50). -/
def sliceEls (l : Lay) (ch list : Nat) : Nat → List (Option Nat) → List Elem × List (Nat × Nat) × List Piece
  | _, [] => ([], [], [])
  | j, none :: _ =>
    ([], [], [stopPiece (j * l.sliceCount * l.ws) ⟨0x20, BitVec.ofNat 32 (list + 4 * j), 2, BitVec.ofNat 64 (list + 4 * j)⟩])
  | j, some i :: r =>
    if l.outer ≤ i then ([], [], [stopPiece (j * l.sliceCount * l.ws) ⟨0x19, BitVec.ofNat 32 (j * 65536 + 5 * 256 + ch), 1, 0⟩])
    else
      let (es, ok, stop) := sliceEls l ch list (j + 1) r
      (l.slice j i ++ es, (j, i) :: ok, stop)

/-- Bytes of a linear operation as elements (R325): byte `i` at va + i. -/
def linElems (va len : Nat) : List Elem := (List.range len).map fun i => ⟨(va + i) * 8, i * 8, i⟩

/-- What an operation moves. -/
inductive XKind where
  | tensor (x : RecXfer) | slices (x : ListXfer) | linear (x : LinXfer) | nodata
  deriving DecidableEq, Repr

/-- The operand form of a transfer instruction (R322). -/
def xkind : Instr → XKind
  | .dld x _ | .dst x _ _ | .dred x _ _ => .tensor x
  | .dldx x _ | .dstx x _ _ => .slices x
  | .dcpy x _ | .rget x _ | .dstl x _ | .rput x _ _ | .dfill x _ => .linear x
  | _ => .nodata

/-- Whether an operation writes the scratchpad. -/
def inbound : Instr → Bool
  | .dld _ _ | .dldx _ _ | .dcpy _ _ | .rget _ _ => true
  | _ => false

/-- Whether the operation's scratchpad side is a range (R315): DFILL, RFLAG and DPF have none. -/
def hasRange : Instr → Bool
  | .dfill _ _ | .rflag _ _ _ _ _ _ | .dpf _ _ _ _ _ => false
  | _ => true

/-- The record of an operation. -/
def XferOp.lay (o : XferOp) : Lay := layOf o.layout

/-- Whether the maquette has a permutation point (R345). -/
def XferOp.perm (o : XferOp) : Bool := o.maq ≠ [] && (fieldAt o.maq 0x28 4 != 0 || fieldAt o.maq 0x2C 4 != 0)

/-- The first global byte of a linear operation (R325). -/
def XferOp.va (o : XferOp) (imm : BitVec 32) : Nat := (o.info.ra + imm.signExtend 64).toNat

/-- Whether the operation has a layout record. -/
def hasRecord (i : Instr) : Bool := match xkind i with | .tensor _ | .slices _ => true | _ => false

/-- Whether a DRED: it combines (R323). -/
def isDred : Instr → Bool
  | .dred _ _ _ => true
  | _ => false

/-- The pieces of an operation in logical order (R309). The list of an index-list operation is read from the scratchpad as its lease holds it; one
whose own destination meets its list reads what stands there then (log entry 15). A DRED leaves the memory's scales as they are (R344). -/
def XferOp.pieces (st : Store) (o : XferOp) : List Piece :=
  match xkind o.inst with
  | .tensor _ =>
    let l := o.lay
    piecesOf l.wm l.ws o.perm l.elems (if l.delivered && !isDred o.inst then l.scales else [])
  | .slices x =>
    let l := o.lay
    let (es, ok, stop) := sliceEls l o.ch.val o.info.rc.toNat 0 (listIdx st o.info.rc.toNat x.count.toNat)
    piecesOf l.wm l.ws o.perm es
      (if l.delivered && stop.isEmpty then ok.flatMap fun ji => l.sliceScales x.count.toNat ji.1 ji.2 else []) ++ stop
  | .linear x => piecesOf 8 8 false (linElems (o.va x.imm) o.info.rc.toNat) []
  | .nodata => []

/-- The data bytes of an operation's scratchpad range, without the scales (R313, R324, R325). -/
def XferOp.dataLen (o : XferOp) : Nat :=
  match xkind o.inst with
  | .tensor _ => o.lay.count * o.lay.ws / 8
  | .slices x => x.count.toNat * o.lay.sliceCount * o.lay.ws / 8
  | .linear _ => o.info.rc.toNat
  | .nodata => 0

/-- The bytes of an operation's scratchpad range (R313, R324, R325). -/
def XferOp.rangeLen (o : XferOp) : Nat :=
  let blocks := match xkind o.inst with
    | .tensor _ => o.lay.count / 32
    | .slices x => x.count.toNat * o.lay.sliceCount / 32
    | _ => 0
  if hasRecord o.inst && o.lay.delivered then round64 o.dataLen + blocks else o.dataLen

/-- The scratchpad offset of an operation's range. -/
def XferOp.off (o : XferOp) : Nat := o.info.rb.toNat

/-- The first element of a piece. -/
def Piece.first (p : Piece) : Elem := (p.els ++ p.scs).headD ⟨0, 0, 0⟩
/-- The relative byte of the scratchpad that a piece's first element lies in. -/
def Piece.lo (p : Piece) : Nat := p.first.sp / 8
/-- The lowest memory byte of a piece. -/
def Piece.va (p : Piece) : Nat := (p.els ++ p.scs).foldl (fun a e => min a (e.bit / 8)) (p.first.bit / 8)
/-- The memory bytes from a piece's lowest to its highest. -/
def Piece.memBytes (p : Piece) : Nat :=
  p.scs.foldl (fun a e => max a (e.bit / 8 + 1)) (p.els.foldl (fun a e => max a ((e.bit + p.mw + 7) / 8)) 0) - p.va

/-- Puts an element's bits before the scratchpad runs of those after it. -/
def joinSpan (w : Nat) (e : Elem) : List (Nat × Nat) → List (Nat × Nat)
  | (lo, hi) :: r => if e.sp + w = lo then (e.sp, hi) :: r else (e.sp, e.sp + w) :: (lo, hi) :: r
  | [] => [(e.sp, e.sp + w)]
/-- The runs of bits that elements touch in the scratchpad, as [lo, hi). -/
def spanBits (w : Nat) (es : List Elem) : List (Nat × Nat) := es.foldr (joinSpan w) []
/-- The runs of bytes that a piece touches in the scratchpad, as (relative byte, bytes). -/
def Piece.spans (p : Piece) : List (Nat × Nat) := (spanBits p.sw p.els ++ spanBits 8 p.scs).map fun b => (b.1 / 8, (b.2 + 7) / 8 - b.1 / 8)

/-! ### Elements by their places in memory (R336) -/

/-- Puts an element before those of higher places and, in one place, of higher logical numbers if `ranked`, or later in the list. -/
def insertPlace (ranked : Bool) (e : Elem) : List Elem → List Elem
  | [] => [e]
  | f :: r => if e.bit < f.bit ∨ (e.bit = f.bit ∧ (!ranked ∨ e.l ≤ f.l)) then e :: f :: r else f :: insertPlace ranked e r

/-- Joins an element with those of its place. -/
def joinPlace (e : Elem) : List (List Elem) → List (List Elem)
  | (f :: r) :: rs => if e.bit = f.bit then (e :: f :: r) :: rs else [e] :: (f :: r) :: rs
  | rs => [e] :: rs

/-- Elements by ascending place (R336): those of one place in ascending logical number through an array, in logical order without one
(R324). -/
def placesOf (ranked : Bool) (es : List Elem) : List (List Elem) := (es.foldr (insertPlace ranked) []).foldr joinPlace []
/-- The data elements of a piece by ascending place. -/
def Piece.places (ranked : Bool) (p : Piece) : List (List Elem) := placesOf ranked p.els
/-- The first element of each place: what a read takes. -/
def Piece.firsts (ranked : Bool) (p : Piece) : List Elem := (p.places ranked).filterMap List.head?
/-- The last element of each place: what a write leaves. -/
def Piece.lasts (ranked : Bool) (p : Piece) : List Elem := (p.places ranked).filterMap List.getLast?
/-- The elements of each pass of a combine (R336). -/
def Piece.passes (p : Piece) : List (List Elem) :=
  let ps := p.places true
  (List.range (ps.foldl (fun a r => max a r.length) 0)).map fun k => ps.filterMap fun r => r[k]?

/-- Puts an element before the runs of those after it: it joins the first run when it lies just below it and in the same unit of `g` bits. -/
def joinRun (w g : Nat) (e : Elem) : List (List Elem) → List (List Elem)
  | (f :: r) :: rs => if e.bit + w = f.bit ∧ e.bit / g = f.bit / g then (e :: f :: r) :: rs else [e] :: (f :: r) :: rs
  | rs => [e] :: rs

/-- The runs of elements of adjacent places within units of `g` bits. -/
def runsOf (w g : Nat) (es : List Elem) : List (List Elem) := es.foldr (joinRun w g) []

/-- A list in parts of `n`. -/
def chunk {α : Type} (n : Nat) : Nat → List α → List (List α)
  | 0, _ => []
  | _, [] => []
  | k + 1, es => es.take n :: chunk n k (es.drop n)

/-- What one packet carries of a piece: the lowest byte, the bytes, and, through a maquette, the elements; `raw` when it carries plain bytes of
memory. -/
structure Part where
  va : Nat
  bytes : Nat
  els : List Elem
  raw : Bool
  deriving DecidableEq, Repr

/-- The part that a run of elements of adjacent places makes. -/
def partOf (mw : Nat) (es : List Elem) : Part :=
  let b := (es.headD ⟨0, 0, 0⟩).bit
  ⟨b / 8, (b % 8 + es.length * mw + 7) / 8, es, false⟩

/-- The parts of runs, each of at most 256 bytes in memory and in the scratchpad (R400). -/
def cutParts (mw sw : Nat) (rs : List (List Elem)) : List Part :=
  rs.flatMap fun r => (chunk (2048 / max 1 (max mw sw)) r.length r).map (partOf mw)

/-- Puts the bits [lo, hi) among disjoint ascending runs, joined with those that they touch. -/
def joinBits (b : Nat × Nat) : List (Nat × Nat) → List (Nat × Nat)
  | [] => [b]
  | r :: rs => if b.2 < r.1 then b :: r :: rs else if r.2 < b.1 then r :: joinBits b rs else joinBits (min b.1 r.1, max b.2 r.2) rs

/-- The runs of memory bits that data elements and scales fill, ascending. -/
def memRuns (mw : Nat) (es scs : List Elem) : List (Nat × Nat) :=
  scs.foldl (fun a e => joinBits (e.bit, e.bit + 8) a) (es.foldl (fun a e => joinBits (e.bit, e.bit + mw) a) [])

/-- The plain parts of runs of memory bits. -/
def rawParts (rs : List (Nat × Nat)) : List Part := rs.map fun b => ⟨b.1 / 8, (b.2 + 7) / 8 - b.1 / 8, [], true⟩

/-- One plain part over runs of memory bits. -/
def rawSpan (rs : List (Nat × Nat)) : List Part :=
  match rs, rs.getLast? with
  | b :: _, some e => [⟨b.1 / 8, (e.2 + 7) / 8 - b.1 / 8, [], true⟩]
  | _, _ => []

/-- The parts in which a piece travels to another module or the host (R400, R402): one span for a plain read; the runs of bytes for a write, as a
WRITE has one address and no byte enables; through a maquette the runs of each pass, with the scales plain. -/
def XferOp.parts (o : XferOp) (p : Piece) : List Part :=
  let w := 512 * (if o.perm then p.mw else 1)
  if o.maq = [] then (if inbound o.inst then rawSpan else rawParts) (memRuns p.mw p.els p.scs)
  else if inbound o.inst then cutParts p.mw p.sw (runsOf p.mw w (p.firsts true)) ++ rawSpan (memRuns p.mw [] p.scs)
  else if isDred o.inst then p.passes.flatMap fun es => cutParts p.mw p.sw (runsOf p.mw w es)
  else cutParts p.mw p.sw (runsOf p.mw w (p.lasts true)) ++ rawParts (memRuns p.mw [] p.scs)

/-! ### Scale codes in memory (R344) -/

/-- The blocks of a piece's data. -/
def Piece.blocks (p : Piece) : List Nat := (p.els.map fun e => e.l / 32).eraseDups

/-- Scale bytes of adjacent addresses in one sector: the first address and the blocks. -/
abbrev ScaleRun := Nat × List Nat

/-- Puts a block before the runs of those after it. -/
def joinScale (l : Lay) (b : Nat) : List ScaleRun → List ScaleRun
  | (a, bs) :: r =>
    let x := l.scaleAddr (32 * b)
    if x + 1 = a ∧ x / 64 = a / 64 then (x, b :: bs) :: r else (x, [b]) :: (a, bs) :: r
  | [] => [(l.scaleAddr (32 * b), [b])]

/-- The scale bytes in memory of a piece's blocks, by runs within sectors. -/
def XferOp.scaleRuns (o : XferOp) (p : Piece) : List ScaleRun := p.blocks.foldr (joinScale o.lay) []

/-! The numbers of a piece's accesses in an operation's lists: its data parts, a run of scale bytes, the codes to be written there, the data as
performed, the results that wait for the result ATOM, and that ATOM. -/

/-- Data part `i`. -/
def partData (i : Nat) : Nat := 4 * i
/-- The access to run `j` of scale bytes. -/
def partScale (j : Nat) : Nat := 4 * j + 1
/-- The scale codes that wait to be written to run `j`. -/
def partCode (j : Nat) : Nat := 4 * j + 2
/-- The result ATOM (R346). -/
def partRed : Nat := 3
/-- Results that wait for it. -/
def partVals : Nat := 7
/-- That the data is performed at a home of this module. -/
def partDone : Nat := 11

/-- The flag's own access. -/
def partFlag : Nat := 15
/-- The read of part `i` of the maquette. -/
def partMaq (i : Nat) : Nat := 4 * i + 19
/-- Whether a number is one of those. -/
def isMaqPart (n : Nat) : Bool := n % 4 == 3 && decide (19 ≤ n)

/-- The answer to an access of a piece. -/
def XferOp.ans (o : XferOp) (k part : Nat) : Option (List Byte) := (o.arrived.find? fun a => a.1 == k && a.2.1 == part).map (·.2.2)
/-- Whether an access of a piece is under way. -/
def XferOp.sent (o : XferOp) (k part : Nat) : Bool := o.out.contains (k, part)
/-- Whether an access of a piece is answered. -/
def XferOp.has (o : XferOp) (k part : Nat) : Bool := (o.ans k part).isSome

/-- Whether piece `i` has been performed: in this run, or in the prefix of an earlier one (R321). -/
def XferOp.isDone (o : XferOp) (i : Nat) (p : Piece) : Bool := o.done.contains i || p.first.sp < 8 * o.prefixBytes

/-- Whether the scratchpad side of a piece is over: it is performed, or, outbound, all of it is read and sent (R315). -/
def XferOp.passed (o : XferOp) (i : Nat) (p : Piece) : Bool :=
  o.isDone i p ||
  (!inbound o.inst &&
    (o.has i partDone || (o.parts p).zipIdx.all fun q => o.sent i (partData q.2) || o.has i (partData q.2)))

/-- The first piece, from number `i` on, of which a test does not hold. -/
def firstNot (f : Nat → Piece → Bool) : Nat → List Piece → Option (Nat × Piece)
  | _, [] => none
  | i, p :: r => if f i p then firstNot f (i + 1) r else some (i, p)

/-- The first piece not yet performed, from number `i` on. -/
def firstUndone (o : XferOp) : Nat → List Piece → Option (Nat × Piece) := firstNot o.isDone

/-- The relative byte at which a piece begins, or the whole range. -/
def XferOp.upTo (o : XferOp) (p : Option (Nat × Piece)) : Nat :=
  match p with
  | some (_, p) => max p.lo o.prefixBytes
  | none => o.rangeLen

/-- The performed prefix in bytes (R321). -/
def XferOp.progress (st : Store) (o : XferOp) : Nat := if o.started then o.upTo (firstUndone o 0 (o.pieces st)) else o.prefixBytes

/-- The watermark of an operation with a range (R315): the lowest byte not yet written, or not yet read; of one that a fault has stopped, its
prefix (R321). -/
def XferOp.wm (st : Store) (o : XferOp) : Nat :=
  o.off + (if o.started && o.info.fault.isNone then o.upTo (firstNot o.passed 0 (o.pieces st)) else o.progress st)

/-- Whether an operation has data pieces to perform still. -/
def XferOp.dataLeft (st : Store) (o : XferOp) : Bool := (firstUndone o 0 (o.pieces st)).isSome

/-- A byte range [lo, hi) held against other accesses (R315): `inb` for an inbound operation or a MOUT. -/
structure Active where
  lo : Nat
  hi : Nat
  wm : Nat
  inb : Bool
  order : Nat
  deriving DecidableEq, Repr

/-- The active range of a transfer (R315). -/
def XferOp.active (st : Store) (o : XferOp) : Active :=
  ⟨o.off, if hasRange o.inst then o.off + o.rangeLen else o.off, o.wm st, inbound o.inst, o.info.order⟩

/-- Bytes of a MOUT row (R235). -/
def moutRowBytes (t : ElemType) : Nat := 32 * t.width

/-- The destination type of a MOUT. -/
def moutType : Instr → ElemType
  | .mout td _ _ _ _ _ _ _ => td
  | _ => .f32

/-- The tile a MOUT reads. -/
def moutTile : Instr → Nat
  | .mout _ _ _ d _ _ _ _ => d.val
  | _ => 0

/-- The offset of the first row of a MOUT (R235). -/
def MoutOp.off (o : MoutOp) : Nat :=
  match o.inst with
  | .mout _ _ _ _ _ _ imm _ => (o.info.ra + imm.signExtend 64).toNat
  | _ => 0

/-- The row stride of a MOUT. -/
def MoutOp.stride (o : MoutOp) : Nat := o.info.rb.toNat

/-- The active range of a MOUT (R315). -/
def MoutOp.active (o : MoutOp) : Active :=
  ⟨o.off, o.off + 127 * o.stride + moutRowBytes (moutType o.inst), o.off + o.rows * o.stride, true, o.info.order⟩

/-! ### Nest hulls (R226) -/

/-- A field of a nest register. -/
def nestField (r : Vector Word64 20) (n : Fin 20) (lo w : Nat) : Nat := (r[n.val]'n.isLt).toNat / 2 ^ lo % 2 ^ w

/-- A nest description read from its registers (R220). -/
structure NestCfg where
  afmt : Nat
  bfmt : Nat
  asrc : Bool
  sca : Bool
  scb : Bool
  zf : Bool
  rnd : Nat
  levels : Nat
  kstep : Nat
  accbase : Nat
  abase : Nat
  bbase : Nat
  aks : Nat
  bks : Nat
  sa : Nat
  sb : Nat
  deriving DecidableEq, Repr

/-- The fields of nest registers 0-4 (R220). -/
def nestCfg (r : Vector Word64 20) : NestCfg :=
  { afmt := nestField r 0 0 4, bfmt := nestField r 0 4 4, asrc := nestField r 0 8 1 == 1, sca := nestField r 0 9 1 == 1,
    scb := nestField r 0 10 1 == 1, zf := nestField r 0 11 1 == 1, rnd := nestField r 0 12 3, levels := nestField r 0 16 3 + 1,
    kstep := nestField r 0 19 9, accbase := nestField r 0 28 3, abase := nestField r 1 0 64, bbase := nestField r 2 0 64,
    aks := nestField r 3 0 32, bks := nestField r 3 32 32, sa := nestField r 4 0 32, sb := nestField r 4 32 32 }

/-- One level of a nest (R220). -/
structure NestLev where
  count : Nat
  da : Int
  db : Int
  dacc : Int
  dsa : Int
  dsb : Int
  deriving DecidableEq, Repr

/-- Level `n` of a nest, as written. -/
def nestLev (r : Vector Word64 20) (n : Fin 6) : NestLev :=
  let i : Fin 20 := ⟨8 + 2 * n.val, by omega⟩
  let v : Fin 20 := ⟨9 + 2 * n.val, by omega⟩
  { count := nestField r v 0 16, da := toSigned 32 (nestField r i 0 32), db := toSigned 32 (nestField r i 32 32),
    dacc := toSigned 4 (nestField r v 16 4), dsa := 64 * toSigned 16 (nestField r v 32 16), dsb := 64 * toSigned 16 (nestField r v 48 16) }

/-- The levels in use (R220). -/
def nestLevs (r : Vector Word64 20) : List NestLev :=
  ([0, 1, 2, 3, 4, 5] : List (Fin 6)).map (nestLev r) |>.take (nestCfg r).levels

/-- The lowest and highest sum of a linear address over index ranges 0 to c - 1 (R226). -/
def corners (base : Int) : List (Int × Nat) → Int × Int
  | [] => (base, base)
  | (d, c) :: r =>
    let (lo, hi) := corners base r
    let x := d * ((c : Int) - 1)
    (lo + min 0 x, hi + max 0 x)

/-- An operand hull as [lowest byte, highest byte] (R226). -/
def hullOf (base : Int) (ds : List (Int × Nat)) (bytes : Nat) : Int × Int :=
  let (lo, hi) := corners base ds
  (lo, hi + bytes - 1)

/-- The operand hulls of a nest in the order A, B, A scales, B scales (R226, R234). -/
def nestHulls (r : Vector Word64 20) : List (Int × Int) :=
  let c := nestCfg r
  let ls := nestLevs r
  let aw := (typeOfCode c.afmt).width
  let bw := (typeOfCode c.bfmt).width
  let ks := c.kstep
  (if c.asrc then [] else [hullOf c.abase ((c.aks, ks) :: ls.map fun l => (l.da, l.count)) (16 * aw)]) ++
  [hullOf c.bbase ((c.bks, ks) :: ls.map fun l => (l.db, l.count)) (32 * bw)] ++
  (if c.sca then [hullOf c.sa ((128, ks / 32) :: ls.map fun l => (l.dsa, l.count)) 128] else []) ++
  (if c.scb then [hullOf c.sb ((256, ks / 32) :: ls.map fun l => (l.dsb, l.count)) 256] else [])

/-- A byte range that a lease holds (R226, R315). -/
structure Lease where
  lo : Int
  hi : Int
  order : Nat
  deriving DecidableEq, Repr

/-- The leases of a nest. -/
def NestOp.leases (n : NestOp) : List Lease := (nestHulls n.regs).map fun h => ⟨h.1, h.2 + 1, n.info.order⟩

/-- The lease of an index list (R315). -/
def XferOp.leases (o : XferOp) : List Lease :=
  match xkind o.inst with
  | .slices x => [⟨(o.info.rc.toNat : Int), (o.info.rc.toNat + 4 * x.count.toNat : Nat), o.info.order⟩]
  | _ => []

/-- The operations on the channels of a tile. -/
def Tile.xfers (x : Tile) : List XferOp :=
  x.eng.chLoad.toList.flatMap (·.ops) ++ x.eng.chStore.toList.flatMap (·.ops)

/-- The unretired nests of a tile. -/
def Tile.nests (x : Tile) : List NestOp := x.eng.running.toList ++ x.eng.pending.toList

/-- Every active range of a tile, with those of the operations the last drain recorded (R365). -/
def Tile.actives (x : Tile) : List Active :=
  (x.xfers ++ x.eng.frozenX).map (XferOp.active x.store) ++ (x.eng.mout.toList ++ x.eng.frozenM).map MoutOp.active

/-- Every lease of a tile, with those of the operations the last drain recorded (R365). -/
def Tile.leases (x : Tile) : List Lease :=
  (x.nests ++ x.eng.frozenN).flatMap NestOp.leases ++ (x.xfers ++ x.eng.frozenX).flatMap XferOp.leases

/-- Whether an active range stalls an access to [off, off + n) by something accepted after it (R316). -/
def Active.blocks (a : Active) (off n : Nat) (write : Bool) : Bool :=
  (a.inb || write) && max off (max a.lo a.wm) < min (off + n) a.hi

/-- Whether a lease covers a byte of [off, off + n). -/
def Lease.covers (l : Lease) (off n : Nat) : Bool := l.lo < (off + n : Int) && (off : Int) < l.hi

/-- Why a scratchpad access stalls. -/
inductive SpadStall where | wm | lease
  deriving DecidableEq, Repr

/-- The stall of an access by operation `order` (none: later than every operation) to [off, off + n), given the active ranges and leases
(R227, R316). A lease never stops the operation that took it. -/
def stallIn (as : List Active) (ls : List Lease) (order : Option Nat) (off n : Nat) (write : Bool) : Option SpadStall :=
  if n = 0 then none
  else if as.any fun a => (match order with | some k => a.order < k | none => true) && a.blocks off n write then some .wm
  else if write && ls.any fun l => order != some l.order && l.covers off n then some .lease
  else none

/-- Whether an access through a window of a tile stalls there (R227, R318): on the ranges of what the tile had accepted when it arrived, with
acceptance numbers below `ord`, and on every lease. -/
def windowStall (x : Tile) (ord off n : Nat) (write : Bool) : Bool :=
  (stallIn x.actives [] (some ord) off n write).isSome || (stallIn [] x.leases none off n write).isSome

/-- The stall of an access at a tile. -/
def spadStall (x : Tile) (order : Option Nat) (off n : Nat) (write : Bool) : Option SpadStall := stallIn x.actives x.leases order off n write

end Sys2Proof.Machine
end

