-- ==== Sys2Proof/Machine/Spad.lean ====
section
/-! DEFINITION. The scratchpad as instructions reach it (R94, R316, R227, R469): the checks in their order, and LD and ST. -/

namespace Sys2Proof.Machine

/-- MEM_UNCORRECTED of a scratchpad word (R218, R469). -/
def spadBadTrap (o : Nat) : Flow :=
  .trap { cause := 0x20, info := BitVec.ofNat 32 (o % 2 ^ 25), akind := 2, addr := BitVec.ofNat 64 o }

/-- The stall of an access of an instruction to [off, off + n) (R227, R316). -/
def spadHeld (s : State) (off n : Nat) (write : Bool) : Bool := (spadStall s.me none off n write).isSome

/-- The checks of a read of [off, off + n) after alignment: range, stall, check bits (R94, R316, R469). -/
def spadReadCheck (s : State) (off n : Nat) : Option Flow :=
  if spadBytes < off + n then some (rangeTrap (BitVec.ofNat 64 off))
  else if spadHeld s off n false then some (.stall .spad)
  else (spadBadAt s.me.store off n).map spadBadTrap

/-- The checks of a write of [off, off + n) after alignment (R94, R316). -/
def spadWriteCheck (s : State) (off n : Nat) : Option Flow :=
  if spadBytes < off + n then some (rangeTrap (BitVec.ofNat 64 off))
  else if spadHeld s off n true then some (.stall .spad)
  else none

/-- The module after the acting tile has read runs of its scratchpad: correctable words are corrected and counted (R469). -/
def State.spadSeen (s : State) (rs : List (Nat × Nat)) : State := countSoft s s.cur.tile (softRead s.me.store rs)

/-- The acting tile after bytes are written to its scratchpad. -/
def State.spadPut (s : State) (off : Nat) (bs : List Byte) : State :=
  countSoft (s.setMe { s.me with store := spadWrite s.me.store off bs }) s.cur.tile (softWrite s.me.store [(off, bs.length)])

/-- Bytes of the acting tile's scratchpad. -/
def State.spadGet (s : State) (off n : Nat) : List Byte := spadRead s.me.store off n

/-- A loaded value extended to 64 bits (R94). -/
def loadExt (signed : Bool) (bs : List Byte) : Word64 := extendTo64 signed (8 * bs.length) (leNat bs)

/-- LD (R93, R94). -/
def execLd (signed : Bool) (w : Width) (d : Fin 32) (m : MemOp) (sy : Sync) (s : State) : Out :=
  run (.ld signed w d m sy)
    (fun s =>
      let off := s.memAddr m
      let n := widthBytes w
      if off.toNat % n ≠ 0 then alignTrap off 2
      else
        match spadReadCheck s off.toNat n with
        | some f => f
        | none => ok ((s.spadSeen [(off.toNat, n)]).writeG d (loadExt signed (s.spadGet off.toNat n)))) s

/-- ST (R93, R94); its retirement is a sink event (R382). -/
def execSt (w : Width) (m : MemOp) (c : GSrc) (sy : Sync) (s : State) : Out :=
  run (.st w m c sy)
    (fun s =>
      let off := s.memAddr m
      let n := widthBytes w
      if off.toNat % n ≠ 0 then alignTrap off 2
      else
        match spadWriteCheck s off.toNat n with
        | some f => f
        | none => ok (s.spadPut off.toNat (leBytes n (s.src c).toNat)).sink) s

end Sys2Proof.Machine
end

