-- ==== Sys2Proof/Machine/VecCore.lean ====
section
/-! DEFINITION. What the vector instructions share (chapters 07 and 08): groups and spans, overlap (R170), masking (R174, R182), rounding and
the stochastic counter (R126, R132), and the element-wise bodies. -/

namespace Sys2Proof.Machine

/-- A vector source for the overlap check: its operand number (1 A, 2 B, 3 C), base and span. -/
structure VSrc where
  op : Nat
  base : Nat
  span : Nat
  deriving DecidableEq, Repr

/-- Whether a source meets a destination in a way that raises REG_OVERLAP (R170): partly, or by coinciding where `coin` is false. -/
def VSrc.clash (v : VSrc) (d ds : Nat) (coin : Bool) : Bool :=
  (v.base < d + ds && d < v.base + v.span) && !(coin && v.base == d && v.span == ds)

/-- REG_OVERLAP for the lowest source operand that clashes (R170). -/
def overlap (d ds : Nat) (coin : Bool) (srcs : List VSrc) : Option Flow :=
  (srcs.find? fun v => v.clash d ds coin).map fun v =>
    .trap { cause := 0x05, info := BitVec.ofNat 32 (v.op * 4096 + v.base * 64 + d) }

/-- The B operand as a source for the overlap check. -/
def vbSrc (n : Nat) : VB → List VSrc
  | .vec r => [⟨2, r.val, n⟩]
  | _ => []

/-- The code of a rounding suffix resolved at issue (R24, R126). -/
def roundMode (s : State) : RoundCode → Nat
  | .rne => 0
  | .rtz => 1
  | .rdn => 2
  | .rup => 3
  | .rna => 4
  | .rsr => 5
  | .dyn => s.regs.round.toNat

/-- The rounding of an instruction, its index still 0 (R132). -/
def State.rnd (s : State) (r : RoundCode) (sat : Bool) : Rnd := ⟨roundMode s r, s.regs.seed, s.regs.srctr, 0, sat⟩

/-- ctl.srctr advanced by one (R132). -/
def State.stepCtr (s : State) : State := s.setRegs { s.regs with srctr := s.regs.srctr + 1 }

/-- ctl.srctr after an instruction that rounds stochastically (R132, R184). -/
def State.drew (s : State) (r : RoundCode) : State := if roundMode s r = 5 then s.stepCtr else s

/-- The elements of a result and the flags of those computed, in order. -/
def collect (f : Nat → FRes) : List Nat → List Nat × FFlags
  | [] => ([], 0)
  | i :: r => ((f i).1 :: (collect f r).1, (f i).2 ||| (collect f r).2)

/-- The elements in a group of `n` registers. -/
def groupLen (w n : Nat) : Nat := n * elemsPerReg w

/-- A group written with computed elements, `f i` for element `i`, and the flags raised (R184). -/
def State.putElems (s : State) (w n : Nat) (d : Fin 64) (f : Nat → FRes) : State :=
  let r := collect f (List.range (groupLen w n))
  (s.setGroup d (packGroup w n r.1)).orFlags r.2

/-- A group written where it is active (R182): other elements keep their value and raise no flag. -/
def State.putActive (s : State) (w n : Nat) (d : Fin 64) (f : Nat → FRes) : State :=
  let old := s.group d n
  let top := s.topMask
  s.putElems w n d fun i => if activeIn top w i then f i else (laneOf old w i, 0)

/-- The body of an integer element-wise entry with sources A and B (R190, R191). -/
def vintBody (o : VBin) (f : Nat → Nat → Nat → Nat) (s : State) : Flow :=
  let n := o.n.size
  let w := o.t.width
  match overlap o.d.val n true (⟨1, o.a.val, n⟩ :: vbSrc n o.b) with
  | some t => t
  | none =>
    let a := s.group o.a n
    let b := s.vbAt w n o.b
    ok (s.putActive w n o.d fun i => (f w (laneOf a w i) (b i) % 2 ^ w, 0))

/-- The body of an integer entry with a third source (R190). -/
def vint3Body (o : VBin) (c : Fin 64) (f : Nat → Nat → Nat → Nat → Nat) (s : State) : Flow :=
  let n := o.n.size
  let w := o.t.width
  match overlap o.d.val n true (⟨1, o.a.val, n⟩ :: vbSrc n o.b ++ [⟨3, c.val, n⟩]) with
  | some t => t
  | none =>
    let a := s.group o.a n
    let b := s.vbAt w n o.b
    let cg := s.group c n
    ok (s.putActive w n o.d fun i => (f w (laneOf a w i) (b i) (laneOf cg w i) % 2 ^ w, 0))

/-- The body of an entry with one vector source of the same width: `f i a`. -/
def vunBody (o : VUn) (f : Nat → Nat → FRes) (s : State) : Flow :=
  let n := o.n.size
  let w := o.t.width
  match overlap o.d.val n true [⟨1, o.a.val, n⟩] with
  | some t => t
  | none =>
    let a := s.group o.a n
    ok (s.putActive w n o.d fun i => f i (laneOf a w i))

/-- The body of a floating entry with sources A and B (R194, R195). -/
def vfBody (o : VBin) (r : RoundCode) (f : ElemType → Rnd → FVal → FVal → FRes) (s : State) : Flow :=
  let n := o.n.size
  let w := o.t.width
  match overlap o.d.val n true (⟨1, o.a.val, n⟩ :: vbSrc n o.b) with
  | some t => t
  | none =>
    let a := s.group o.a n
    let b := s.vbAt w n o.b
    let rd := s.rnd r false
    ok ((s.drew r).putActive w n o.d fun i => f o.t { rd with idx := i } (decodeF o.t (laneOf a w i)) (decodeF o.t (b i)))

/-- The body of a floating entry with one source (R194-R196). -/
def vfunBody (o : VUn) (r : RoundCode) (f : ElemType → Rnd → FVal → FRes) (s : State) : Flow :=
  let rd := s.rnd r false
  vunBody o (fun i a => f o.t { rd with idx := i } (decodeF o.t a)) (s.drew r)

end Sys2Proof.Machine
end

