-- ==== Sys2Proof/Machine/VecInt.lean ====
section
/-! DEFINITION. Vector moves and scratchpad access (R186-R189) and the integer vector instructions (R190-R193, R201). -/

namespace Sys2Proof.Machine

/-! ### Scratchpad access -/

/-- The active lanes of a group of `n` registers, ascending (R186). -/
def activeLanes (s : State) (n : Nat) : List Nat := (List.range (128 * n)).filter fun j => s.topMask.getLsbD j

/-- The checks of a set of accesses of `n` bytes at ascending-checked offsets (R177): the lowest offending offset for SCRATCH_RANGE, the
stalls, and for a read the lowest uncorrectable offset (of a VLDX by log entry 47). -/
def lanesCheck (s : State) (offs : List Nat) (n : Nat) (write : Bool) : Option Flow :=
  match (offs.filter fun a => spadBytes < a + n).min? with
  | some a => some (rangeTrap (BitVec.ofNat 64 a))
  | none =>
    let as := s.me.actives
    let ls := s.me.leases
    if offs.any fun a => (stallIn as ls none a n write).isSome then some (.stall .spad)
    else if write then none
    else ((offs.filterMap fun a => spadBadAt s.me.store a n).min?).map spadBadTrap

/-- VLD (R186). -/
def execVld (n : Group) (d : Fin 64) (m : MemOp) (sy : Sync) (s : State) : Out :=
  run (.vld n d m sy)
    (fun s =>
      let off := s.memAddr m
      let k := n.size
      if off.toNat % 4 ≠ 0 then alignTrap off 2
      else
        match lanesCheck s ((activeLanes s k).map fun j => off.toNat + 4 * j) 4 false with
        | some f => f
        | none =>
          let top := s.topMask
          let old := s.group d k
          ok ((s.spadSeen ((activeLanes s k).map fun j => (off.toNat + 4 * j, 4))).putElems 32 k d fun j => (if top.getLsbD j then leNat (s.spadGet (off.toNat + 4 * j) 4) else laneOf old 32 j, 0))) s

/-- Active elements written to the scratchpad in ascending order (R186, R188). -/
def State.spadPutAll (s : State) (ws : List (Nat × List Byte)) : State :=
  countSoft (s.setMe { s.me with store := ws.foldl (fun st w => spadWrite st w.1 w.2) s.me.store }) s.cur.tile
    (softWrite s.me.store (ws.map fun w => (w.1, w.2.length)))

/-- VST (R186). -/
def execVst (n : Group) (m : MemOp) (c : Fin 64) (sy : Sync) (s : State) : Out :=
  run (.vst n m c sy)
    (fun s =>
      let off := s.memAddr m
      let k := n.size
      let lanes := activeLanes s k
      if off.toNat % 4 ≠ 0 then alignTrap off 2
      else
        match lanesCheck s (lanes.map fun j => off.toNat + 4 * j) 4 true with
        | some f => f
        | none =>
          let g := s.group c k
          ok (s.spadPutAll (lanes.map fun j => (off.toNat + 4 * j, leBytes 4 (laneOf g 32 j)))).sink) s

/-- The offset of element `i` of an indexed access (R187). -/
def idxOff (s : State) (t : ElemType) (n : Nat) (a : GSrc) (b : Fin 64) (sh : BitVec 2) : Nat → Nat :=
  let k := 32 / t.width
  let g := s.group b (k * n)
  let base := (s.src a).toNat
  fun i => (base + laneOf g 32 (widePlace t.width k i) * 2 ^ sh.toNat) % 2 ^ 64

/-- The active elements of a group. -/
def activeElems (s : State) (w n : Nat) : List Nat :=
  let top := s.topMask
  (List.range (groupLen w n)).filter fun i => activeIn top w i

/-- The first misaligned active element address of an indexed access (R187). -/
def idxAlign (es : List Nat) (off : Nat → Nat) (b : Nat) : Option Flow :=
  (es.find? fun i => off i % b ≠ 0).map fun i => alignTrap (BitVec.ofNat 64 (off i)) 2

/-- VLDX (R187, R188). -/
def execVldx (t : ElemType) (n : Group) (d : Fin 64) (a : GSrc) (b : Fin 64) (sh : BitVec 2) (sy : Sync) (s : State) : Out :=
  run (.vldx t n d a b sh sy)
    (fun s =>
      let w := t.width
      let k := n.size
      let off := idxOff s t k a b sh
      let es := activeElems s w k
      match overlap d.val k true [⟨2, b.val, 32 / w * k⟩] with
      | some f => f
      | none =>
        match idxAlign es off (w / 8) with
        | some f => f
        | none =>
          match lanesCheck s (es.map off) (w / 8) false with
          | some f => f
          | none => ok ((s.spadSeen (es.map fun i => (off i, w / 8))).putActive w k d fun i => (leNat (s.spadGet (off i) (w / 8)), 0))) s

/-- VSTX (R187, R188). -/
def execVstx (t : ElemType) (n : Group) (a : GSrc) (b : Fin 64) (c : Fin 64) (sh : BitVec 2) (sy : Sync) (s : State) : Out :=
  run (.vstx t n a b c sh sy)
    (fun s =>
      let w := t.width
      let k := n.size
      let off := idxOff s t k a b sh
      let es := activeElems s w k
      match idxAlign es off (w / 8) with
      | some f => f
      | none =>
        match lanesCheck s (es.map off) (w / 8) true with
        | some f => f
        | none =>
          let g := s.group c k
          ok (s.spadPutAll (es.map fun i => (off i, leBytes (w / 8) (laneOf g w i)))).sink) s

/-! ### Register moves (R189) -/

/-- The value of VSPLAT, VEXT's and VINS's index, VSLIDE's amount and VIDX's offset: g[B], or the zero-extended literal. -/
def litOrReg (s : State) (b : SrcLit) : Nat := (s.srcZ b).toNat

/-- VSPLAT (R189). -/
def execVsplat (t : ElemType) (n : Group) (d : Fin 64) (b : SrcLit) (sy : Sync) (s : State) : Out :=
  run (.vsplat t n d b sy)
    (fun s => let x := litOrReg s b % 2 ^ t.width; ok (s.putActive t.width n.size d fun _ => (x, 0))) s

/-- VEXT (R189): unmasked. -/
def execVext (t : ElemType) (n : Group) (d : Fin 32) (a : Fin 64) (b : SrcLit) (sy : Sync) (s : State) : Out :=
  run (.vext t n d a b sy)
    (fun s =>
      let e := laneOf (s.group a n.size) t.width (litOrReg s b % groupLen t.width n.size)
      ok (s.writeG d (extendTo64 t.isSigned t.width e))) s

/-- VINS (R189): unmasked. -/
def execVins (t : ElemType) (n : Group) (d : Fin 64) (a : GSrc) (b : SrcLit) (sy : Sync) (s : State) : Out :=
  run (.vins t n d a b sy)
    (fun s =>
      let w := t.width
      let old := s.group d n.size
      let k := litOrReg s b % groupLen w n.size
      let x := (s.src a).toNat % 2 ^ w
      ok (s.putElems w n.size d fun i => (if i = k then x else laneOf old w i, 0))) s

/-- VMOV (R189). -/
def execVmov (n : Group) (d a : Fin 64) (sy : Sync) (s : State) : Out :=
  run (.vmov n d a sy) (vunBody ⟨.z32, n, d, a⟩ fun _ a => (a, 0)) s

/-! ### Integer arithmetic -/

/-- The high half of a product (R190). -/
def vmulhOp (t : ElemType) (w a b : Nat) : Nat := wrapTo w (decodeI t a * decodeI t b / 2 ^ w)

/-- VADD (R190, R191). -/
def execVadd (o : VBin) (sy : Sync) (s : State) : Out := run (.vadd o sy) (vintBody o (fun _ a b => a + b)) s
/-- VSUB (R190, R191). -/
def execVsub (o : VBin) (sy : Sync) (s : State) : Out := run (.vsub o sy) (vintBody o (fun w a b => a + 2 ^ w - b)) s
/-- VMUL (R190, R191). -/
def execVmul (o : VBin) (sy : Sync) (s : State) : Out := run (.vmul o sy) (vintBody o (fun _ a b => a * b)) s
/-- VMULH (R190, R191). -/
def execVmulh (o : VBin) (sy : Sync) (s : State) : Out := run (.vmulh o sy) (vintBody o (vmulhOp o.t)) s
/-- VADDS (R190, R191). -/
def execVadds (o : VBin) (sy : Sync) (s : State) : Out := run (.vadds o sy) (vintBody o (fun _ a b => encodeI o.t (saturate o.t (decodeI o.t a + decodeI o.t b)))) s
/-- VSUBS (R190, R191). -/
def execVsubs (o : VBin) (sy : Sync) (s : State) : Out := run (.vsubs o sy) (vintBody o (fun _ a b => encodeI o.t (saturate o.t (decodeI o.t a - decodeI o.t b)))) s
/-- VABSD (R190, R191). -/
def execVabsd (o : VBin) (sy : Sync) (s : State) : Out := run (.vabsd o sy) (vintBody o (fun _ a b => (decodeI o.t a - decodeI o.t b).natAbs)) s
/-- VMIN (R190, R191). -/
def execVmin (o : VBin) (sy : Sync) (s : State) : Out := run (.vmin o sy) (vintBody o (minOp o.t.isSigned)) s
/-- VMAX (R190, R191). -/
def execVmax (o : VBin) (sy : Sync) (s : State) : Out := run (.vmax o sy) (vintBody o (maxOp o.t.isSigned)) s
/-- VAND (R190, R191). -/
def execVand (o : VBin) (sy : Sync) (s : State) : Out := run (.vand o sy) (vintBody o (fun _ a b => a &&& b)) s
/-- VOR (R190, R191). -/
def execVor (o : VBin) (sy : Sync) (s : State) : Out := run (.vor o sy) (vintBody o (fun _ a b => a ||| b)) s
/-- VXOR (R190, R191). -/
def execVxor (o : VBin) (sy : Sync) (s : State) : Out := run (.vxor o sy) (vintBody o (fun _ a b => a ^^^ b)) s
/-- VSHL (R190, R191). -/
def execVshl (o : VBin) (sy : Sync) (s : State) : Out := run (.vshl o sy) (vintBody o (fun w a b => a * 2 ^ (b % w))) s
/-- VSHR (R190, R191). -/
def execVshr (o : VBin) (sy : Sync) (s : State) : Out := run (.vshr o sy) (vintBody o (shrOp o.t.isSigned)) s
/-- VMADD (R190, R191). -/
def execVmadd (o : VBin) (c : Fin 64) (sy : Sync) (s : State) : Out :=
  run (.vmadd o c sy) (vint3Body o c fun _ a b c => a * b + c) s
/-- VSEL (R190, R191). -/
def execVsel (o : VBin) (c : Fin 64) (sy : Sync) (s : State) : Out :=
  run (.vsel o c sy) (vint3Body o c fun _ a b c => if c ≠ 0 then a else b) s
/-- VCLZ (R190, R191). -/
def execVclz (o : VUn) (sy : Sync) (s : State) : Out := run (.vclz o sy) (vunBody o fun _ a => (clzOp o.t.width a % 2 ^ o.t.width, 0)) s
/-- VPOPC (R190, R191). -/
def execVpopc (o : VUn) (sy : Sync) (s : State) : Out := run (.vpopc o sy) (vunBody o fun _ a => (popcOp o.t.width a % 2 ^ o.t.width, 0)) s
/-- VCMP (R192). -/
def execVcmp (c : Cond) (o : VBin) (sy : Sync) (s : State) : Out :=
  run (.vcmp c o sy) (vintBody o fun w a b => if condHolds c w a b then 2 ^ w - 1 else 0) s
/-- VIDX (R190, R191). -/
def execVidx (t : ElemType) (n : Group) (d : Fin 64) (b : SrcLit) (sy : Sync) (s : State) : Out :=
  run (.vidx t n d b sy)
    (fun s => let x := litOrReg s b; ok (s.putActive t.width n.size d fun i => ((i + x) % 2 ^ t.width, 0))) s

/-- An element of `u` bits extended by its signedness (R193). -/
def extBy (signed : Bool) (u x : Nat) : Int := if signed then toSigned u x else (x : Int)

/-- The dot product of one lane: `m` elements of `u` bits of each 32-bit lane (R193). -/
def dotLane (sa sb : Bool) (m u a b : Nat) : Int :=
  (List.range m).foldl (fun x e => x + extBy sa u (a / 2 ^ (u * e) % 2 ^ u) * extBy sb u (b / 2 ^ (u * e) % 2 ^ u)) 0

/-- VDOT4 and VDOT8 (R193): the sum is exact, then wrapped or saturated once; D may not coincide with A or B. -/
def vdotBody (m : Nat) (sa sb sat : Bool) (n : Group) (d a : Fin 64) (b : VB) (s : State) : Flow :=
  let k := n.size
  match overlap d.val k false (⟨1, a.val, k⟩ :: vbSrc k b) with
  | some t => t
  | none =>
    let ag := s.group a k
    let bv := s.vbAt 32 k b
    let dg := s.group d k
    ok (s.putActive 32 k d fun i =>
      let x := toSigned 32 (laneOf dg 32 i) + dotLane sa sb m (32 / m) (laneOf ag 32 i) (bv i)
      (encodeI .s32 (if sat then saturate .s32 x else x), 0))

/-- VDOT4 (R193). -/
def execVdot4 (sa sb sat : Bool) (n : Group) (d a : Fin 64) (b : VB) (sy : Sync) (s : State) : Out :=
  run (.vdot4 sa sb sat n d a b sy) (vdotBody 4 sa sb sat n d a b) s
/-- VDOT8 (R193). -/
def execVdot8 (sa sb sat : Bool) (n : Group) (d a : Fin 64) (b : VB) (sy : Sync) (s : State) : Out :=
  run (.vdot8 sa sb sat n d a b sy) (vdotBody 8 sa sb sat n d a b) s

end Sys2Proof.Machine
end

