-- ==== Sys2Proof/Machine/VecFloat.lean ====
section
/-! DEFINITION. The floating vector instructions (R194-R199) and conversion and scaling (R200-R203). -/

namespace Sys2Proof.Machine

/-- VFADD (R194, R195). -/
def execVfadd (r : RoundCode) (o : VBin) (sy : Sync) (s : State) : Out := run (.vfadd r o sy) (vfBody o r fAdd) s
/-- VFSUB (R194, R195). -/
def execVfsub (r : RoundCode) (o : VBin) (sy : Sync) (s : State) : Out := run (.vfsub r o sy) (vfBody o r fSub) s
/-- VFMUL (R194, R195). -/
def execVfmul (r : RoundCode) (o : VBin) (sy : Sync) (s : State) : Out := run (.vfmul r o sy) (vfBody o r fMul) s
/-- VFDIV (R194, R195). -/
def execVfdiv (r : RoundCode) (o : VBin) (sy : Sync) (s : State) : Out := run (.vfdiv r o sy) (vfBody o r fDiv) s
/-- VFSQRT (R194-R196). -/
def execVfsqrt (r : RoundCode) (o : VUn) (sy : Sync) (s : State) : Out := run (.vfsqrt r o sy) (vfunBody o r fSqrt) s
/-- VFRCP (R194-R196). -/
def execVfrcp (r : RoundCode) (o : VUn) (sy : Sync) (s : State) : Out := run (.vfrcp r o sy) (vfunBody o r fRcp) s
/-- VFRSQ (R194-R196). -/
def execVfrsq (r : RoundCode) (o : VUn) (sy : Sync) (s : State) : Out := run (.vfrsq r o sy) (vfunBody o r fRsqrt) s
/-- VFEXP2 (R194-R196). -/
def execVfexp2 (r : RoundCode) (o : VUn) (sy : Sync) (s : State) : Out := run (.vfexp2 r o sy) (vfunBody o r fExp2) s
/-- VFLOG2 (R194-R196). -/
def execVflog2 (r : RoundCode) (o : VUn) (sy : Sync) (s : State) : Out := run (.vflog2 r o sy) (vfunBody o r fLog2) s
/-- VFTANH (R194-R196). -/
def execVftanh (r : RoundCode) (o : VUn) (sy : Sync) (s : State) : Out := run (.vftanh r o sy) (vfunBody o r fTanh) s
/-- VFMA (R194, R195): one rounding of a x b + c. -/
def execVfma (r : RoundCode) (o : VBin) (c : Fin 64) (sy : Sync) (s : State) : Out :=
  run (.vfma r o c sy)
    (fun s =>
      let n := o.n.size
      let w := o.t.width
      match overlap o.d.val n true (⟨1, o.a.val, n⟩ :: vbSrc n o.b ++ [⟨3, c.val, n⟩]) with
      | some t => t
      | none =>
        let a := s.group o.a n
        let b := s.vbAt w n o.b
        let cg := s.group c n
        let rd := s.rnd r false
        ok ((s.drew r).putActive w n o.d fun i =>
          fFma o.t { rd with idx := i } (decodeF o.t (laneOf a w i)) (decodeF o.t (b i)) (decodeF o.t (laneOf cg w i)))) s

/-- VFMIN (R194, R137). -/
def execVfmin (o : VBin) (sy : Sync) (s : State) : Out := run (.vfmin o sy) (vfBody o .rne fun t _ => fMin t) s
/-- VFMAX (R194, R137). -/
def execVfmax (o : VBin) (sy : Sync) (s : State) : Out := run (.vfmax o sy) (vfBody o .rne fun t _ => fMax t) s

/-- VFCMP (R197). -/
def execVfcmp (c : FCond) (o : VBin) (sy : Sync) (s : State) : Out :=
  run (.vfcmp c o sy)
    (vfBody o .rne fun t _ x y => let v := fCmp c x y; (if v.1 then 2 ^ t.width - 1 else 0, v.2)) s

/-- The class bit of a value (R198). -/
def fclass (t : ElemType) : FVal → Nat
  | .nan _ m w => if m / 2 ^ (w - 1) % 2 = 0 then 2 ^ 8 else 2 ^ 9
  | .inf neg => if neg then 1 else 2 ^ 7
  | .fin neg m e =>
    if m = 0 then (if neg then 2 ^ 3 else 2 ^ 4)
    else if (m.log2 : Int) + e < (ffmt t).emin then (if neg then 2 ^ 2 else 2 ^ 5)
    else if neg then 2 else 2 ^ 6

/-- VFCLASS (R198). -/
def execVfclass (o : VUn) (sy : Sync) (s : State) : Out :=
  run (.vfclass o sy) (vunBody o fun _ a => (fclass o.t (decodeF o.t a), 0)) s

/-- The sign bit cleared or inverted (R199). -/
def fabsOp (neg : Bool) (w a : Nat) : Nat :=
  let m := a % 2 ^ (w - 1)
  if neg ∧ a / 2 ^ (w - 1) % 2 = 0 then m + 2 ^ (w - 1) else m

/-- VFABS (R199). -/
def execVfabs (neg : Bool) (o : VUn) (sy : Sync) (s : State) : Out :=
  run (.vfabs neg o sy) (vunBody o fun _ a => (fabsOp neg o.t.width a, 0)) s

/-! ### Conversion -/

/-- The body of a conversion (R169, R200, R201): `f i x` converts the element paired with narrow element `i`. -/
def cvtBody (td ts : ElemType) (n : Group) (d a : Fin 64) (f : Nat → Nat → FRes) (s : State) : Flow :=
  let wd := td.width
  let ws := ts.width
  let k := max wd ws / min wd ws
  let g := n.size
  let ds := if ws < wd then g * k else g
  let ss := if wd < ws then g * k else g
  match overlap d.val ds true [⟨1, a.val, ss⟩] with
  | some t => t
  | none =>
    let src := s.group a ss
    let old := s.group d ds
    let top := s.topMask
    ok (s.putElems wd ds d fun p =>
      let i := if ws < wd then narrowOf ws k p else p
      let x := laneOf src ws (if wd < ws then widePlace wd k i else i)
      if activeIn top (min wd ws) i then f i x else (laneOf old wd p, 0))

/-- VCVT (R200). -/
def execVcvt (sat : Bool) (td ts : ElemType) (r : RoundCode) (n : Group) (d a : Fin 64) (sy : Sync) (s : State) : Out :=
  run (.vcvt sat td ts r n d a sy)
    (fun s =>
      let rd := s.rnd r sat
      cvtBody td ts n d a (fun i x => convert td ts { rd with idx := i } x) (s.drew r)) s

/-- VWIDEN (R201). -/
def execVwiden (td ts : ElemType) (n : Group) (d a : Fin 64) (sy : Sync) (s : State) : Out :=
  run (.vwiden td ts n d a sy) (cvtBody td ts n d a fun _ x => (encodeI td (decodeI ts x), 0)) s

/-- VNARROW (R201). -/
def execVnarrow (sat : Bool) (td ts : ElemType) (n : Group) (d a : Fin 64) (sy : Sync) (s : State) : Out :=
  run (.vnarrow sat td ts n d a sy)
    (cvtBody td ts n d a fun _ x => (encodeI td (if sat then saturate td (decodeI ts x) else decodeI ts x), 0)) s

/-- The exponent of VSCALE (R202); beyond 8,192 in magnitude every result is that of 8,192. -/
def scaleExp (e : Int) : Int := max (-8192) (min 8192 e)

/-- The exponent operand of VSCALE (R202). -/
def vscaleAt (s : State) (w n : Nat) : VB → Nat → Int
  | .vec r => let g := s.group r n; fun i => toSigned w (laneOf g w i)
  | .reg r => let x := (s.src r).toInt; fun _ => x
  | .lit i => fun _ => i.toInt

/-- a x 2^e, rounded; zeros, infinities and NaNs as R202. -/
def fScale (t : ElemType) (r : Rnd) (x : FVal) (e : Int) : FRes := finishF t r [x] (some (scaleF (scaleExp e) x))

/-- VSCALE (R202). -/
def execVscale (r : RoundCode) (o : VBin) (sy : Sync) (s : State) : Out :=
  run (.vscale r o sy)
    (fun s =>
      let n := o.n.size
      let w := o.t.width
      match overlap o.d.val n true (⟨1, o.a.val, n⟩ :: vbSrc n o.b) with
      | some t => t
      | none =>
        let a := s.group o.a n
        let e := vscaleAt s w n o.b
        let rd := s.rnd r false
        ok ((s.drew r).putActive w n o.d fun i => fScale o.t { rd with idx := i } (decodeF o.t (laneOf a w i)) (e i))) s

/-- One block quantised: its scale code, and element `i` of the block (R124). -/
def quantBlock (t : ElemType) (r : Rnd) (first : Nat) (xs : List FVal) : Nat × (Nat → FRes) :=
  match quantScale t xs with
  | none => (0xFF, fun _ => (0, fNV))
  | some k => (k, fun i => let x := xs.getD i (.fin false 0 0); quantElem t r k (first + i) x)

/-- The blocks of VBSCALE.q: scale codes and elements. -/
def quantBlocks (nt : ElemType) (rd : Rnd) (src : Nat → FVal) (blocks : Nat) : List (Nat × (Nat → FRes)) :=
  (List.range blocks).map fun b => quantBlock nt rd (32 * b) ((List.range 32).map fun j => src (32 * b + j))

/-- The register of scales with bytes 0 to `blocks` - 1 replaced (R203). -/
def putScales (old : BitVec 4096) (ks : List Nat) : BitVec 4096 :=
  packReg 8 (ks ++ ((List.range 512).map fun i => laneOf [old] 8 i).drop ks.length)

/-- VBSCALE.q (R203). -/
def bscaleQ (nt wt : ElemType) (r : RoundCode) (n : Group) (d a sc : Fin 64) (s : State) : Flow :=
  let k := wt.width / nt.width
  let g := n.size
  match overlap d.val g false [⟨1, a.val, g * k⟩, ⟨3, sc.val, 1⟩] with
  | some t => t
  | none =>
    if (VSrc.mk 3 a.val (g * k)).clash sc.val 1 false then
      .trap { cause := 0x05, info := BitVec.ofNat 32 (3 * 4096 + sc.val * 64 + d.val) }
    else
      let src := s.group a (g * k)
      let rd := s.rnd r false
      let blocks := quantBlocks nt rd (fun i => decodeF wt (laneOf src wt.width (widePlace nt.width k i))) (groupLen nt.width g / 32)
      let s := (s.drew r).setVreg sc.val (putScales (s.vreg sc.val) (blocks.map (·.1)))
      ok (s.putElems nt.width g d fun i => ((blocks.getD (i / 32) (0, fun _ => (0, 0))).2 (i % 32)))

/-- An element of a block under its scale code, before rounding (R123). -/
def scaledElem (nt : ElemType) (kb x : Nat) : FVal := if kb = 255 then canonNaN else scaleF ((kb : Int) - 127) (decodeF nt x)

/-- An element dequantised (R203): a NaN element converts by R129; a scale of 0xFF gives the canonical NaN without a flag. -/
def dequant (nt wt : ElemType) (rd : Rnd) (kb x : Nat) : FRes :=
  let v := scaledElem nt kb x
  let res := roundToFormat wt rd v
  (res.1, res.2 ||| nanFlags [v])

/-- VBSCALE.dq (R203). -/
def bscaleDq (nt wt : ElemType) (r : RoundCode) (n : Group) (d a sc : Fin 64) (s : State) : Flow :=
  let k := wt.width / nt.width
  let g := n.size
  match overlap d.val (g * k) false [⟨1, a.val, g⟩, ⟨2, sc.val, 1⟩] with
  | some t => t
  | none =>
    let src := s.group a g
    let scales := s.vreg sc.val
    let rd := s.rnd r false
    ok ((s.drew r).putElems wt.width (g * k) d fun p =>
      let i := narrowOf nt.width k p
      dequant nt wt { rd with idx := i } (laneOf [scales] 8 (i / 32)) (laneOf src nt.width i))

/-- VBSCALE (R203). -/
def execVbscale (dq : Bool) (nt wt : ElemType) (r : RoundCode) (n : Group) (d a sc : Fin 64) (sy : Sync) (s : State) : Out :=
  run (.vbscale dq nt wt r n d a sc sy) (if dq then bscaleDq nt wt r n d a sc else bscaleQ nt wt r n d a sc) s

end Sys2Proof.Machine
end

