-- ==== Sys2Proof/Machine/VecPerm.lean ====
section
/-! DEFINITION. Permutation (R204-R206), reductions and scans (R207-R210), compress and expand (R211), and the mask stack (R171-R175,
R212, R213). -/

namespace Sys2Proof.Machine

/-- VPERM (R204). -/
def execVperm (t : ElemType) (n : Group) (d a b : Fin 64) (sy : Sync) (s : State) : Out :=
  run (.vperm t n d a b sy)
    (fun s =>
      let w := t.width
      let k := n.size
      match overlap d.val k true [⟨1, a.val, k⟩, ⟨2, b.val, k⟩] with
      | some f => f
      | none =>
        let ag := s.group a k
        let bg := s.group b k
        ok (s.putActive w k d fun i => (laneOf ag w (laneOf bg w i % groupLen w k), 0))) s

/-- VSLIDE (R205). -/
def execVslide (up : Bool) (t : ElemType) (n : Group) (d a : Fin 64) (b : SrcLit) (sy : Sync) (s : State) : Out :=
  run (.vslide up t n d a b sy)
    (fun s =>
      let w := t.width
      let m := litOrReg s b
      let len := groupLen w n.size
      let ag := s.group a n.size
      vunBody ⟨t, n, d, a⟩
        (fun i _ =>
          (if up then (if m ≤ i then laneOf ag w (i - m) else 0) else (if i + m < len then laneOf ag w (i + m) else 0), 0)) s) s

/-- VZIP (R206). -/
def execVzip (t : ElemType) (n : Group) (d a b : Fin 64) (sy : Sync) (s : State) : Out :=
  run (.vzip t n d a b sy)
    (fun s =>
      let w := t.width
      let k := n.size
      match overlap d.val (2 * k) true [⟨1, a.val, k⟩, ⟨2, b.val, k⟩] with
      | some f => f
      | none =>
        let ag := s.group a k
        let bg := s.group b k
        ok (s.putElems w (2 * k) d fun i => (if i % 2 = 0 then laneOf ag w (i / 2) else laneOf bg w (i / 2), 0))) s

/-- VUNZIP (R206). -/
def execVunzip (t : ElemType) (n : Group) (d a : Fin 64) (sy : Sync) (s : State) : Out :=
  run (.vunzip t n d a sy)
    (fun s =>
      let w := t.width
      let k := n.size
      match overlap d.val (2 * k) true [⟨1, a.val, 2 * k⟩] with
      | some f => f
      | none =>
        let ag := s.group a (2 * k)
        let len := groupLen w k
        ok (s.putElems w (2 * k) d fun i => (laneOf ag w (if i < len then 2 * i else 2 * (i - len) + 1), 0))) s

/-! ### Reductions -/

/-- One level of the tree of R138: neighbours combine, the nodes numbered from `node`. -/
def treeLevel {α : Type} (op : Nat → α → α → α × FFlags) : Nat → List α → List α × FFlags
  | node, x :: y :: r =>
    let z := op node x y
    let rest := treeLevel op (node + 1) r
    (z.1 :: rest.1, z.2 ||| rest.2)
  | _, xs => (xs, 0)

/-- The tree of R138 over at most 2^fuel elements. -/
def treeFold {α : Type} (op : Nat → α → α → α × FFlags) : Nat → Nat → List α → List α × FFlags
  | 0, _, xs => (xs, 0)
  | fuel + 1, node, xs =>
    match xs with
    | _ :: _ :: _ =>
      let l := treeLevel op node xs
      let rest := treeFold op fuel (node + xs.length / 2) l.1
      (rest.1, l.2 ||| rest.2)
    | _ => (xs, 0)

/-- The result of the tree, with the starting value of .acc as the right operand of node N - 1 (R208). -/
def reduceTree {α : Type} (dflt : α) (op : Nat → α → α → α × FFlags) (xs : List α) (start : Option α) : α × FFlags :=
  let t := treeFold op 13 0 xs
  let x := t.1.headD dflt
  match start with
  | none => (x, t.2)
  | some y => let z := op (xs.length - 1) x y; (z.1, t.2 ||| z.2)

/-- The code of minus or plus infinity of a floating format. -/
def infOf (t : ElemType) (neg : Bool) : Nat := (ffmt t).sign neg + (ffmt t).infCode

/-- The identity of a reduction (R138, R208). -/
def redIdentity (op : RedOp) (t : ElemType) : Nat :=
  match op with
  | .add => if t.isInt then 0 else (ffmt t).sign true
  | .max | .amax => if t.isInt then encodeI t (intMin t) else infOf t true
  | .min => if t.isInt then encodeI t (intMax t) else infOf t false
  | .and => 2 ^ t.width - 1
  | .or | .xor => 0

/-- A node of a reduction or a step of a scan on codes of type `t` (R208). -/
def redNode (op : RedOp) (t : ElemType) (rd : Rnd) (i x y : Nat) : FRes :=
  if t.isInt then
    (match op with
     | .add => (x + y) % 2 ^ t.width
     | .max | .amax => maxOp t.isSigned t.width x y
     | .min => minOp t.isSigned t.width x y
     | .and => x &&& y
     | .or => x ||| y
     | .xor => x ^^^ y, 0)
  else
    match op with
    | .add => fAdd t { rd with idx := i } (decodeF t x) (decodeF t y)
    | .min => fMin t (decodeF t x) (decodeF t y)
    | _ => fMax t (decodeF t x) (decodeF t y)

/-- The result type of a reduction: 32 bits under .wide (R208). -/
def redType (wide : Bool) (t : ElemType) : ElemType :=
  if wide then (if t.isInt then (if t.isSigned then .s32 else .z32) else .f32) else t

/-- An element brought to the result type of a reduction, exactly (R208). -/
def redElem (wide : Bool) (t : ElemType) (x : Nat) : FRes :=
  if wide then (if t.isInt then (wrapTo 32 (decodeI t x), 0) else convert .f32 t Rnd.near x) else (x, 0)

/-- Whether an element ranks below another under .amax (R209). -/
def rankBelow (t : ElemType) (x y : Nat) : Bool :=
  if t.isInt then decodeI t x < decodeI t y
  else
    let u := decodeF t x
    let v := decodeF t y
    if u.isNaN then false else if v.isNaN then true else beforeF u v

/-- A node of .amax on (bits, number) pairs (R209). -/
def amaxNode (t : ElemType) (_ : Nat) (x y : Nat × Nat) : (Nat × Nat) × FFlags :=
  (if rankBelow t x.1 y.1 then y else if rankBelow t y.1 x.1 then x else if y.2 < x.2 then y else x, 0)

/-- The body of VRED (R207-R209). -/
def vredBody (op : RedOp) (wide acc : Bool) (r : RoundCode) (o : VUn) (s : State) : Flow :=
  let n := o.n.size
  let w := o.t.width
  let idxs := List.range (groupLen w n)
  match overlap o.d.val 1 true [⟨1, o.a.val, n⟩] with
  | some t => t
  | none =>
    let ag := s.group o.a n
    let dg := s.group o.d 1
    let top := s.topMask
    match op with
    | .amax =>
      let xs := idxs.map fun i => if activeIn top w i then (laneOf ag w i, i) else (redIdentity .amax o.t, 0xFFFFFFFF)
      let st := if acc then some (laneOf dg w 0, laneOf dg 32 1) else none
      let res := (reduceTree (0, 0) (amaxNode o.t) xs st).1
      ok (s.putElems 32 1 o.d fun i => (if i = 0 then res.1 else if i = 1 then res.2 else laneOf dg 32 i, 0))
    | _ =>
      let rt := redType wide o.t
      let rd := s.rnd r false
      let xs := collect (fun i => if activeIn top w i then redElem wide o.t (laneOf ag w i) else (redIdentity op rt, 0)) idxs
      let st := if acc then some (laneOf dg rt.width 0) else none
      let res := reduceTree 0 (redNode op rt rd) xs.1 st
      let s := (s.drew r).orFlags (xs.2 ||| res.2)
      ok (s.putElems rt.width 1 o.d fun i => (if i = 0 then res.1 else laneOf dg rt.width i, 0))

/-- VRED (R207-R209). -/
def execVred (op : RedOp) (wide acc : Bool) (r : RoundCode) (o : VUn) (sy : Sync) (s : State) : Out :=
  run (.vred op wide acc r o sy) (vredBody op wide acc r o) s

/-- The reduction that a scan steps by (R210). -/
def scanRed : ScanOp → RedOp
  | .add => .add
  | .max => .max
  | .min => .min

/-- The prefixes of a scan from element `i` on (R139). -/
def scanFrom (f : Nat → Nat → Nat → FRes) : Nat → Nat → List Nat → List FRes
  | _, _, [] => []
  | i, a, x :: r => let y := f i a x; y :: scanFrom f (i + 1) y.1 r

/-- The first prefix: the element itself, rounded (R139). -/
def scanFirst (t : ElemType) (rd : Rnd) (x : Nat) : FRes := if t.isInt then (x, 0) else convert t t { rd with idx := 0 } x

/-- The inclusive scan (R139, R210). -/
def scanList (op : RedOp) (t : ElemType) (rd : Rnd) : List Nat → List FRes
  | [] => []
  | x :: r => let y := scanFirst t rd x; y :: scanFrom (redNode op t rd) 1 y.1 r

/-- VSCAN (R210): a masked-off element enters as the identity and keeps its destination. -/
def execVscan (op : ScanOp) (r : RoundCode) (o : VUn) (sy : Sync) (s : State) : Out :=
  run (.vscan op r o sy)
    (fun s =>
      let n := o.n.size
      let w := o.t.width
      match overlap o.d.val n true [⟨1, o.a.val, n⟩] with
      | some t => t
      | none =>
        let ag := s.group o.a n
        let top := s.topMask
        let xs := (List.range (groupLen w n)).map fun i => if activeIn top w i then laneOf ag w i else redIdentity (scanRed op) o.t
        let res := scanList (scanRed op) o.t (s.rnd r false) xs
        ok ((s.drew r).putActive w n o.d fun i => res.getD i (0, 0))) s

/-! ### Compress and expand -/

/-- The active elements of a group, packed to the front (R211). -/
def execVcompr (o : VUn) (sy : Sync) (s : State) : Out :=
  run (.vcompr o sy)
    (fun s =>
      let n := o.n.size
      let w := o.t.width
      match overlap o.d.val n true [⟨1, o.a.val, n⟩] with
      | some t => t
      | none =>
        let ag := s.group o.a n
        let xs := (activeElems s w n).map (laneOf ag w)
        ok (s.setGroup o.d (packGroup w n (xs ++ List.replicate (groupLen w n - xs.length) 0)))) s

/-- The active elements of a group filled in order from a list (R211). -/
def expandGo (act : Nat → Bool) (old : Nat → Nat) : List Nat → List Nat → List Nat
  | [], _ => []
  | i :: is, x :: xs => if act i then x :: expandGo act old is xs else old i :: expandGo act old is (x :: xs)
  | i :: is, [] => old i :: expandGo act old is []

/-- VEXPND (R211). -/
def execVexpnd (o : VUn) (sy : Sync) (s : State) : Out :=
  run (.vexpnd o sy)
    (fun s =>
      let n := o.n.size
      let w := o.t.width
      match overlap o.d.val n true [⟨1, o.a.val, n⟩] with
      | some t => t
      | none =>
        let ag := s.group o.a n
        let og := s.group o.d n
        let top := s.topMask
        let idxs := List.range (groupLen w n)
        ok (s.setGroup o.d (packGroup w n (expandGo (activeIn top w) (laneOf og w) idxs (idxs.map (laneOf ag w)))))) s

/-! ### The mask stack -/

/-- MASK_STACK with the depth and the operation (R173, R213). -/
def maskTrap (s : State) (op : Nat) : Flow := .trap { cause := 0x0C, info := BitVec.ofNat 32 (s.me.store.depth.toNat + 256 * op) }

/-- The condition of a group (R173): a bit for each lane that holds a nonzero word; bits beyond the group are 1. -/
def groupCond (g : List (BitVec 4096)) (n : Nat) : BitVec 512 :=
  BitVec.ofNat 512
    ((List.range 512).foldr (fun b a => (if b < 128 * n then ofBool (laneOf g 32 b != 0) else 1) + 2 * a) 0)

/-- The parent of the top (R171). -/
def State.parentMask (s : State) : BitVec 512 :=
  let st := s.me.store
  if st.depth.toNat ≤ 1 then BitVec.allOnes 512 else st.mask[(st.depth.toNat - 2) % 16]'(by omega)

/-- The acting tile with the mask entry at a position replaced and the depth set. -/
def State.setMask (s : State) (depth : BitVec 5) (pos : Nat) (m : BitVec 512) : State :=
  s.setMe { s.me with store := { s.me.store with mask := s.me.store.mask.set (pos % 16) m (by omega), depth := depth } }

/-- A push onto the mask stack (R173). -/
def pushMask (s : State) (m : BitVec 512) : Flow :=
  let d := s.me.store.depth
  if d = 16 then maskTrap s 0 else ok (s.setMask (d + 1) d.toNat m)

/-- VMPUSH (R173, R213). -/
def execVmpush (n : Group) (a : Fin 64) (sy : Sync) (s : State) : Out :=
  run (.vmpush n a sy) (fun s => pushMask s (s.topMask &&& groupCond (s.group a n.size) n.size)) s

/-- VMINV (R173). -/
def execVminv (sy : Sync) (s : State) : Out :=
  run (.vminv sy)
    (fun s =>
      let d := s.me.store.depth
      if d = 0 then maskTrap s 1 else ok (s.setMask d (d.toNat - 1) (s.parentMask &&& ~~~ s.topMask))) s

/-- VMPOP (R173). -/
def execVmpop (sy : Sync) (s : State) : Out :=
  run (.vmpop sy)
    (fun s =>
      let d := s.me.store.depth
      if d = 0 then maskTrap s 2
      else ok (s.setMe { s.me with store := { s.me.store with depth := d - 1 } })) s

/-- VMGET and VMGET.depth (R213). -/
def execVmget (f : VmgetForm) (sy : Sync) (s : State) : Out :=
  run (.vmget f sy)
    (fun s =>
      match f with
      | .mask d => ok (s.setVreg d.val (s.topMask.setWidth 4096))
      | .depth d => ok (s.writeG d (s.me.store.depth.setWidth 64))) s

/-- VMSET and VMSET.push (R213). -/
def execVmset (push : Bool) (a : Fin 64) (sy : Sync) (s : State) : Out :=
  run (.vmset push a sy)
    (fun s =>
      let m := (s.vreg a.val).setWidth 512
      let d := s.me.store.depth
      if push then pushMask s m else if d = 0 then maskTrap s 3 else ok (s.setMask d (d.toNat - 1) m)) s

/-- BRMZ (R175). -/
def execBrmz (imm : BitVec 32) (sy : Sync) (s : State) : Out :=
  run (.brmz imm sy) (fun s => if s.topMask = 0 then jumpTo s (relTarget s imm) else ok s) s

/-- VMCNT (R213). -/
def execVmcnt (d : Fin 32) (n : Group) (sy : Sync) (s : State) : Out :=
  run (.vmcnt d n sy)
    (fun s =>
      let top := s.topMask
      ok (s.writeG d (BitVec.ofNat 64 ((List.range (128 * n.size)).foldl (fun c b => c + ofBool (top.getLsbD b)) 0)))) s

end Sys2Proof.Machine
end

