-- ==== Sys2Proof/Machine/Matrix.lean ====
section
/-! DEFINITION. The matrix engine (chapter 09): the accumulator store, MGO and the checks of R234, nest steps with residue checking (R221-R230),
MOUT (R235), and the other matrix instructions. -/

namespace Sys2Proof.Machine

/-! ### The accumulator store (R217, R218) -/

/-- A row of a tile of the accumulator store. -/
def Store.accRow (st : Store) (t row : Nat) : BitVec 8192 := smGet 0 (128 * t + row) st.acc
/-- An accumulator element by number (R217). -/
def Store.accElem (st : Store) (t e : Nat) : Nat := (st.accRow t (e / 256)).toNat / 2 ^ (32 * (e % 256)) % 2 ^ 32
/-- A row from its 256 elements. -/
def packRow (es : List Nat) : BitVec 8192 := BitVec.ofNat 8192 (es.foldr (fun e a => e % 2 ^ 32 + 2 ^ 32 * a) 0)
/-- The store with a row replaced, whatever it held. -/
def Store.setAccRow (st : Store) (t row : Nat) (v : BitVec 8192) : Store :=
  { st with acc := smSet 0 (128 * t + row) v st.acc, accBad := st.accBad.filter (· != 128 * t + row) }
/-- The store with an element replaced; an uncorrectable row stays so. -/
def Store.setAccElem (st : Store) (t e v : Nat) : Store :=
  let row := st.accRow t (e / 256)
  let k := 32 * (e % 256)
  let x := row.toNat
  { st with acc := smSet 0 (128 * t + e / 256) (BitVec.ofNat 8192 (x % 2 ^ k + v % 2 ^ 32 * 2 ^ k + x / 2 ^ (k + 32) * 2 ^ (k + 32))) st.acc }
/-- The first uncorrectable row of a tile among some. -/
def Store.badRow (st : Store) (t : Nat) (rows : List Nat) : Option Nat := rows.find? fun r => st.accBad.contains (128 * t + r)

/-- MEM_UNCORRECTED of an accumulator row (R218). -/
def accFault (t row : Nat) : OpFault :=
  ⟨0x20, BitVec.ofNat 32 (2 ^ 31 + t * 32768 + row * 256), 3, BitVec.ofNat 64 (t * 32768 + row * 256)⟩

/-- A fault as a trap of the instruction itself. -/
def faultFlow (f : OpFault) : Flow := .trap { cause := f.cause, info := f.info, akind := f.akind, addr := f.addr }

/-- MCFG (R233). -/
def execMcfg (reg : Fin 64) (v : SrcLit) (sy : Sync) (s : State) : Out :=
  run (.mcfg reg v sy)
    (fun s =>
      if h : reg.val < 20 then
        ok (s.setMe { s.me with store := { s.me.store with shadow := s.me.store.shadow.set reg.val (s.srcZ v) h } })
      else illegal 0) s

/-! ### MGO -/

/-- Whether a value is a type code (R46): 0xF is reserved. -/
def aCodeOk (a : Nat) : Bool := a != 15
/-- Whether a B format pairs with an A format (R215). -/
def pairOk (a b : Nat) : Bool :=
  if a = 8 ∨ a = 11 ∨ a = 12 then b == a
  else if a = 9 ∨ a = 10 then b == 9 || b == 10
  else if a = 2 ∨ a = 3 then b == 2 || b == 3
  else a ≤ 1 && b ≤ 1
/-- Whether a block-scale bit fits a format (R215, R220). -/
def scaleOk (f : Nat) (sc : Bool) : Bool := if f = 8 then sc else !sc || f == 9 || f == 10

/-- A field check of MGO: register, lowest bit of the field, whether it holds (R234). -/
structure NestCheck where
  reg : Nat
  bit : Nat
  good : Bool
  deriving DecidableEq, Repr

/-- The checks of one level in use (R220, R223). -/
def levChecks (r : Vector Word64 20) (c : NestCfg) (n : Fin 6) : List NestCheck :=
  let l := nestLev r n
  [⟨8 + 2 * n.val, 0, !c.asrc || l.da == 0⟩,
   ⟨9 + 2 * n.val, 0, l.count != 0 && (n != 0 || !c.asrc || l.count * c.kstep ≤ 256)⟩,
   ⟨9 + 2 * n.val, 20, nestField r ⟨9 + 2 * n.val, by omega⟩ 20 12 == 0⟩]

/-- The field checks of MGO, registers in ascending number and fields from bit 0 up; each reports the lowest bit of its field (R220, R234). -/
def nestChecks (r : Vector Word64 20) : List NestCheck :=
  let c := nestCfg r
  [⟨0, 0, aCodeOk c.afmt⟩, ⟨0, 4, pairOk c.afmt c.bfmt⟩,
   ⟨0, 8, !c.asrc || c.afmt == 9 || c.afmt == 10 || c.afmt == 12⟩,
   ⟨0, 9, scaleOk c.afmt c.sca && !(c.sca && c.asrc)⟩, ⟨0, 10, scaleOk c.bfmt c.scb⟩,
   ⟨0, 12, c.rnd != 7 && (c.asrc || c.rnd == 0)⟩, ⟨0, 15, nestField r 0 15 1 == 0⟩, ⟨0, 16, c.levels ≤ 6⟩,
   ⟨0, 19, 1 ≤ c.kstep && c.kstep ≤ 256 && (!(c.sca || c.scb) || c.kstep % 32 == 0)⟩,
   ⟨0, 31, nestField r 0 31 33 == 0⟩,
   ⟨1, 0, !c.asrc || nestField r 1 3 61 == 0⟩, ⟨3, 0, !c.asrc || c.aks == 0⟩] ++
  (([0, 1, 2, 3, 4, 5] : List (Fin 6)).take c.levels).flatMap (levChecks r c)

/-- The registers whose offsets must be multiples of 64, in ascending number (R220, R234). -/
def nestAlign (r : Vector Word64 20) : Option Nat :=
  let c := nestCfg r
  if !c.asrc && c.abase % 64 ≠ 0 then some 1
  else if c.bbase % 64 ≠ 0 then some 2
  else if c.aks % 64 ≠ 0 ∨ c.bks % 64 ≠ 0 then some 3
  else if c.sa % 64 ≠ 0 ∨ c.sb % 64 ≠ 0 then some 4
  else ((nestLevs r).findIdx? fun l => l.da % 64 ≠ 0 || l.db % 64 ≠ 0).map fun i => 8 + 2 * i

/-- The first hull outside the scratchpad: the offset it reports (R234). -/
def hullBad (hs : List (Int × Int)) : Option Int :=
  (hs.find? fun h => h.1 < 0 || (spadBytes : Int) ≤ h.2).map fun h => if h.1 < 0 then h.1 else h.2

/-- The tiles a nest writes (R225): its tile numbers lie in 0-7 at every corner, so a level that moves the tile runs at most 8 times. -/
def nestTiles (r : Vector Word64 20) : List Nat :=
  ((nestLevs r).foldl
    (fun (ts : List Int) (l : NestLev) =>
      if l.dacc = 0 then ts else (List.range (min l.count 8)).flatMap fun (i : Nat) => ts.map fun t => t + (i : Int) * l.dacc)
    [((nestCfg r).accbase : Int)]).map Int.toNat |>.eraseDups

/-- Whether the tile number lies in 0-7 at every corner (R234). -/
def tilesOk (r : Vector Word64 20) : Bool :=
  let h := corners (nestCfg r).accbase ((nestLevs r).map fun l => (l.dacc, l.count))
  0 ≤ h.1 && h.2 ≤ 7

/-- The checks of MGO at step 7 (R234). ALIGN names a register and no address, so its ADDR and AKIND are 0 (log entry 57). -/
def mgoTrap (x : Tile) : Option Flow :=
  let r := x.store.shadow
  let c := nestCfg r
  match (nestChecks r).find? fun k => !k.good with
  | some k => some (illegal (BitVec.ofNat 32 (k.reg + 256 * k.bit)))
  | none =>
    if !tilesOk r then some (illegal (BitVec.ofNat 32 (256 * 28)))
    else if c.asrc && (nestTiles r).contains (c.abase % 8) then
      some (.trap { cause := 0x05, info := BitVec.ofNat 32 (4096 + c.abase % 8 * 64 + c.abase % 8) })
    else
      match nestAlign r with
      | some k => some (.trap { cause := 0x12, info := BitVec.ofNat 32 k })
      | none =>
        match hullBad (nestHulls r) with
        | some o => some (.trap { cause := 0x14, info := BitVec.ofInt 32 o, akind := 2, addr := BitVec.ofInt 64 o })
        | none => if x.degraded then some (.trap { cause := 0x21, info := 0x1FF }) else none

/-- Whether a nest meets an unretired MOUT (R225): its tile, or its destination range. -/
def nestMeetsMout (x : Tile) (r : Vector Word64 20) : Bool :=
  match x.eng.mout with
  | none => false
  | some m =>
    (nestTiles r).contains (moutTile m.inst) || (nestHulls r).any fun h => h.1 < (m.active.hi : Int) && (m.active.lo : Int) ≤ h.2

/-- A rounding code of R46 resolved against round.MODE. -/
def modeOfCode (s : State) (k : Nat) : Nat := if k = 6 then s.regs.round.toNat else k

/-- MGO (R224, R225, R234). -/
def execMgo (sy : Sync) (s : State) : Out :=
  run (.mgo sy)
    (fun s =>
      let x := s.me
      let r := x.store.shadow
      match mgoTrap x with
      | some f => f
      | none =>
        if x.eng.pending.isSome || nestMeetsMout x r then .stall .other
        else if 32 ≤ asyncCount x then .stall .blocked
        else
          let c := nestCfg r
          let mode := if c.asrc then modeOfCode s c.rnd else 0
          let n : NestOp := { info := opInfo s (.mgo sy) mode 0 0 0 0, regs := r, steps := 0,
                              ghost := s.cur.ctx == .service && s.myCore.v.mode == .share && x.task.isSome, replay := false }
          let e := if x.eng.running.isNone then { x.eng with running := some n } else { x.eng with pending := some n }
          .async ((if mode = 5 then s.stepCtr else s).acceptOp e)) s

/-! ### Steps (R221-R223, R229, R230) -/

/-- The number of steps of a nest. -/
def nestTotal (r : Vector Word64 20) : Nat := (nestLevs r).foldl (fun a l => a * l.count) 1

/-- The index vector of a step: level 0 varies fastest (R221). -/
def nestIndex : List NestLev → Nat → List Nat
  | [], _ => []
  | l :: r, n => n % l.count :: nestIndex r (n / l.count)

/-- A linear address at an index vector. -/
def nestSum (base : Int) (f : NestLev → Int) (ls : List NestLev) (is : List Nat) : Nat :=
  ((ls.zip is).foldl (fun a p => a + f p.1 * (p.2 : Int)) base).toNat

/-- What a step reads and writes (R221, R222). -/
structure StepCfg where
  c : NestCfg
  t : Nat
  ab : Nat
  bb : Nat
  sa : Nat
  sb : Nat
  i0 : Nat
  deriving DecidableEq, Repr

/-- The step numbered `n` of a nest (R221). -/
def nestStepCfg (r : Vector Word64 20) (n : Nat) : StepCfg :=
  let c := nestCfg r
  let ls := nestLevs r
  let is := nestIndex ls n
  { c := c, t := nestSum c.accbase (·.dacc) ls is, ab := nestSum c.abase (·.da) ls is, bb := nestSum c.bbase (·.db) ls is,
    sa := nestSum c.sa (·.dsa) ls is, sb := nestSum c.sb (·.dsb) ls is, i0 := is.headD 0 }

/-- The scratchpad ranges a step reads, as (offset, bytes), in the order A, B, A scales, B scales (R222). -/
def StepCfg.spans (g : StepCfg) : List (Nat × Nat) :=
  let c := g.c
  let ks := List.range c.kstep
  let qs := List.range (c.kstep / 32)
  (if c.asrc then [] else ks.map fun k => (g.ab + k * c.aks, 16 * (typeOfCode c.afmt).width)) ++
  (ks.map fun k => (g.bb + k * c.bks, 32 * (typeOfCode c.bfmt).width)) ++
  (if c.sca then qs.map fun q => (g.sa + 128 * q, 128) else []) ++ (if c.scb then qs.map fun q => (g.sb + 256 * q, 256) else [])

/-- The first uncorrectable operand of a step (R230, R218): scratchpad words, then rows of the source tile, then rows of the tile. -/
def stepBad (st : Store) (g : StepCfg) : Option OpFault :=
  match g.spans.findSome? fun p => spadBadAt st p.1 p.2 with
  | some o => some ⟨0x20, BitVec.ofNat 32 (o % 2 ^ 25), 2, BitVec.ofNat 64 o⟩
  | none =>
    match (if g.c.asrc then st.badRow (g.c.abase % 8) (List.range 128) else none) with
    | some r => some (accFault (g.c.abase % 8) r)
    | none => (if g.c.zf && g.i0 == 0 then none else st.badRow g.t (List.range 128)).map (accFault g.t)

/-- Element `i` of a packed run of bits at a scratchpad offset. -/
def spadElem (st : Store) (off w i : Nat) : Nat := leNat (memRead st.spad (off + w * i / 8) ((w + 7) / 8)) / 2 ^ (w * i % 8) % 2 ^ w

/-- A B element with its scale (R222, R123). A scale code 0xFF makes the positive quiet NaN, whatever the element (log entry 57). -/
def bOp (st : Store) (g : StepCfg) (k j : Nat) : FVal :=
  let t := typeOfCode g.c.bfmt
  let x := spadElem st (g.bb + k * g.c.bks) t.width j
  if g.c.scb then
    (let sc := leNat (memRead st.spad (g.sb + 256 * (k / 32) + j) 1)
     if sc = 255 then canonNaN else scaleF ((sc : Int) - 127) (decodeF t x))
  else decodeF t x

/-- An A element with its scale, or converted from the source tile (R222, R223). A scale code 0xFF makes the positive quiet NaN, whatever the
element (log entry 57). -/
def aOp (st : Store) (g : StepCfg) (rd : Rnd) (i k : Nat) : FVal × FFlags :=
  let t := typeOfCode g.c.afmt
  if g.c.asrc then
    (let e := i * 256 + g.i0 * g.c.kstep + k
     let x := convert t .f32 { rd with idx := e } (st.accElem (g.c.abase % 8) e)
     (decodeF t x.1, x.2))
  else
    (let x := spadElem st (g.ab + k * g.c.aks) t.width i
     if g.c.sca then
       (let sc := leNat (memRead st.spad (g.sa + 128 * (k / 32) + i) 1)
        (if sc = 255 then canonNaN else scaleF ((sc : Int) - 127) (decodeF t x), 0))
     else (decodeF t x, 0))

/-- The floating accumulation of one element over the k-indices of a step (R216, R140). -/
def accumF (st : Store) (g : StepCfg) (rd : Rnd) (i j : Nat) (p : Nat) : FRes :=
  (List.range g.c.kstep).foldl
    (fun (a : FRes) k =>
      let x := aOp st g rd i k
      let y := fFma .f32 Rnd.near x.1 (bOp st g k j) (decodeF .f32 a.1)
      (y.1, a.2 ||| x.2 ||| y.2)) (p, 0)

/-- The integer accumulation of one element (R216). -/
def accumI (st : Store) (g : StepCfg) (i j : Nat) (p : Nat) : Nat :=
  let ta := typeOfCode g.c.afmt
  let tb := typeOfCode g.c.bfmt
  (List.range g.c.kstep).foldl
    (fun a k =>
      wrapTo 32 ((a : Int) + decodeI ta (spadElem st (g.ab + k * g.c.aks) ta.width i) * decodeI tb (spadElem st (g.bb + k * g.c.bks) tb.width j))) p

/-- The value a step starts from (R221). -/
def stepStart (st : Store) (g : StepCfg) (i j : Nat) : Nat :=
  if g.c.zf ∧ g.i0 = 0 then (if (typeOfCode g.c.afmt).isInt then 0 else 0x80000000) else st.accElem g.t (i * 256 + j)

/-- A row of the tile after a step, with the flags its elements raise. -/
def stepRow (st : Store) (g : StepCfg) (rd : Rnd) (i : Nat) : List Nat × FFlags :=
  collect
    (fun j =>
      if (typeOfCode g.c.afmt).isInt then (accumI st g i j (stepStart st g i j), 0) else accumF st g rd i j (stepStart st g i j))
    (List.range 256)

/-- The store after a step commits, and its NV and OF (R216, R221): every row is computed from the store as it stood. -/
def commitStep (st : Store) (g : StepCfg) (rd : Rnd) : Store × FFlags :=
  (List.range 128).foldl
    (fun a i => let r := stepRow st g rd i; (a.1.setAccRow g.t i (packRow r.1), a.2 ||| (r.2 &&& 20))) (st, 0)

/-- The rounding an accepted operation keeps (R126, R132). -/
def OpInfo.rnd (o : OpInfo) (sat : Bool) : Rnd := ⟨o.mode.toNat, o.seed, o.ctr, 0, sat⟩

/-- Spare columns in use (R229): they are taken in ascending order, and the last one taken is always mapped. -/
def sparesUsed (x : Tile) : Nat := x.columns.foldl (fun a kv => max a (kv.2 - 255)) 0

/-- The logical column that a physical column serves, if any (R229). -/
def columnOf (x : Tile) (p : Nat) : Option Nat :=
  (List.range 256).find? fun l => smGet l l x.columns == p

/-- ARRAY_DEGRADED of a nest (R230). -/
def degradedFault (col steps : Nat) : OpFault := ⟨0x21, BitVec.ofNat 32 (col + steps % 65536 * 65536), 0, 0⟩

/-- A nest stops at its next step with a fault (R230). -/
def nestFault (s : State) (t : TileId) (n : NestOp) (f : OpFault) : State :=
  let x := s.tile t
  let s := s.setTile t { x with eng := { x.eng with running := some { n with info := { n.info with fault := some f } } } }
  faultOp s t n.info f

/-- A residue mismatch of a physical column (R229, R230, R468): with a spare column left the step is to be replayed. -/
def residueEvent (s : State) (t : TileId) (n : NestOp) (p l : Nat) : State :=
  let x := s.tile t
  let x := { x with residues := bumpLost x.residues }
  let s := (s.setTile t x).countEvent (dieOf t).val 0x04 (t.val % 16) 1
  if sparesUsed x < 8 then
    (s.setTile t { x with
      columns := smSet l l (256 + sparesUsed x) x.columns,
      eng := { x.eng with running := some { n with replay := true } } }).countEvent (dieOf t).val 0x05 (t.val % 16) 1
  else nestFault (s.setTile t { x with degraded := true }) t n (degradedFault p n.steps)

/-- The running nest retires (R224). -/
def nestRetire (s : State) (t : TileId) (n : NestOp) : State :=
  let x := s.tile t
  s.setTile t (retireOp { x with eng := { x.eng with running := none } } n.info)

/-- The nest after a committed step: it continues, or retires with its last (R224). A nest of a service context in share mode beside a task
changes no accumulator (R161). -/
def nestCommit (s : State) (t : TileId) (n : NestOp) : State :=
  let x := s.tile t
  let r := commitStep x.store (nestStepCfg n.regs n.steps) (n.info.rnd false)
  let n := { n with steps := n.steps + 1, replay := false, info := { n.info with flags := n.info.flags ||| r.2 } }
  let x := { x with store := if n.ghost then x.store else r.1 }
  let s := (s.setTile t x).countEvent (dieOf t).val 0x0D (t.val % 16) 1
  if nestTotal n.regs ≤ n.steps then nestRetire s t n
  else s.setTile t { x with eng := { x.eng with running := some n } }

/-- Whether an operand byte of a step stalls on an active range (R316). -/
def stepStalled (x : Tile) (n : NestOp) : Bool :=
  let as := x.actives
  (nestStepCfg n.regs n.steps).spans.any fun p => (stallIn as [] (some n.info.order) p.1 p.2 false).isSome

/-- One nest step (R221): it stops on a degraded tile or an uncorrectable operand, waits on an active range, is squashed by a residue mismatch,
or commits; a replay completes also in a drain (R365); a nest reissued with all its steps committed retires (R374). -/
def nestStep (s : State) (t : TileId) (residue : Option (Fin 264)) : State :=
  let x := s.tile t
  match x.eng.running with
  | none => s
  | some n =>
    if nestTotal n.regs ≤ n.steps then nestRetire s t n
    else if n.info.fault.isSome || (stopsNow x n.info && !n.replay) then s
    else if x.degraded then nestFault s t n (degradedFault 0x1FF n.steps)
    else if stepStalled x n then s
    else
      match stepBad x.store (nestStepCfg n.regs n.steps) with
      | some f => nestFault s t n f
      | none =>
        let s := countSoft s t (softRead x.store (nestStepCfg n.regs n.steps).spans)
        match residue with
        | none => nestCommit s t n
        | some p => (match columnOf x p.val with | some l => residueEvent s t n p.val l | none => s)

/-- NEST_STEP (R221). -/
def execNestStep (t : TileId) (residue : Option (Fin 264)) (s : State) : Out := .next (nestStep s t residue)

/-- NEST_START: a pending nest becomes running when the array is idle (R224). -/
def execNestStart (t : TileId) (s : State) : Out :=
  let x := s.tile t
  match x.eng.running, x.eng.pending with
  | none, some n => if stopsNow x n.info then .next s else .next (s.setTile t { x with eng := { x.eng with running := some n, pending := none } })
  | _, _ => .next s

/-! ### MOUT (R235) -/

/-- The first row of a MOUT that ends beyond the scratchpad. -/
def moutBeyond (off st rb : Nat) : Option Nat :=
  ((List.range 128).find? fun r => spadBytes < off + r * st + rb).map fun r => off + r * st

/-- MOUT (R225, R235). -/
def execMout (td : ElemType) (r : RoundCode) (sat : Bool) (d : Fin 8) (a b : GSrc) (imm : BitVec 32) (sy : Sync) (s : State) : Out :=
  run (.mout td r sat d a b imm sy)
    (fun s =>
      let x := s.me
      let off := s.baseOff a imm
      let st := s.src b
      let rb := moutRowBytes td
      if off.toNat % 64 ≠ 0 then alignTrap off 2
      else if st.toNat % 64 ≠ 0 then alignTrap st 2
      else if st.toNat < rb then illegal (st.setWidth 32)
      else
        match moutBeyond off.toNat st.toNat rb with
        | some o => rangeTrap (BitVec.ofNat 64 o)
        | none =>
          if x.eng.mout.isSome || x.nests.any fun n => (nestTiles n.regs).contains d.val then .stall .other
          else if 32 ≤ asyncCount x then .stall .blocked
          else
            let i : Instr := .mout td r sat d a b imm sy
            let o : MoutOp := { info := opInfo s i (roundMode s r) (s.src a) st 0 0, inst := i, rows := 0 }
            .async ((s.drew r).acceptOp { x.eng with mout := some o })) s

/-- One element of a MOUT row (R235). -/
def moutElem (td : ElemType) (sat : Bool) (rd : Rnd) (e x : Nat) : FRes :=
  match td with
  | .f32 | .s32 => (x, 0)
  | .s8 | .s16 => (encodeI td (if sat then saturate td (decodeI .s32 x) else decodeI .s32 x), 0)
  | _ => convert td .f32 { rd with idx := e } x

/-- The bytes of a MOUT row with its flags. -/
def moutRow (st : Store) (o : MoutOp) : List Byte × FFlags :=
  match o.inst with
  | .mout td _ sat d _ _ _ _ =>
    let rd := o.info.rnd sat
    let r := collect (fun c => moutElem td sat rd (o.rows * 256 + c) (st.accElem d.val (o.rows * 256 + c))) (List.range 256)
    (leBytes (moutRowBytes td) (r.1.foldr (fun e a => e + 2 ^ td.width * a) 0), r.2)
  | _ => ([], 0)

/-- The MOUT retires (R235), which is a sink event (R382). -/
def moutRetire (s : State) (t : TileId) (o : MoutOp) : State :=
  let x := s.tile t
  s.setTile t { retireOp { x with eng := { x.eng with mout := none } } o.info with sink := true }

/-- The MOUT after a written row: it continues, or retires with row 127. -/
def moutNext (s : State) (t : TileId) (o : MoutOp) : State :=
  let x := s.tile t
  let r := moutRow x.store o
  let s := countSoft s t (softWrite x.store [(o.off + o.rows * o.stride, r.1.length)])
  let x := { x with store := spadWrite x.store (o.off + o.rows * o.stride) r.1 }
  let o := { o with rows := o.rows + 1, info := { o.info with flags := o.info.flags ||| r.2 } }
  if 128 ≤ o.rows then moutRetire (s.setTile t x) t o
  else s.setTile t { x with eng := { x.eng with mout := some o } }

/-- One row of a MOUT (R235): it waits on a lease or an active range, stops on an uncorrectable row, or is written; a MOUT reissued with all its
rows written retires (R374). -/
def execMoutRow (t : TileId) (s : State) : Out :=
  let x := s.tile t
  match x.eng.mout with
  | none => .next s
  | some o =>
    if 128 ≤ o.rows then .next (moutRetire s t o)
    else if o.info.fault.isSome || stopsNow x o.info ||
        (spadStall x (some o.info.order) (o.off + o.rows * o.stride) (moutRowBytes (moutType o.inst)) true).isSome then .next s
    else if x.store.accBad.contains (128 * moutTile o.inst + o.rows) then
      let f := accFault (moutTile o.inst) o.rows
      .next (faultOp (s.setTile t { x with eng := { x.eng with mout := some { o with info := { o.info with fault := some f } } } }) t o.info f)
    else .next (moutNext s t o)

/-! ### The other entries -/

/-- MZERO (R238, R225). -/
def execMzero (mask : BitVec 8) (sy : Sync) (s : State) : Out :=
  run (.mzero mask sy)
    (fun s =>
      let x := s.me
      let hit := fun t : Nat => mask.getLsbD t
      if x.nests.any (fun n => (nestTiles n.regs).any hit || ((nestCfg n.regs).asrc && hit ((nestCfg n.regs).abase % 8))) ||
          x.eng.mout.any (fun o => hit (moutTile o.inst)) then .stall .other
      else
        ok (s.setMe { x with store := { x.store with
          acc := x.store.acc.filter fun kv => !hit (kv.1 / 128), accBad := x.store.accBad.filter fun k => !hit (k / 128) } })) s

/-- The start of MGET and MPUT (R236). -/
def accStart (s : State) (e : SrcLit) : Nat := (s.srcZ e).toNat

/-- The start rule of MGET and MPUT (R236). -/
def accStartOk (e n : Nat) : Bool := e % 128 == 0 && e + 128 * n ≤ 32768

/-- The first uncorrectable row that active lanes touch (R218). -/
def accLanesBad (s : State) (t e n : Nat) : Option Flow :=
  (s.me.store.badRow t ((activeLanes s n).map fun j => (e + j) / 256)).map fun r => faultFlow (accFault t r)

/-- MGET (R236). -/
def execMget (n : Group) (d : Fin 64) (a : Fin 8) (e : SrcLit) (sy : Sync) (s : State) : Out :=
  run (.mget n d a e sy)
    (fun s =>
      let k := n.size
      let e0 := accStart s e
      if !accStartOk e0 k then illegal (BitVec.ofNat 32 e0)
      else if s.me.nests.any fun m => (nestTiles m.regs).contains a.val then .stall .other
      else
        match accLanesBad s a.val e0 k with
        | some f => f
        | none =>
          let st := s.me.store
          ok (s.putActive 32 k d fun i => (st.accElem a.val (e0 + i), 0))) s

/-- One element of MPUT (R237). -/
def mputElem (f32 add : Bool) (m x : Nat) : FRes :=
  if !add then (x, 0) else if f32 then fAdd .f32 Rnd.near (decodeF .f32 m) (decodeF .f32 x) else ((m + x) % 2 ^ 32, 0)

/-- MPUT's effect on its active lanes (R237). -/
def mputLanes (st : Store) (t e : Nat) (f32 add : Bool) (src : Nat → Nat) (lanes : List Nat) : Store × FFlags :=
  lanes.foldl
    (fun a j => let y := mputElem f32 add (st.accElem t (e + j)) (src j); (a.1.setAccElem t (e + j) y.1, a.2 ||| y.2)) (st, 0)

/-- MPUT (R237). -/
def execMput (f32 add : Bool) (n : Group) (d : Fin 8) (a : Fin 64) (e : SrcLit) (sy : Sync) (s : State) : Out :=
  run (.mput f32 add n d a e sy)
    (fun s =>
      let x := s.me
      let k := n.size
      let e0 := accStart s e
      if !accStartOk e0 k then illegal (BitVec.ofNat 32 e0)
      else if x.nests.any (fun m => (nestTiles m.regs).contains d.val || ((nestCfg m.regs).asrc && (nestCfg m.regs).abase % 8 == d.val)) ||
          x.eng.mout.any (fun o => moutTile o.inst == d.val) then .stall .other
      else
        match (if add then accLanesBad s d.val e0 k else none) with
        | some f => f
        | none =>
          let g := s.group a k
          let r := mputLanes x.store d.val e0 f32 add (laneOf g 32) (activeLanes s k)
          ok ((s.setMe { x with store := r.1 }).orFlags r.2)) s

/-- MSTAT's doublewords (R239). -/
def mstatVal (x : Tile) (residue : Bool) : Word64 :=
  if residue then x.residues.setWidth 64
  else
    BitVec.ofNat 64
      (ofBool x.eng.running.isSome + ofBool x.eng.pending.isSome * 2 + ofBool x.eng.mout.isSome * 4 + ofBool x.degraded * 8 +
        (8 - sparesUsed x) * 256 + (match x.eng.running with | some n => n.steps % 65536 | none => 0) * 65536)

/-- MSTAT (R239). -/
def execMstat (d : Fin 32) (residue : Bool) (sy : Sync) (s : State) : Out :=
  run (.mstat d residue sy) (fun s => ok (s.writeG d (mstatVal s.me residue))) s

/-- MSYNC (R240). -/
def execMsync (sy : Sync) (s : State) : Out :=
  run (.msync sy)
    (fun s =>
      if s.me.eng.running.isSome || s.me.eng.pending.isSome || s.me.eng.mout.isSome then .stall .blocked else ok s) s

end Sys2Proof.Machine
end

