-- ==== Sys2Proof/Machine/Request.lean ====
section
/-! DEFINITION. Operations on bytes of a sector at its home (R103, R274), and the requests that leave the module (R399-R405, R411, R413, R429)
or go to the host window (R417). -/

namespace Sys2Proof.Machine

/-! ### Operations on a sector -/

/-- An operation on bytes of one sector: a read, a write, or an atomic of R99 (15: ACAS, R102) on `n` bytes with operand `c` and expected
value `e`. -/
inductive GOp where
  | read (n : Nat)
  | write (bs : List Byte)
  | atom (op n c e : Nat)
  deriving DecidableEq, Repr

/-- The number of bytes an operation touches. -/
def GOp.bytes : GOp → Nat
  | .read n => n
  | .write bs => bs.length
  | .atom _ n _ _ => n

/-- The code of an ATOM operation (R99). -/
def AtomOp.code : AtomOp → Nat
  | .add => 0 | .fadd => 1 | .and => 2 | .or => 3 | .xor => 4 | .swap => 5
  | .smin => 6 | .smax => 7 | .zmin => 8 | .zmax => 9 | .amax => 10 | .arrive => 11

/-- The new word of an atomic: `m` is the old word, `c` the operand, `e` ACAS's expected value, all of `n` bytes (R99-R102). -/
def atomNew (op n c e m : Nat) : Nat :=
  let w := 8 * n
  match op with
  | 0 => (m + c) % 2 ^ w
  | 1 => (fAdd .f32 Rnd.near (decodeF .f32 m) (decodeF .f32 c)).1
  | 2 => m &&& c
  | 3 => m ||| c
  | 4 => m ^^^ c
  | 5 => c
  | 6 => if toSigned w m ≤ toSigned w c then m else c
  | 7 => if toSigned w c ≤ toSigned w m then m else c
  | 8 => min m c
  | 9 => max m c
  | 10 => amaxOp m c
  | 11 => arriveOp m
  | 15 => if m = e then c else m
  | _ => m

/-- Whether an atomic writes its word: a failed ACAS writes nothing (R102). -/
def atomWrites (op e m : Nat) : Bool := op != 15 || m == e

/-- An operation performed at the home of HBM byte `idx` (R103, R284, R285): a read or an atomic answers the old bytes. -/
def homeDo (s : State) (idx : Nat) (p : Page) : GOp → HomeRes (List Byte)
  | .read n => homeRead s idx n p
  | .write bs =>
    match homeWrite s idx bs p with
    | .ok _ s => .ok [] s
    | .fault c s => .fault c s
    | .wait s => .wait s
  | .atom op n c e =>
    match homeRead s idx n p with
    | .ok old s =>
      let m := leNat old
      .ok old (if atomWrites op e m then storeSector s idx (leBytes n (atomNew op n c e m)) p else s)
    | .fault c s => .fault c s
    | .wait s => .wait s

/-! ### FABRIC (R409) -/

/-- FABRIC's information word. -/
def fabricInfo (detail sub low : Nat) : BitVec 32 := BitVec.ofNat 32 (detail * 65536 + sub * 256 + low)
/-- The low bits of FABRIC's information word for a scalar access. -/
def fabScalar : Nat := 8

/-! ### Requests to another module -/

/-- Whether a job is quiesced on this module (R429). -/
def jobQuiesced (s : State) (j : Nat) : Bool :=
  s.gang.stuck.any (fun k => k.val == j) || s.gang.ridges.any fun r => r.job.val == j && r.quiesced

/-- Who makes a request: its die, source channel and job, and whether it is one of a tile's (R401, R429). -/
structure Asker where
  die : DieId
  sch : BitVec 16
  job : Nat
  ofTile : Bool
  deriving DecidableEq, Repr

/-- The source channel of a core's scalar accesses (R401). -/
def schScalar (t : TileId) (st : Stream) : BitVec 16 := BitVec.ofNat 16 (t.val * 256 + streamCode st * 64)
/-- The source channel of a transfer channel (R401). -/
def schChannel (t : TileId) (st : Stream) (ch : Nat) : BitVec 16 := BitVec.ofNat 16 (t.val * 256 + streamCode st * 64 + 32 + ch)
/-- The source channel of module-level requests (R401). -/
def schModule : BitVec 16 := 0xFF00

/-- A job number as the packet carries it. -/
def jobIdOf (j : Nat) : JobId := ⟨j % 4096, Nat.mod_lt _ (by decide)⟩

/-- The ATTR field of a page (R401). -/
def attrBits (p : Page) : BitVec 16 :=
  BitVec.ofNat 16
    (p.ord + ofBool p.striped * 4 + ofBool p.tol * 8 + p.tfmt * 16 + ofBool p.sync * 128 + p.key * 256)

/-- The destination die of a global physical address (R401): the die of its window's tile or of its home. -/
def destDie (pa : Nat) (striped : Bool) : DieId :=
  match localTarget (pa % 2 ^ 52) with
  | .window t _ => ⟨t / 16 % 12, Nat.mod_lt _ (by decide)⟩
  | _ => ⟨(stackOf striped (pa % 2 ^ 52)).1 / 2 % 12, Nat.mod_lt _ (by decide)⟩

/-- Whether a global physical address is a scratchpad window. -/
def isWindowPa (pa : Nat) : Bool := match localTarget (pa % 2 ^ 52) with | .window _ _ => true | _ => false

/-- A packet with every field 0. -/
def blankPacket : Packet :=
  { ty := 0, ctl := 0, len := 0, dmod := 0, ddie := 0, sdie := 0, smod := 0, sch := 0, seq := 0, addr := 0, opnd := 0, cmpv := 0, job := 0,
    attr := 0, opc := 0, status := 0, stag := 0, delta := 0, payload := [], check := 0 }

/-- The header flit up to 0x3B (R401). -/
def headerBytes (p : Packet) : List Byte :=
  leBytes 1 p.ty.toNat ++ leBytes 1 p.ctl.toNat ++ leBytes 2 p.len.toNat ++ leBytes 2 p.dmod.toNat ++ leBytes 1 p.ddie.val ++
  leBytes 1 p.sdie.val ++ leBytes 2 p.smod.toNat ++ leBytes 2 p.sch.toNat ++ leBytes 4 p.seq.toNat ++ leBytes 8 p.addr.toNat ++
  leBytes 8 p.opnd.toNat ++ leBytes 8 p.cmpv.toNat ++ leBytes 2 p.job.val ++ leBytes 2 p.attr.toNat ++ leBytes 2 p.opc.toNat ++
  leBytes 1 p.status.toNat ++ zeros 1 ++ leBytes 2 p.stag.toNat ++ zeros 2 ++ leBytes 4 p.delta.toNat ++ zeros 4

/-- CHECK of a packet (R401): CRC-32C over the header up to 0x3B and the payload. -/
def checkOf (p : Packet) : BitVec 32 := BitVec.ofNat 32 (crc32c (headerBytes p ++ p.payload))
/-- A packet with its CHECK. -/
def sealPacket (p : Packet) : Packet := { p with check := checkOf p }
/-- Whether a packet passes CHECK (R401). -/
def packetOk (p : Packet) : Bool := p.check == checkOf p

/-- The flits of a packet (R400). -/
def flitsOf (p : Packet) : Nat := 1 + (p.payload.length + 63) / 64
/-- The virtual channel of a packet (R401, R411). -/
def vcOf (p : Packet) : Fin 8 := ⟨p.ctl.toNat % 8, Nat.mod_lt _ (by decide)⟩

/-- Order and scope codes as OPC carries them (R46, R401). -/
def orderCode : Order → Nat
  | .rlx => 0 | .acq => 1 | .rel => 2 | .ar => 3 | .sc => 4
/-- Scope codes (R46). -/
def scopeCode : Scope → Nat
  | .tile => 0 | .die => 1 | .mod => 2 | .sys => 3

/-- TYPE, VC, LEN, operands and payload of an operation's request (R402, R411); `os` holds order and scope as OPC has them. -/
def opPacket (g : GOp) (win : Bool) (os : Nat) (p : Packet) : Packet :=
  match g with
  | .read n => { p with ty := 0, ctl := if win then 7 else 1, len := BitVec.ofNat 16 n }
  | .write bs => { p with ty := 1, ctl := if win then 7 else 2, len := BitVec.ofNat 16 bs.length, payload := bs }
  | .atom op n c e =>
    { p with ty := 2, ctl := 0, opnd := BitVec.ofNat 64 c, cmpv := BitVec.ofNat 64 (if op = 15 then e else 0),
             opc := BitVec.ofNat 16 (op + (if n = 8 then 3 else 2) * 16 + os * 64) }

/-- The request of an operation at a page (R401); `ordered` sets ORDERED (R404). -/
def reqPacket (a : Asker) (p : Page) (g : GOp) (ordered : Bool) (os : Nat) : Packet :=
  let q := opPacket g (isWindowPa p.pa) os
    { blankPacket with
      dmod := BitVec.ofNat 12 (p.pa / 2 ^ 52), ddie := destDie p.pa p.striped, sdie := a.die, sch := a.sch, addr := BitVec.ofNat 64 p.pa,
      job := jobIdOf a.job, attr := attrBits p }
  if ordered then { q with ctl := q.ctl ||| 8 } else q

/-- The sectors a request touches. -/
def reqSectors (p : Packet) : Nat × Nat := (p.addr.toNat / 64, (p.addr.toNat + max p.len.toNat (if p.ty = 2 then 8 else 1) - 1) / 64)

/-- Whether an unanswered request makes a new one wait for its answer (R404): the same core's to a sector of an SO or RC page, the same
channel's to one of a UO page. -/
def reqConflict (p : Packet) (r : FabReq) : Bool :=
  r.pkt.ty != 4 && p.ty != 4 && r.pkt.dmod == p.dmod &&
  (reqSectors r.pkt).1 ≤ (reqSectors p).2 && (reqSectors p).1 ≤ (reqSectors r.pkt).2 &&
  (if p.attr.toNat % 4 = 2 then r.pkt.sch == p.sch else r.pkt.sch.toNat / 64 == p.sch.toNat / 64)

/-- The unanswered requests of a stream (R404). -/
def unanswered (s : State) (sch : BitVec 16) (dmod : BitVec 12) : Nat :=
  (s.fab.reqs.filter fun r => r.pkt.sch == sch && r.pkt.dmod == dmod).length

/-- The buffer lending of a port. -/
def lendAt (s : State) (p : Nat) : Lend := if h : p < 48 then s.fab.lend[p] else Lend.reset
/-- The module with the buffer lending of one port changed. -/
def updLend (s : State) (p : Nat) (f : Lend → Lend) : State :=
  { s with fab := { s.fab with lend := Vector.ofFn fun i => if i.val = p then f (s.fab.lend[i.val]'i.isLt) else s.fab.lend[i.val]'i.isLt } }

/-- The flits that a port's peer may still be sent on a virtual channel (R413). -/
def Lend.credit (l : Lend) (v : Fin 8) : Nat := (l.peer[v.val]'v.isLt).toNat - l.flying[v.val]'v.isLt

/-- The up port of a die with the most free credit on a channel, if it has room for `n` flits (R403, R413). -/
def sendPort (s : State) (die : DieId) (v : Fin 8) (n : Nat) : Option Nat :=
  ((List.range 4).map (4 * die.val + ·)).foldl
    (fun best p =>
      let c := (lendAt s p).credit v
      if s.fab.portup.getLsbD p && n ≤ c && (match best with | some q => (lendAt s q).credit v < c | none => true) then some p else best) none

/-- Flits that leave on a port are in flight until its peer gives room back (R413). -/
def depart (s : State) (p : Nat) (v : Fin 8) (n : Nat) : State :=
  updLend s p fun l => { l with flying := l.flying.set v.val (l.flying[v.val]'v.isLt + n) v.isLt }

/-- A packet leaves a die's gateway with its CHECK (R401, R403), or waits there for credit (R413); with no port up it is lost. -/
def emit (s : State) (die : DieId) (p : Packet) : State :=
  if portsUp s die.val then
    let n := s.fab.out.length
    let t := { s with fab := { s.fab with out := s.fab.out ++ [sealPacket p] } }
    match sendPort s die (vcOf p) (flitsOf p) with
    | some q => depart t q (vcOf p) (flitsOf p)
    | none => { t with fab := { t.fab with stay := t.fab.stay ++ [(n, die)] } }
  else s

/-- The channel of a request's response (R411). -/
def rspVc (p : Packet) : Fin 8 := if p.ty = 0 then 4 else 5
/-- The flits of a request's response. -/
def rspFlits (p : Packet) : Nat := if p.ty = 0 then 1 + (p.len.toNat + 63) / 64 else 1

/-- Whether room for a request's response can be reserved (R411), beside that of the unanswered requests: in the limits of the up ports together
(log entry 22). -/
def rspRoom (s : State) (p : Packet) : Bool :=
  let v := rspVc p
  let held := (s.fab.reqs.map fun r => if rspVc r.pkt = v then rspFlits r.pkt else 0).foldl (· + ·) 0
  let room := ((List.range 48).map fun i =>
    if s.fab.portup.getLsbD i then ((lendAt s i).limits[v.val]'v.isLt).toNat else 0).foldl (· + ·) 0
  held + rspFlits p ≤ room

/-- Whether a request may leave its gateway now (R404, R405, R411, R413, R429). -/
def canSend (s : State) (a : Asker) (p : Packet) : Bool :=
  !(a.ofTile && jobQuiesced s a.job) && unanswered s p.sch p.dmod < 256 && !s.fab.reqs.any (reqConflict p) &&
  (sendPort s a.die (vcOf p) (flitsOf p)).isSome && rspRoom s p

/-- Nanoseconds as units of module time. -/
def nsUnits (n : Nat) : Nat := n * unitsPerNs

/-- The key of a request stream: source channel and destination module (R404). -/
def streamKey (sch : BitVec 16) (dmod : BitVec 12) : Nat := sch.toNat * 4096 + dmod.toNat

/-- A request leaves with the next SEQ of its stream (R404), is kept until answered, and goes out on the fabric. -/
def sendReq (s : State) (o : Owner) (va : Word64) (p : Packet) : State :=
  let k := streamKey p.sch p.dmod
  let q := smGet 0 k s.fab.seqs
  let p := { p with seq := BitVec.ofNat 32 q, smod := s.fab.modnum }
  emit { s with fab := { s.fab with
      seqs := smSet 0 k ((q + 1) % 2 ^ 32) s.fab.seqs,
      reqs := s.fab.reqs ++ [{ die := p.sdie, pkt := p, owner := o, va := va, tries := 1, at_ := s.time.clk }] } } p.sdie p

/-- A fresh tag. -/
def newTag (s : State) : Nat × State := (s.fab.nextTag, { s with fab := { s.fab with nextTag := s.fab.nextTag + 1 } })

/-- The byte enables of a write of `n` bytes at a host address within its line (R417). -/
def byteEnables (hpa n : Nat) : BitVec 64 := BitVec.ofNat 64 ((2 ^ n - 1) * 2 ^ (hpa % 64))

/-- An access to the host window leaves through the anchor die's port (R417): RdCurr, or WOWrInvF for a whole line, else WOWrInv. -/
def sendWindow (s : State) (o : Owner) (va : Word64) (hpa : Nat) (g : GOp) : State :=
  let (tag, s) := newTag s
  let w : WinReq := { tag := tag, owner := o, write := (match g with | .write _ => true | _ => false), va := va }
  let s := { s with host := { s.host with win := s.host.win ++ [w] } }
  match g with
  | .write bs => s.sendHost (.winWrite tag hpa (bs.length == 64) (byteEnables hpa bs.length) bs)
  | _ => s.sendHost (.winRead tag hpa g.bytes)

/-- A write of bytes of one line of the host window with the byte enables `en` (R417). -/
def sendWindowLine (s : State) (o : Owner) (va : Word64) (hpa : Nat) (en : BitVec 64) (bs : List Byte) : State :=
  let (tag, s) := newTag s
  let s := { s with host := { s.host with win := s.host.win ++ [(⟨tag, o, true, va⟩ : WinReq)] } }
  s.sendHost (.winWrite tag hpa (bs.length == 64 && en == ~~~0) en bs)

/-! ### Translation for an asker -/

/-- What a translation with its checks comes to (R96, R279, R398, R416). -/
inductive Reach where
  | page (p : Page)
  | fault (cause : BitVec 8) (info : BitVec 32)
  | wait

/-- A virtual address translated and checked for an access of `n` bytes (R96, R279); `low` are the low bits of a FABRIC information word, `rw`
says RGET or RPUT. -/
def reach (s : State) (a : Asker) (k : AccKind) (va : Word64) (n low : Nat) (rw : Bool) : Reach × State :=
  match translate s a.die.val a.job va.toNat with
  | (.fault c, s) => (.fault c (va.setWidth 32), s)
  | (.wait, s) => (.wait, s)
  | (.rafter d, s) => (.fault 0x28 (fabricInfo d 3 low), s)
  | (.page p, s) => (match accessCause s a.job k n rw p with | some c => .fault c (va.setWidth 32) | none => .page p, s)

end Sys2Proof.Machine
end

