-- ==== Sys2Proof/Machine/Fetch.lean ====
section
/-! DEFINITION. Fetching an instruction word (R16-R19): the instruction cache of a core, the fill of a missed sector and the next, the
address space of a service context (R461), and whether a context may take an issue slot (R159, R160). -/

namespace Sys2Proof.Machine

/-- A 128-bit word from its 16 bytes (R36). -/
def wordOfBytes (bs : List Byte) : Word128 := BitVec.ofNat 128 (leNat bs)

/-- A word put into an instruction cache of at most 4,096 words (R18). -/
def icInsert (ic : List ICell) (e : ICell) : List ICell :=
  (e :: ic.filter fun x => !(x.kind == e.kind && x.addr == e.addr)).take 4096

/-- The four words of a 64-byte sector put into the cache. -/
def icFill (ic : List ICell) (k : CtxKind) (a : Word64) (bs : List Byte) : List ICell :=
  [0, 1, 2, 3].foldl (fun ic n => icInsert ic ⟨k, a + BitVec.ofNat 64 (16 * n), wordOfBytes ((bs.drop (16 * n)).take 16)⟩) ic

/-- What a fetch answers. -/
inductive FetchRes where
  | word (w : Word128) (s : State)
  | trap (t : TrapInfo) (s : State)
  | wait (s : State)

/-- The job whose space a tile's contexts use; job 0 when the tile holds no task. -/
def tileJob (x : Tile) : Nat := match x.task with | some k => k.job.val | none => 0

/-- Whether an address lies in the firmware's code (R461). -/
def inFwCode (f : FwImage) (a : Nat) : Bool := f.codeBase.toNat ≤ a && a + 16 ≤ f.codeBase.toNat + f.code.length

/-- Whether bytes lie in the firmware's data region (R461). -/
def inFwData (f : FwImage) (a n : Nat) : Bool := f.dataBase.toNat ≤ a && a + n ≤ f.dataBase.toNat + f.dataSize

/-- A fetch trap (R18): cause with the address as information. -/
def fetchTrap (cause : BitVec 8) (pc : Word64) : TrapInfo := { cause := cause, info := pc.setWidth 32, akind := 1, addr := pc }

/-- The word of a service context: firmware code only; elsewhere PERMISSION in the data region, PC_ALIGN or ACCESS (R461, R16). -/
def fetchService (s : State) (pc : Word64) : FetchRes :=
  if pc.toNat % 16 ≠ 0 then .trap (fetchTrap 0x04 pc) s
  else
    match s.hk.fw with
    | none => .trap (fetchTrap 0x10 pc) s
    | some f =>
      if inFwCode f pc.toNat then .word (wordOfBytes ((f.code.drop (pc.toNat - f.codeBase.toNat)).take 16)) s
      else if inFwData f pc.toNat 16 then .trap (fetchTrap 0x11 pc) s
      else .trap (fetchTrap 0x10 pc) s

/-- What a read of a code sector comes to. -/
inductive CodeRes where
  | ok (bs : List Byte) (s : State)
  | fault (cause : BitVec 8) (info : BitVec 32) (s : State)
  | wait (s : State)

/-- A core with its reads of code on other modules changed. -/
def setCodes (s : State) (t : TileId) (st : Stream) (f : List CodeReq → List CodeReq) : State :=
  let x := s.tile t
  let c := x.core st
  s.setTile t (x.setCore st { c with codes := f c.codes })

/-- The read of a code sector on another module (R18, R399): as a scalar READ of its core, one at a time per sector. A prefetch, `pre`, that is not
answered raises nothing. -/
def farCode (s : State) (t : TileId) (st : Stream) (a : Word64) (pre : Bool) (p : Page) : CodeRes :=
  let who : Asker := { die := dieOf t, sch := schScalar t st, job := tileJob (s.tile t), ofTile := true }
  let old := ((s.tile t).core st).codes.find? fun r => r.va == a
  match old.bind (·.bad) with
  | some f => .fault f.1 f.2 (setCodes s t st fun l => l.filter fun r => r.va != a)
  | none =>
    if old.isSome then .wait (setCodes s t st fun l => l.map fun r => if r.va = a then { r with pre := r.pre && pre } else r)
    else if !portsUp s who.die.val then .fault 0x28 (fabricInfo 0 2 fabScalar) s
    else
      let q := reqPacket who p (.read 64) false 0
      if canSend s who q then
        let (tag, s) := newTag s
        .wait (sendReq (setCodes s t st fun l => ⟨tag, a, pre, none⟩ :: l.filter fun r => r.va != a) (.code t.val st tag) a q)
      else .wait s

/-- One sector of user code read at its home (R18, R398): its words, a fault, or a wait. -/
def readCode (s : State) (t : TileId) (st : Stream) (a : Word64) (pre : Bool) : CodeRes :=
  let who : Asker := { die := dieOf t, sch := schScalar t st, job := tileJob (s.tile t), ofTile := true }
  match reach s who .fetch a 16 fabScalar false with
  | (.fault c i, s) => .fault c i s
  | (.wait, s) => .wait s
  | (.page p, s) =>
    match targetOf s p.pa with
    | .hbm h =>
      let idx := hbmIndex p.striped h
      if !rafterOk s who.die.val (dieOfIdx idx) then .fault 0x28 (fabricInfo (dieOfIdx idx) 3 fabScalar) s
      else
        (match homeRead s idx 64 p with
         | .ok bs s => .ok bs s
         | .fault c s => .fault c (a.setWidth 32) s
         | .wait s => .wait s)
    | .remote _ => farCode s t st a pre p
    | _ => .fault 0x10 (a.setWidth 32) s

/-- A core's cache after a filled sector. -/
def fillCore (s : State) (t : TileId) (st : Stream) (a : Word64) (bs : List Byte) : State :=
  let x := s.tile t
  let c := x.core st
  s.setTile t (x.setCore st { c with ic := icFill c.ic .user a bs })

/-- The answer to a read of code on another module: the sector enters the cache; the fault of a sector that is wanted waits for its fetch. -/
def codeAnswer (s : State) (t : TileId) (st : Stream) (tag : Nat) (r : RemoteResp) : State :=
  match ((s.tile t).core st).codes.find? fun q => q.tag == tag with
  | none => s
  | some q =>
    let drop := fun (l : List CodeReq) => l.filter fun x => x.tag != tag
    match r with
    | .data bs =>
      let s := setCodes (fillCore s t st q.va bs) t st drop
      if q.pre then s
      else (match readCode s t st (q.va + 64) true with | .ok b s => fillCore s t st (q.va + 64) b | .wait s => s | .fault _ _ s => s)
    | .fault c i => if q.pre then setCodes s t st drop else setCodes s t st fun l => { q with bad := some (c, i) } :: drop l

/-- The word of a user context on a miss (R18): the sector that holds it, and then the next sequential sector, whose faults raise nothing. -/
def fetchMiss (s : State) (t : TileId) (st : Stream) (pc : Word64) : FetchRes :=
  let a := BitVec.ofNat 64 (pc.toNat / 64 * 64)
  match readCode s t st a false with
  | .wait s => .wait s
  | .fault c i s => .trap { cause := c, info := if c = 0x28 then i else pc.setWidth 32, akind := 1, addr := pc } s
  | .ok bs s =>
    let s := fillCore s t st a bs
    let s := match readCode s t st (a + 64) true with
      | .ok bs2 s => fillCore s t st (a + 64) bs2
      | .wait s => s
      | .fault _ _ s => s
    .word (wordOfBytes ((bs.drop (pc.toNat % 64)).take 16)) s

/-- The word that a user context has fetched and not yet issued is kept with its core (R19): it is not fetched again. -/
def keepWord (t : TileId) (st : Stream) (pc : Word64) : FetchRes → FetchRes
  | .word w s =>
    let x := s.tile t
    .word w (s.setTile t (x.setCore st { x.core st with word := some ⟨.user, pc, w⟩ }))
  | r => r

/-- The word at a user context's PC from the cache, or the fill (R16-R18): PC_ALIGN and ACCESS of a bad PC first (R16, R17). -/
def fetchUser (s : State) (t : TileId) (st : Stream) (pc : Word64) : FetchRes :=
  match ((s.tile t).core st).cached .user pc with
  | some w => .word w s
  | none =>
    if pc.toNat % 16 ≠ 0 then .trap { cause := 0x04, info := pc.setWidth 32, akind := 1, addr := pc } s
    else if 2 ^ 57 ≤ pc.toNat then .trap (fetchTrap 0x10 pc) s
    else fetchMiss s t st pc

/-- The word at a context's PC (R16-R19): of a user context the one it has fetched already, if it has. -/
def fetch (s : State) (t : TileId) (st : Stream) (k : CtxKind) : FetchRes :=
  let c := (s.tile t).core st
  let pc := (c.regs k).pc
  match k with
  | .service => (match c.cached .service pc with | some w => .word w s | none => fetchService s pc)
  | .user =>
    match c.word.filter fun e => e.addr == pc with
    | some e => .word e.word s
    | none => keepWord t st pc (fetchUser s t st pc)

/-- Whether a context of a core holds the core (R21, R160): its instruction has issued and is not accepted. A record read holds nothing
(R308). -/
def holdsCore (c : Core) (k : CtxKind) : Bool :=
  (match c.remote with | some r => r.ctx == k && r.kind != .record | none => false) ||
  (match k with | .user => c.stall.any Stall.holds | .service => c.v.held)

/-- The other context of a core. -/
def otherCtx : CtxKind → CtxKind
  | .user => .service
  | .service => .user

/-- Whether a user context that has been stopped in this clock, by the trap of another stream, may still take its turn of the clock (R361): it
has not had it, and its record is a PEER record of this clock. -/
def mayTrapToo (x : Tile) (c : Core) : Bool :=
  c.stopped && !c.tried && x.drain.draining && c.v.mode == .entered && c.v.trec.peer && c.v.trec.cycle == x.cycle

/-- Whether a user context may take a slot: it is live, nothing has stopped it, and its service context is in share mode (R159); a stopped
context still completes the access it holds (R364), and may trap in the clock in which another stream did (R361). -/
def userMayIssue (x : Tile) (c : Core) : Bool :=
  !c.issued && c.u.life == .live &&
  (if c.stopped then
     (c.pend.isSome && (match c.remote with | some r => r.ctx == .user && (r.resp.isSome || r.here || r.kind == .enq) | none => false)) ||
       mayTrapToo x c
   else c.v.mode == .share)

/-- Whether a service context may take a slot (R159, R160): in entered mode always; in share mode while the tile holds no task, or with
256 of credit, or to go on with an instruction that holds the core. -/
def serviceMayIssue (x : Tile) (c : Core) : Bool :=
  !c.issued && c.v.idle.isNone &&
  (match c.v.mode with
   | .share => x.task.isNone || holdsCore c .service || 256 ≤ c.v.credit
   | _ => c.v.vote.isNone)

/-- Whether a context may issue now: firmware runs from the end of bring-up step 2 (R460, R461), a tile stopped by R373 runs nothing, and the
other context does not hold the core (R21, R160). -/
def mayIssue (s : State) (t : TileId) (st : Stream) (k : CtxKind) : Bool :=
  let x := s.tile t
  let c := x.core st
  3 ≤ s.hk.bring && !s.disp.nofit.contains t.val && !holdsCore c (otherCtx k) &&
  (match k with
   | .user => userMayIssue x c
   | .service => serviceMayIssue x c)

/-- The drain's first trap when the record `r` of a stream is written (R360): if it is that stream's own, it stands at that record's PC. -/
def Drain.atEntry (d : Drain) (r : TrapRec) : Drain :=
  { d with first := d.first.map fun f => if !r.peer && f.stream == r.stream then { f with tpc := r.tpc, word := r.word } else f }

/-- A held access has completed in a core that a drain has stopped: its service context is entered now, with its record as of now (R364,
R360). -/
def enterPending (s : State) (t : TileId) (st : Stream) : State :=
  let x := s.tile t
  let c := x.core st
  match c.pend with
  | some p =>
    if x.drain.quiet then
      if heldUser c then s else s.setTile t (x.setCore st { c with remote := c.ownRemote, pend := none })
    else if heldAccess c then s
    else
      let r := { p with tpc := c.u.regs.pc, word := recordWord c, time := s.ns64, cycle := x.cycle }
      let y := x.setCore st (enterService { c with remote := none } .entered r)
      s.setTile t { y with drain := y.drain.atEntry r }
  | none => s

/-- A word outside the opcode map or with a reserved encoding (R51): ILLEGAL for an unassigned OP, then PRIVILEGE, WRONG_STREAM and
ILLEGAL. -/
def badWordTrap (st : Stream) (k : CtxKind) (w : Word128) : TrapInfo :=
  if !opAssigned (wordOp w) then { cause := 0x01, info := 0 }
  else (classTrap st k (wordOp w) (wordPrivileged w)).getD { cause := 0x01, info := 0 }

/-- What a core's turn comes to before the instruction runs. -/
inductive Ready where
  | go (i : Instr) (s : State)
  | over (s : State)

/-- A core's turn: fetch (step 1 of R35) and decode (steps 2-5) for a context that may issue; nothing for one that may not. -/
def prepare (s : State) (t : TileId) (st : Stream) (k : CtxKind) : Ready :=
  if mayIssue s t st k then
    let s := { s with cur := ⟨t, st, k, 0⟩ }
    match fetch s t st k with
    | .trap ti s => .over (takeTrap s ti)
    | .wait s => .over (markStall s .other)
    | .word w s =>
      match decode w with
      | .ok i => .go i s
      | _ => .over (takeTrap s (badWordTrap st k w))
  else .over s

/-- The end of a core's turn: a stopped context that has completed its held access is left (R364). -/
def afterTurn (s : State) (t : TileId) (st : Stream) : State := enterPending s t st

/-- A cached word leaves an instruction cache (R18). -/
def evictWord (s : State) (t : TileId) (st : Stream) (a : Word64) : State :=
  let x := s.tile t
  let c := x.core st
  s.setTile t (x.setCore st { c with ic := c.ic.filter fun e => e.addr != a })

/-- A cached translation leaves its die's cache (R283). -/
def evictPage (s : State) (n : Nat) : State := { s with disp := { s.disp with tlb := s.disp.tlb.eraseIdx n } }

end Sys2Proof.Machine
end

