-- ==== Sys2Proof/Machine/Tick.lean ====
section
/-! DEFINITION. One tile clock of the module: cycle counters (R26), module time and its slewing (R421), the clocks of queues (R150), the share
credit (R160), the deadlock count (R157, R158, R319) and the watchdog count (R382). -/

namespace Sys2Proof.Machine

/-- Units of module time in one tile clock at a throttle step (R467). -/
def clockUnits (step : BitVec 4) : Nat := 46126080 / (16 - step.toNat)

/-- The part of a remaining correction that one clock slews: at most 100 parts per million (R421). -/
def slewPart (slew : Int) (dt : Nat) : Int :=
  let m : Int := dt / 10000
  if slew > m then m else if slew < -m then -m else slew

/-- Module time after a clock; it never runs backwards (R421). -/
def tickTime (u : TimeUnit) (dt : Nat) : TimeUnit :=
  let p := slewPart u.slew dt
  { u with now := ((u.now + dt : Int) + p).toNat, clk := u.clk + dt, slew := u.slew - p }

/-- Module time stepped, never backwards (R421). -/
def stepTime (u : TimeUnit) (d : Int) : TimeUnit := { u with now := max u.now ((u.now : Int) + d * unitsPerNs).toNat, deferred := none }

/-- The deferred first step comes once no record is armed (R421). -/
def deferredStep (u : TimeUnit) (armed : Bool) : TimeUnit :=
  match u.deferred with
  | some d => if armed then u else stepTime u d
  | none => u

/-- A core at the end of a clock: the marks of the clock are cleared, and the credit of a share mode beside a task is capped and grows
(R160). -/
def tickCore (task : Bool) (c : Core) : Core :=
  let v := { c.v with woke := none }
  let v := if task ∧ v.mode = .share then { v with credit := min v.credit 255 + v.share.toNat } else v
  { c with issued := false, tried := false, v := v }

/-- A queue at the end of a clock (R150). -/
def tickQueue (q : TokQ) : TokQ := { q with fresh := 0, freed := 0, ords := [], freshEnd := false }

/-- Whether a stream counts as blocked in this clock (R157, R319). -/
def streamBlocked (c : Core) : Bool :=
  match c.u.life with
  | .live =>
    c.tried && c.v.mode == .share &&
    (match c.stall with
     | some (.wait _) | some (.post _) | some .spad | some .blocked => true
     | _ => false)
  | _ => true

/-- A stream that is exited, in a declared idle wait, or in entered mode alone (R382). -/
def streamIdle (c : Core) : Bool :=
  match c.u.life with
  | .live => c.v.mode == .alone || c.stall == some .feed || c.stall == some .idleWait
  | _ => true

/-- Whether any stream of a tile is live. -/
def anyLive (x : Tile) : Bool := x.ld.u.life == .live || x.cp.u.life == .live || x.st.u.life == .live

/-- The watchdog exponent in force: the largest of the streams that have not exited (R382). -/
def wdogExp (x : Tile) : Nat :=
  let e := fun (c : Core) => if c.u.life = .live then c.u.wdog.toNat else 0
  max (e x.ld) (max (e x.cp) (e x.st))

/-- The watchdog count after a clock (R382): a sink event makes it 0; a job's tiles do not count while it is quiesced (R429). -/
def tickWatch (quiesced : Bool) (x : Tile) : Nat :=
  if x.task.isNone then x.wcount
  else if x.sink then 0
  else if quiesced then x.wcount
  else if streamIdle x.ld && streamIdle x.cp && streamIdle x.st then x.wcount
  else x.wcount + 1

/-- The deadlock count after a clock (R157, R158). -/
def tickBlocked (stuckOps : Bool) (x : Tile) : Nat :=
  if anyLive x && streamBlocked x.ld && streamBlocked x.cp && streamBlocked x.st && stuckOps then x.blocked + 1 else 0

/-- One clock of a tile. -/
def tickTile (quiesced stuckOps : Bool) (x : Tile) : Tile :=
  let t := x.task.isSome
  { x with
    ld := tickCore t x.ld, cp := tickCore t x.cp, st := tickCore t x.st,
    queues := x.queues.map tickQueue, cycle := x.cycle + 1,
    blocked := if inDrain x then 0 else tickBlocked stuckOps x,
    wcount := if inDrain x then x.wcount else tickWatch quiesced x,
    sink := if inDrain x then x.sink else false }

end Sys2Proof.Machine
end

