-- ==== Sys2Proof/Machine/Maquette.lean ====
section
/-! DEFINITION. Maquettes and the memory-side dataflow array (chapter 15): the field and agreement checks (R338-R347), the stage operations
(R341), the permutation points (R345) and one pass of a window (R344). Nothing here touches the state. -/

namespace Sys2Proof.Machine

/-! ### The record -/

/-- A stage word (R339). -/
structure Stage where
  op : Nat
  t : Nat
  t2 : Nat
  rnd : Nat
  sa : Nat
  sb : Nat
  sc : Nat
  dst : Nat
  cidx : Nat
  sat : Bool
  cond : Nat
  param : Nat
  deriving DecidableEq, Repr

/-- A bit field of a number. -/
def bitsOf (x lo w : Nat) : Nat := x / 2 ^ lo % 2 ^ w

/-- The 16 bytes of stage word `s` as a number (R338). -/
def stageWord (maq : List Byte) (s : Nat) : Nat := fieldAt maq (0x40 + 16 * s) 16

/-- A stage word read (R339). -/
def stageOf (maq : List Byte) (s : Nat) : Stage :=
  let w := stageWord maq s
  { op := bitsOf w 0 8, t := bitsOf w 8 4, t2 := bitsOf w 12 4, rnd := bitsOf w 16 3, sa := bitsOf w 20 3, sb := bitsOf w 23 3,
    sc := bitsOf w 26 3, dst := bitsOf w 29 2, cidx := bitsOf w 32 3, sat := bitsOf w 35 1 == 1, cond := bitsOf w 36 4,
    param := bitsOf w 40 8 }

/-- Stages in use. -/
def nstage (maq : List Byte) : Nat := fieldAt maq 6 1
/-- The reduction stage plus 1, or 0 (R338). -/
def rstage (maq : List Byte) : Nat := fieldAt maq 7 1
/-- The result word's address (R338). -/
def raddr (maq : List Byte) : Nat := fieldAt maq 0x30 8
/-- A constant. -/
def maqConst (maq : List Byte) (k : Nat) : Nat := fieldAt maq (8 + 4 * k) 4

/-- Whether an operation code is defined (R341). -/
def stageOpOk (op : Nat) : Bool := op ≤ 0x0D || (0x10 ≤ op && op ≤ 0x14)

/-- The types an operation takes (R341). -/
def stageTypeOk (op t : Nat) : Bool :=
  if op = 0 then t == 0
  else if op ≤ 6 then t == 6 || t == 7 || t == 13
  else if op = 7 then t == 7 || t == 13
  else if op = 0x0A then t == 6 || t == 7
  else if op = 0x10 then t ≤ 14
  else if op = 0x11 then 8 ≤ t && t ≤ 10
  else if op = 0x12 then 11 ≤ t && t ≤ 13
  else t == 7

/-- The destination formats an operation takes (R341): a conversion of R200, a wide format of DSCL, a narrow one of QBLK, else 0. -/
def stageDestOk (op t t2 : Nat) : Bool :=
  if op = 0x10 then t2 ≤ 14 && cvtPairOk (typeOfCode t2) (typeOfCode t)
  else if op = 0x11 then 11 ≤ t2 && t2 ≤ 13
  else if op = 0x12 then 8 ≤ t2 && t2 ≤ 10
  else t2 == 0

/-- Whether an operation rounds (R341). -/
def stageRounds (op t : Nat) : Bool := ((1 ≤ op && op ≤ 4) && t == 13) || (0x10 ≤ op && op ≤ 0x12)

/-- How many operands an operation reads (R341). -/
def stageArity (op : Nat) : Nat :=
  if op = 0 then 0
  else if op = 4 ∨ op = 8 then 3
  else if op = 9 ∨ op = 0x0A ∨ op = 0x10 ∨ op = 0x12 ∨ op = 0x13 ∨ op = 0x14 then 1
  else 2

/-- An operand code (R340): defined when read, 0 otherwise. -/
def operandOk (n op code : Nat) : Bool := if n < stageArity op then code != 2 && code != 7 else code == 0

/-- The checks of a byte range that must be 0. -/
def zeroChecks (maq : List Byte) (off n : Nat) : List RecCheck := (List.range n).map fun i => recCheck (off + i) (fieldAt maq (off + i) 1 == 0)

/-- The checks of a stage in use, by ascending offset (R339-R346). -/
def stageChecks (maq : List Byte) (s : Nat) : List RecCheck :=
  let o := 0x40 + 16 * s
  let w := stageWord maq s
  let g := stageOf maq s
  [recCheck o (stageOpOk g.op && ((g.op == 0x14) == (rstage maq == s + 1))),
   recCheck (o + 1) (stageTypeOk g.op g.t && stageDestOk g.op g.t g.t2),
   recCheck (o + 2) ((if stageRounds g.op g.t then g.rnd ≤ 6 else g.rnd == 0) && bitsOf w 19 1 == 0 && operandOk 0 g.op g.sa && operandOk 1 g.op g.sb),
   recCheck (o + 3) (operandOk 2 g.op g.sc && g.dst ≤ 1 && ((g.op != 0 && g.op != 0x14) || g.dst == 0) && bitsOf w 31 1 == 0),
   recCheck (o + 4) ((g.op != 0 || g.cidx == 0) && (!g.sat || (1 ≤ g.op && g.op ≤ 4) || g.op == 0x10) &&
     (if g.op = 7 then g.cond ≤ (if g.t = 7 then 11 else 7) else if g.op = 0x14 then g.cond ≤ 5 else g.cond == 0)),
   recCheck (o + 5) (if g.op = 9 ∨ g.op = 0x0A then g.param ≤ 31 else g.param == 0)] ++
  zeroChecks maq (o + 6) 10

/-- The checks of a permutation point (R345). -/
def ppChecks (maq : List Byte) (o : Nat) : List RecCheck :=
  let w := fieldAt maq o 4
  let op := bitsOf w 4 4
  [recCheck o (if op = 0 then bitsOf w 0 4 == 0 else op ≤ 3 && bitsOf w 0 4 < nstage maq),
   recCheck (o + 1) (if op = 0 then bitsOf w 8 8 == 0 else op != 3 || bitsOf w 8 9 ≤ 9),
   recCheck (o + 2) ((op != 0 || bitsOf w 16 1 == 0) && bitsOf w 17 7 == 0), recCheck (o + 3) (bitsOf w 24 8 == 0)]

/-- The field checks of a maquette by ascending offset (R338-R346). -/
def maqChecks (maq : List Byte) : List RecCheck :=
  [recCheck 0 (fieldAt maq 0 2 != 0), recCheck 2 (fieldAt maq 2 1 ≤ 2), recCheck 3 (fieldAt maq 3 1 == 0), recCheck 4 (fieldAt maq 4 1 ≤ 14),
   recCheck 5 (fieldAt maq 5 1 ≤ 14), recCheck 6 (1 ≤ nstage maq && nstage maq ≤ 8), recCheck 7 (rstage maq ≤ 8)] ++
  ppChecks maq 0x28 ++ ppChecks maq 0x2C ++
  [recCheck 0x30 (if rstage maq = 0 then raddr maq == 0 else raddr maq != 0 && raddr maq % 4 == 0)] ++ zeroChecks maq 0x38 8 ++
  (List.range 8).flatMap (fun s =>
    if s < nstage maq then stageChecks maq s
    else recCheck (0x40 + 16 * s) (fieldAt maq (0x40 + 16 * s) 1 == 0 && rstage maq != s + 1) :: zeroChecks maq (0x41 + 16 * s) 15) ++
  zeroChecks maq 0x1C0 60

/-- FIELD of R350: the offset. -/
def maqFieldBad (maq : List Byte) : Option Nat := firstBad (maqChecks maq)

/-! ### Agreement (R347) -/

/-- The maquette kind a transfer takes (R347). -/
def maqKind : Instr → Nat
  | .dst _ _ _ | .dstx _ _ _ => 1
  | .dred _ _ _ => 2
  | _ => 0

/-- Whether an operand of a stage is the scale code (R340). -/
def Stage.readsScale (g : Stage) : Bool :=
  (0 < stageArity g.op && g.sa == 4) || (1 < stageArity g.op && g.sb == 4) || (2 < stageArity g.op && g.sc == 4)

/-- Stages that use scales (R344). -/
def scaleStages (maq : List Byte) : List Nat :=
  (List.range (nstage maq)).filter fun s => let g := stageOf maq s; g.readsScale || g.op == 0x11 || g.op == 0x12

/-- The QBLK stages. -/
def qblkCount (maq : List Byte) : Nat := ((List.range (nstage maq)).filter fun s => (stageOf maq s).op == 0x12).length

/-- The scale rules of R344. -/
def scaleRulesOk (maq : List Byte) (l : Lay) (kind : Nat) : Bool :=
  let u := 4 * l.wm
  let q := qblkCount maq
  (scaleStages maq == [] || (l.base % u == 0 && (l.strides.take l.ndim).all fun st => st % (u : Int) == 0)) &&
  (l.bsc || !(List.range (nstage maq)).any fun s => (stageOf maq s).readsScale) &&
  (q == 0 || (kind == 1 && l.bsc)) && q ≤ 1 && (!(kind == 1 && l.bsc && l.sf != l.fmt) || q == 1)

/-- Whether a record is dense (R345). -/
def denseFrom (size : Int) : List Nat → List Int → Bool
  | n :: ns, st :: sts => st == size && denseFrom (size * n) ns sts
  | _, _ => true

/-- The permutation rules of R345. -/
def permRulesOk (l : Lay) (slices : Bool) : Bool :=
  denseFrom ((l.dims.headD 1 * l.wm / 8 : Nat) : Int) ((l.dims.take l.ndim).drop 1) ((l.strides.take l.ndim).drop 1) &&
  l.base % (64 * l.wm) == 0 && (!slices || l.sliceCount % 512 == 0)

/-- Permutation points in use: the offset of the first. -/
def firstPp (maq : List Byte) : Option Nat :=
  if bitsOf (fieldAt maq 0x28 4) 4 4 ≠ 0 then some 0x28 else if bitsOf (fieldAt maq 0x2C 4) 4 4 ≠ 0 then some 0x2C else none

/-- AGREE of R350: the offset of the maquette field. A required QBLK that is missing reports stage 0 (log entry 16). -/
def maqAgreeBad (maq : List Byte) (l : Lay) (i : Instr) : Option Nat :=
  let k := maqKind i
  let slices := match xkind i with | .slices _ => true | _ => false
  if fieldAt maq 2 1 ≠ k then some 2
  else if fieldAt maq 4 1 ≠ l.fmt then some 4
  else if fieldAt maq 5 1 ≠ l.sf then some 5
  else if !scaleRulesOk maq l k then some (0x40 + 16 * (scaleStages maq).headD 0)
  else
    match firstPp maq with
    | some o => if permRulesOk l slices then none else some o
    | none => none

/-! ### The array -/

/-- What a position holds (R337): containers, active bit, the logical number of its element, its block's scale code (R340), and the pass that
takes its element (R336). -/
structure Box where
  x : Nat
  y : Nat
  act : Bool
  l : Nat
  sc : Nat
  pass : Nat
  deriving DecidableEq, Repr

/-- An inactive position (R337, R340). -/
def Box.idle : Box := ⟨0, 0, false, 0xFFFFFFFF, 0, 0⟩

/-- What a window is run with: maquette, stochastic state, the mode .dyn stands for and the window's number (R342), and the positions, from the
first up to but not including the second, that its total of RED is taken over (R346). -/
structure MdaRun where
  maq : List Byte
  seed : Word64
  ctr : Word64
  dyn : Nat
  widx : Nat
  own : Nat × Nat
  deriving DecidableEq, Repr

/-- The stochastic index of a stage at a position (R342). -/
def mdaIdx (m : MdaRun) (s p k : Nat) : Nat := ((m.widx * 512 + p) * 8 + s + k * 2 ^ 56) % 2 ^ 64

/-- The rounding of a stage at a position. -/
def mdaRnd (m : MdaRun) (g : Stage) (s p k : Nat) : Rnd := ⟨if g.rnd = 6 then m.dyn else g.rnd, m.seed, m.ctr, mdaIdx m s p k, g.sat⟩

/-- An operand (R340). -/
def boxSel (m : MdaRun) (g : Stage) (b : Box) (code : Nat) : Nat :=
  match code with
  | 0 => b.x
  | 1 => b.y
  | 3 => maqConst m.maq g.cidx
  | 4 => b.sc
  | 5 => b.l
  | _ => 0

/-- An integer result wrapped or saturated (R341). -/
def mdaInt (g : Stage) (x : Int) : Nat :=
  let t := typeOfCode g.t
  encodeI t (if g.sat then saturate t x else x)

/-- The conditions by code (R83, R197). -/
def condOf : Nat → Cond
  | 0 => .eq | 1 => .ne | 2 => .lt | 3 => .le | 4 => .gt | 5 => .ge | 6 => .lo | 7 => .ls | 8 => .hi | 9 => .hs | 10 => .tst | _ => .ntst
/-- The floating conditions by code (R197). -/
def fcondOf : Nat → FCond
  | 0 => .eq | 1 => .ne | 2 => .lt | 3 => .le | 4 => .gt | 5 => .ge | 6 => .un | _ => .or

/-- The element-wise operations of R341 but for QBLK and RED. -/
def stageVal (m : MdaRun) (g : Stage) (s p k a b c : Nat) : Nat :=
  let i := fun x => decodeI (typeOfCode g.t) x
  let f := decodeF .f32
  let r := mdaRnd m g s p k
  let fl := g.t == 13
  match g.op with
  | 0x01 => if fl then (fAdd .f32 r (f a) (f b)).1 else mdaInt g (i a + i b)
  | 0x02 => if fl then (fSub .f32 r (f a) (f b)).1 else mdaInt g (i a - i b)
  | 0x03 => if fl then (fMul .f32 r (f a) (f b)).1 else mdaInt g (i a * i b)
  | 0x04 => if fl then (fFma .f32 r (f a) (f b) (f c)).1 else mdaInt g (i a * i b + i c)
  | 0x05 => if fl then (fMin .f32 (f a) (f b)).1 else if i b < i a then b else a
  | 0x06 => if fl then (fMax .f32 (f a) (f b)).1 else if i a < i b then b else a
  | 0x07 => if (if fl then (fCmp (fcondOf g.cond) (f a) (f b)).1 else condHolds (condOf g.cond) 32 a b) then 0xFFFFFFFF else 0
  | 0x08 => if c ≠ 0 then a else b
  | 0x09 => a * 2 ^ g.param % 2 ^ 32
  | 0x0A => if g.t = 6 then encodeI .s32 (i a / 2 ^ g.param) else a / 2 ^ g.param
  | 0x0B => a &&& b
  | 0x0C => a ||| b
  | 0x0D => a ^^^ b
  | 0x10 => let t := typeOfCode g.t; (convert (typeOfCode g.t2) t r (a % 2 ^ t.width)).1
  | 0x11 => let t := typeOfCode g.t; (dequant t (typeOfCode g.t2) r (b % 256) (a % 2 ^ t.width)).1
  | 0x13 => fieldAt m.maq (0xC0 + a % 256) 1
  | _ => 0

/-- The block scale code and elements of QBLK over the 32 containers of a block (R124, R341): `p0` is the block's first position. -/
def qblkVal (m : MdaRun) (g : Stage) (s p0 : Nat) (as : List Nat) : Nat × (Nat → Nat) :=
  let t := typeOfCode g.t
  let xs := as.map fun a => decodeF t (a % 2 ^ t.width)
  match quantScale (typeOfCode g.t2) xs with
  | none => (0xFF, fun _ => 0)
  | some k => (k, fun j => (quantElem (typeOfCode g.t2) (mdaRnd m g s (p0 + j) 0) k (mdaIdx m s (p0 + j) 0) (xs.getD j (.fin false 0 0))).1)

/-- The operator of RED (R346). -/
def redOp (cond a b : Nat) : Nat :=
  match cond with
  | 0 => (a + b) % 2 ^ 32
  | 1 => a ^^^ b
  | 2 => if toSigned 32 a < toSigned 32 b then b else a
  | 3 => if toSigned 32 b < toSigned 32 a then b else a
  | 4 => max a b
  | _ => min a b

/-- The identity of RED (R346). -/
def redId : Nat → Nat
  | 2 => 0x80000000
  | 3 => 0x7FFFFFFF
  | 5 => 0xFFFFFFFF
  | _ => 0

/-- The ATOM of RED (R346). -/
def redAtom : Nat → Nat
  | 0 => 0 | 1 => 4 | 2 => 7 | 3 => 6 | 4 => 9 | _ => 8

/-- A window in the array: its positions, the codes of its blocks from QBLK, and the total of RED. -/
structure Win where
  bs : List Box
  codes : List Nat
  total : Nat
  deriving DecidableEq, Repr

/-- The containers of a window with a stage's results put where DST names (R341). -/
def putDst (g : Stage) (bs : List Box) (ds : List Nat) : List Box :=
  (bs.zip ds).map fun bd => if g.dst = 1 then { bd.1 with y := bd.2 } else { bd.1 with x := bd.2 }

/-- The position whose container position `q` receives at a permutation point (R345). -/
def ppSource (w q : Nat) : Nat :=
  let n := bitsOf w 8 9
  match bitsOf w 4 4 with
  | 1 => q ^^^ n
  | 2 => (q + n) % 512
  | _ => let r := 2 ^ n; let c := 512 / r; q % r * c + q / r

/-- A permutation point: x, y and active bits move (R345). -/
def applyPp (maq : List Byte) (o s : Nat) (bs : List Box) : List Box :=
  let w := fieldAt maq o 4
  if bitsOf w 4 4 = 0 ∨ bitsOf w 0 4 ≠ s then bs
  else
    (List.range 512).map fun q =>
      let b := bs.getD q Box.idle
      let f := bs.getD (ppSource w q) Box.idle
      { b with x := f.x, y := f.y, act := f.act }

/-- One stage over a window (R344). -/
def runStage (m : MdaRun) (s : Nat) (w : Win) : Win :=
  let g := stageOf m.maq s
  let w1 : Win :=
    if g.op = 0 then w
    else if g.op = 0x14 then
      { w with total := ((w.bs.take m.own.2).drop m.own.1).foldl (fun a b => if b.act then redOp g.cond a (boxSel m g b g.sa) else a) (redId g.cond) }
    else if g.op = 0x12 then
      let q := (List.range 16).map fun j => qblkVal m g s (32 * j) (((w.bs.drop (32 * j)).take 32).map fun b => boxSel m g b g.sa)
      { w with codes := q.map (·.1), bs := putDst g w.bs ((List.range 512).map fun p => (q.getD (p / 32) (0, fun _ => 0)).2 (p % 32)) }
    else
      { w with bs := putDst g w.bs ((w.bs.zipIdx).map fun bp =>
          stageVal m g s bp.2 bp.1.pass (boxSel m g bp.1 g.sa) (boxSel m g bp.1 g.sb) (boxSel m g bp.1 g.sc)) }
  { w1 with bs := applyPp m.maq 0x2C s (applyPp m.maq 0x28 s w1.bs) }

/-- A window run through the stages (R344). -/
def runArray (m : MdaRun) (bs : List Box) : Win :=
  (List.range (nstage m.maq)).foldl (fun w s => runStage m s w) ⟨bs, [], 0⟩

/-- The operator of the reduction stage. -/
def redCond (maq : List Byte) : Nat := (stageOf maq (rstage maq - 1)).cond

/-- A window of boxes from the positions that are active. -/
def windowOf (at_ : List (Nat × Box)) : List Box :=
  (List.range 512).map fun p => match at_.find? fun e => e.1 == p with | some e => e.2 | none => Box.idle

end Sys2Proof.Machine
end

