-- ==== Sys2Proof/Machine/Order.lean ====
section
/-! DEFINITION. What an operation on a transfer channel touches (chapter 14): its channel, its faults (R320), the pages of its pieces with
every check (R96, R276, R314), and the order that it owes to operations its core accepted earlier (R299, R300, R303). -/

namespace Sys2Proof.Machine

/-- What part of a piece comes to: its effect is there; a fault; a stall on the scratchpad; nothing can be done now; or its accesses are under
way, with what the state then holds. -/
inductive XR (α : Type) where
  | ok (x : α) (s : State)
  | fault (f : OpFault) (s : State)
  | stall (w : SpadStall) (s : State)
  | wait (s : State)
  | sent (s : State)

/-- Goes on with what a part gave. -/
def XR.bind {α β : Type} (x : XR α) (f : α → State → XR β) : XR β :=
  match x with
  | .ok a s => f a s
  | .fault e s => .fault e s
  | .stall w s => .stall w s
  | .wait s => .wait s
  | .sent s => .sent s

/-! ### The operation in its channel -/

/-- A channel of a tile: the store core's or the load core's. -/
def Tile.chan (x : Tile) (store : Bool) (ch : Fin 8) : Chan :=
  if store then x.eng.chStore[ch.val]'ch.isLt else x.eng.chLoad[ch.val]'ch.isLt

/-- The tile with a channel replaced. -/
def Tile.setChan (x : Tile) (store : Bool) (ch : Fin 8) (c : Chan) : Tile :=
  if store then { x with eng := { x.eng with chStore := x.eng.chStore.set ch.val c ch.isLt } }
  else { x with eng := { x.eng with chLoad := x.eng.chLoad.set ch.val c ch.isLt } }

/-- The stream of a channel. -/
def chanStream (store : Bool) : Stream := if store then .store else .load

/-- The operation of a channel with an acceptance number changed. -/
def Chan.upd (c : Chan) (order : Nat) (f : XferOp → XferOp) : Chan :=
  { c with ops := c.ops.map fun o => if o.info.order = order then f o else o }

/-- The module with one operation of a tile's channel changed. -/
def updOp (s : State) (t : TileId) (store : Bool) (ch : Fin 8) (order : Nat) (f : XferOp → XferOp) : State :=
  let x := s.tile t
  s.setTile t (x.setChan store ch ((x.chan store ch).upd order f))

/-- A transfer's place: its tile and which core's channel. -/
structure Place where
  t : TileId
  store : Bool
  deriving DecidableEq, Repr

/-- The asker of a transfer's requests. -/
def xferAsker (s : State) (pl : Place) (o : XferOp) : Asker :=
  { die := dieOf pl.t, sch := schChannel pl.t (chanStream pl.store) o.ch.val, job := tileJob (s.tile pl.t), ofTile := true }

/-- The module with an operation changed. -/
def putOp (s : State) (pl : Place) (o : XferOp) (f : XferOp → XferOp) : State := updOp s pl.t pl.store o.ch o.info.order f
/-- The ordering kind that counts for an access to a page: a scratchpad, through a window, orders as RC (R303). -/
def ordOf (s : State) (g : Page) : Nat := if g.ord = 2 then (match targetOf s g.pa with | .window _ _ => 1 | _ => 2) else g.ord
/-- What an access of `n` bytes at a page touches. -/
def touchAt (s : State) (g : Page) (n : Nat) : Touch := ⟨g.pa, n, ordOf s g⟩

/-- An operation without an access of a piece under way. -/
def XferOp.landed (o : XferOp) (k part : Nat) : XferOp :=
  { o with out := o.out.erase (k, part), air := o.air.filter fun a => !(a.piece == k && a.part == part) }
/-- An access of a piece, of `n` bytes at a page, is under way. -/
def markOut (s : State) (pl : Place) (o : XferOp) (k part : Nat) (g : Page) (n : Nat) : State :=
  let a : Air := ⟨k, part, touchAt s g n⟩
  putOp s pl o fun o => { o with out := (k, part) :: o.out, air := a :: o.air }
/-- An access of a piece is answered. -/
def markGot (s : State) (pl : Place) (o : XferOp) (k part : Nat) (bs : List Byte) : State :=
  putOp s pl o fun o => let q := o.landed k part; { q with arrived := (k, part, bs) :: q.arrived }
/-- An access of a piece has failed: the piece is not performed. -/
def markBad (s : State) (pl : Place) (o : XferOp) (k part : Nat) : State :=
  putOp s pl o fun o => let q := o.landed k part; { q with bad := k :: q.bad }
/-- The owner of an access of a piece. -/
def pieceOwner (pl : Place) (o : XferOp) (k part : Nat) : Owner := .piece pl.t.val pl.store o.ch.val o.info.order k part

/-! ### Faults (R320, R350, R409) -/

/-- TRANSFER. -/
def xferFault (o : XferOp) (sub detail : Nat) (va : Word64) : OpFault :=
  ⟨0x19, BitVec.ofNat 32 (detail * 65536 + sub * 256 + o.ch.val), 1, va⟩

/-- MAQUETTE. -/
def maqFault (o : XferOp) (sub detail : Nat) (a : Word64) : OpFault :=
  ⟨0x1A, BitVec.ofNat 32 (detail * 65536 + sub * 256 + o.ch.val), 1, a⟩

/-- MEM_UNCORRECTED at a scratchpad offset (R320, R469). -/
def spadFault (a : Nat) : OpFault := ⟨0x20, BitVec.ofNat 32 (a % 2 ^ 25), 2, BitVec.ofNat 64 a⟩

/-- A DFILL. -/
def isDfill : Instr → Bool
  | .dfill _ _ => true
  | _ => false

/-- The fault of a piece for the cause an access meets (R320). -/
def pieceFault (o : XferOp) (cause : BitVec 8) (info : BitVec 32) (va : Word64) : OpFault :=
  if cause = 0x10 then xferFault o 1 0 va
  else if cause = 0x11 then xferFault o 2 0 va
  else if cause = 0x13 ∧ !isDfill o.inst then xferFault o 3 0 va
  else ⟨cause, info, 1, va⟩

/-! ### Pages -/

/-- What kind of access a piece makes (R96, R276, R320). -/
def pieceKind (o : XferOp) (p : Piece) : AccKind :=
  if inbound o.inst then (if o.maq ≠ [] ∧ p.els ≠ [] then .mdaRead else .pieceRead)
  else
    match o.inst with
    | .dfill _ _ => .fill
    | .dred _ _ _ => .combine
    | _ => if o.maq ≠ [] ∧ p.els ≠ [] then .mdaWrite else .pieceWrite

/-- Whether the operation is RGET or RPUT. -/
def isRemoteXfer : Instr → Bool
  | .rget _ _ | .rput _ _ _ => true
  | _ => false

/-- The TFMT that matches a format (R287). -/
def tfmtOf (fmt : Nat) : Nat := if fmt = 8 then 0 else if fmt ≤ 10 then 1 else if fmt = 12 then 2 else if fmt = 11 then 3 else 4

/-- The tolerance rule (R314), of a sector with data, with scales, or with both. -/
def tolOk (l : Lay) (data scale : Bool) (p : Page) : Bool :=
  if l.tol then (!data || (p.tol && p.tfmt == tfmtOf l.fmt)) && (!scale || !p.tol || p.tfmt == 5) else !p.tol || p.key != 0

/-- The page of an access of an operation, after every check (R96, R276, R314, R320). -/
def xferPage (s : State) (pl : Place) (o : XferOp) (k : AccKind) (va n : Nat) (data scale : Bool) : XR Page :=
  let w := BitVec.ofNat 64 va
  let a := xferAsker s pl o
  if 2 ^ 57 ≤ va then .fault (pieceFault o 0x10 (w.setWidth 32) w) s
  else
    match reach s a k w n o.ch.val (isRemoteXfer o.inst) with
    | (.fault c i, s) => .fault (pieceFault o c i w) s
    | (.wait, s) => .wait s
    | (.page p, s) => if hasRecord o.inst ∧ !tolOk o.lay data scale p then .fault (xferFault o 4 0 w) s else .ok p s

/-- The page of a piece, after every check. -/
def piecePage (s : State) (pl : Place) (o : XferOp) (p : Piece) : XR Page :=
  xferPage s pl o (pieceKind o p) p.va p.memBytes (p.els != []) (p.scs != [])

/-! ### What an operation touches -/

/-- Whether the maquette's stages read scale codes (R344). -/
def usesScales (maq : List Byte) : Bool := (List.range (nstage maq)).any fun s => (stageOf maq s).readsScale

/-- Whether an operation reads block scales from memory for its stages (R344); before its maquette is read it may. -/
def XferOp.readsCodes (o : XferOp) : Bool :=
  hasRecord o.inst && o.lay.maq != 0 && o.lay.bsc && maqKind o.inst != 1 && (o.maq == [] || usesScales o.maq)
/-- Whether a QBLK stage writes the block scales to memory (R344). -/
def XferOp.writesCodes (o : XferOp) : Bool :=
  hasRecord o.inst && o.lay.maq != 0 && o.lay.bsc && maqKind o.inst == 1 && o.lay.sf != o.lay.fmt
/-- Whether pieces of an operation end with a result ATOM (R346). -/
def XferOp.reduces (o : XferOp) : Bool := o.maq != [] && rstage o.maq != 0

/-- The page of a piece, if its checks pass. -/
def pageOfPiece (s : State) (pl : Place) (o : XferOp) (p : Piece) : Option Page :=
  if p.stop.isSome then none else match piecePage s pl o p with | .ok g _ => some g | _ => none

/-- The pages of the accesses that a piece makes beside its own sector's, if their checks pass, with their bytes: its block scales in memory
(R344), its result word (R346). -/
def extraPages (s : State) (pl : Place) (o : XferOp) (p : Piece) : List (Page × Nat) :=
  (if (o.readsCodes || o.writesCodes) && p.els != [] && p.stop.isNone then
    (o.scaleRuns p).filterMap fun r =>
      match xferPage s pl o (if o.writesCodes then .mdaWrite else .mdaRead) r.1 r.2.length false true with
      | .ok g _ => some (g, r.2.length)
      | _ => none
   else []) ++
  (if o.reduces && p.els != [] && p.stop.isNone then
    match reach s (xferAsker s pl o) .rmw (BitVec.ofNat 64 (raddr o.maq)) 4 o.ch.val false with
    | (.page g, _) => [(g, 4)]
    | _ => []
   else [])

/-- Bytes from `va`, in parts within one page. -/
def cutPage (va n : Nat) : List (Nat × Nat) :=
  let m := 4096 - va % 4096
  if n ≤ m then [(va, n)] else [(va, m), (va + m, n - m)]

/-- The parts in which a maquette is read (R347): 512 bytes in packets of at most 256, within pages. -/
def maqCuts (a : Nat) : List (Nat × Nat) := cutPage a 256 ++ cutPage (a + 256) 256

/-- The expected version and the offset of a DPF (R322). -/
def dpfFields : Instr → BitVec 16 × BitVec 32
  | .dpf _ _ imm ver _ => (ver, imm)
  | _ => (0, 0)
/-- Whether an operation is a DPF, with its one read still to be made. -/
def dpfLeft (o : XferOp) : Bool := match o.inst with | .dpf _ _ _ _ _ => !o.done.contains 0 | _ => false
/-- The address of a DPF's record. -/
def dpfAddr (o : XferOp) : Word64 := o.info.ra + (dpfFields o.inst).2.signExtend 64

/-- The pages of the records that an operation has still to read, with their bytes (R327, R347). -/
def recordPages (s : State) (pl : Place) (o : XferOp) : List (Page × Nat) :=
  (if dpfLeft o then [((dpfAddr o).toNat, 64)] else if hasRecord o.inst && o.lay.maq != 0 && !o.started then maqCuts o.lay.maq else []).filterMap
    fun a =>
      match reach s (xferAsker s pl o) .record (BitVec.ofNat 64 a.1) a.2 o.ch.val false with
      | (.page g, _) => some (g, a.2)
      | _ => none

/-! ### Order among operations (R299, R300, R303) -/

/-- The strongest ordering kind of what an operation touches (R303), but for its flag. -/
def opOrd (s : State) (pl : Place) (o : XferOp) : Nat :=
  let low := fun (a : Nat) (g : Page × Nat) => min a (ordOf s g.1)
  (recordPages s pl o).foldl low
    ((o.pieces (s.tile pl.t).store).foldl
      (fun a p => (extraPages s pl o p).foldl low (match pageOfPiece s pl o p with | some g => min a (ordOf s g) | none => a)) 2)

/-- The flag of an operation: its address, the atomic written, and its scope (R326, R328). -/
def flagOf (o : XferOp) : Option (Word64 × GOp × Scope) :=
  match o.inst with
  | .dst _ (some f) _ | .dstx _ (some f) _ | .dred _ (some f) _ | .rput _ (some f) _ => some (o.info.rf, .atom 0 8 1 0, f.scope)
  | .rflag _ add sc _ _ _ => some (o.info.ra, .atom (if add then 0 else 5) 8 o.info.rb.toNat 0, sc)
  | _ => none

/-- The page of an operation's flag, if its checks pass. -/
def flagPage (s : State) (pl : Place) (o : XferOp) : Option Page :=
  (flagOf o).bind fun f => match reach s (xferAsker s pl o) .rmw f.1 8 o.ch.val false with | (.page g, _) => some g | _ => none

/-- Whether two touch a byte in common. -/
def Touch.meets (a b : Touch) : Bool := a.pa < b.pa + b.n && b.pa < a.pa + a.n

/-- The bytes that a piece touches, with the ordering kind `ord` (R303): those of its sector at a page, and its scales and result word. -/
def pieceTouches (s : State) (pl : Place) (o : XferOp) (ord : Nat) (p : Piece) : List Touch :=
  (match pageOfPiece s pl o p with
   | some g => (memRuns p.mw p.els p.scs).map fun b => ⟨g.pa + (b.1 / 8 - p.va), (b.2 + 7) / 8 - b.1 / 8, ord⟩
   | none => []) ++
  (extraPages s pl o p).map fun g => ⟨g.1.pa, g.2, ord⟩

/-- What an operation has still to touch: its pieces, of the strongest kind that it touches (R303), the records that it reads, its accesses under
way whatever their pages say now, and its flag. -/
def opLeft (s : State) (pl : Place) (o : XferOp) : List Touch :=
  let k := opOrd s pl o
  ((o.pieces (s.tile pl.t).store).zipIdx.flatMap fun pi => if o.isDone pi.2 pi.1 then [] else pieceTouches s pl o k pi.1) ++
  (recordPages s pl o).map (fun g => ⟨g.1.pa, g.2, k⟩) ++ o.air.map (·.touch) ++
  (if o.flag = .waiting ∨ o.flag = .sent then (match flagPage s pl o with | some g => [touchAt s g 8] | none => []) else [])

/-- The operations of the same core accepted before an acceptance number. -/
def earlierOps (s : State) (pl : Place) (order : Nat) : List XferOp :=
  (s.tile pl.t).xfers.filter fun o => o.info.stream == chanStream pl.store && o.info.order < order

/-- Whether a core's operations accepted earlier have still to touch an SO page (R300). -/
def soLeft (s : State) (pl : Place) (order : Nat) : Bool := (earlierOps s pl order).any fun o => (opLeft s pl o).any fun b => b.ord == 0

/-- Whether an access must wait for what operations accepted earlier by its core have still to touch: the same byte, on SO and RC pages (R299,
R303); anything on an SO page, for one on an SO page (R300). -/
def mustFollow (s : State) (pl : Place) (order : Nat) (a : List Touch) : Bool :=
  (a.any (fun a => a.ord == 0) && soLeft s pl order) ||
  (earlierOps s pl order).any fun o => (opLeft s pl o).any fun b => a.any fun a => a.ord != 2 && b.ord != 2 && a.meets b

/-- Whether a piece must wait for operations accepted earlier. -/
def pieceFollows (s : State) (pl : Place) (o : XferOp) (p : Piece) : Bool :=
  (pageOfPiece s pl o p).isSome && mustFollow s pl o.info.order (pieceTouches s pl o (opOrd s pl o) p)

end Sys2Proof.Machine
end

