-- ==== Sys2Proof/Machine/Remote.lean ====
section
/-! DEFINITION. Accesses wherever their home lies (R274, R395): how a scalar access and a dispatcher's access are performed, sent away and wait
for their answers. -/

namespace Sys2Proof.Machine

/-! ### One access -/

/-- What an access comes to at its target. -/
inductive AccRes where
  | ok (bs : List Byte) (s : State)
  | fault (cause : BitVec 8) (info : BitVec 32) (s : State)
  | wait (s : State)
  | sent (s : State)
  | unsent (s : State)

/-- Performs or sends an operation at a translated page (R276, R395, R398, R409); `dev` is the device register space, `low` the low bits of a
FABRIC information word, `o` the owner of an answer, `tgt` the target. -/
def accessAt (s : State) (a : Asker) (p : Page) (va : Word64) (g : GOp) (low : Nat) (ordered : Bool) (os : Nat) (o : Owner)
    (dev : State → Nat → GOp → List Byte × State) : AccRes :=
  match targetOf s p.pa with
  | .hbm h =>
    let idx := hbmIndex p.striped h
    if !rafterOk s a.die.val (dieOfIdx idx) then .fault 0x28 (fabricInfo (dieOfIdx idx) 3 low) s
    else
      match homeDo s idx p g with
      | .ok bs s => .ok bs s
      | .fault c s => .fault c (va.setWidth 32) s
      | .wait s => .wait s
  | .dev off => if !rafterOk s a.die.val 0 then .fault 0x28 (fabricInfo 0 3 low) s else let r := dev s off g; .ok r.1 r.2
  | .host hpa =>
    if !rafterOk s a.die.val 0 then .fault 0x28 (fabricInfo 0 3 low) s
    else if a.ofTile && jobQuiesced s a.job then .unsent s
    else .sent (sendWindow s o va hpa g)
  | .remote _ =>
    if !portsUp s a.die.val then .fault 0x28 (fabricInfo 0 2 low) s
    else
      let q := reqPacket a p g ordered os
      if canSend s a q then .sent (sendReq s o va q) else .unsent s
  | _ => .fault 0x10 (va.setWidth 32) s

/-- A whole access: translation, checks (R96, R279), then the target. -/
def accessVa (s : State) (a : Asker) (k : AccKind) (va : Word64) (g : GOp) (os : Nat) (o : Owner)
    (dev : State → Nat → GOp → List Byte × State) : AccRes :=
  match reach s a k va g.bytes fabScalar false with
  | (.fault c i, s) => .fault c i s
  | (.wait, s) => .wait s
  | (.page p, s) => accessAt s a p va g fabScalar false os o dev

/-! ### Scalar accesses of a core -/

/-- The acting context as an asker of scalar accesses. -/
def scalarAsker (s : State) : Asker :=
  { die := dieOf s.cur.tile, sch := schScalar s.cur.tile s.cur.stream, job := tileJob s.me, ofTile := true }

/-- The acting core with its outstanding access replaced. -/
def setRemote (s : State) (r : Option Remote) : State := s.setMyCore { s.myCore with remote := r }

/-- The answer to an access belongs to the instruction that made it: one of the same kind for the same address. -/
def sameAccess (s : State) (rk : RemoteKind) (va : Word64) (r : Remote) : Bool :=
  r.ctx == s.cur.ctx && r.va == va &&
  (match rk, r.kind with
   | .scalar, .scalar => true
   | .waitf _, .waitf _ => true
   | .record, .record => true
   | .enq, .enq => true
   | _, _ => false)

/-- How an instruction waits for an access: a record read stalls before acceptance without holding the core (R308); others hold it (R21). -/
def waitFlow (k : RemoteKind) (s : State) : Flow :=
  match k with
  | .record => .raw (markStall { s with cur := { s.cur with tv := 0 } } .other)
  | _ => .hold s

/-- A trap of a global access, in the state its checks leave (R359). -/
def vaTrap (s : State) (cause : BitVec 8) (info : BitVec 32) (va : Word64) : Flow :=
  trapIn s { cause := cause, info := info, akind := 1, addr := va }

/-- Whether a core's access to an SO page must wait for its transfers accepted earlier (R300). -/
def soHeld (s : State) (k : AccKind) (va : Word64) (n : Nat) : Bool :=
  s.cur.stream != .compute &&
  (match (reach s (scalarAsker s) k va n fabScalar false).1 with
   | .page p => p.ord == 0 && soLeft s ⟨s.cur.tile, s.cur.stream == .store⟩ s.me.eng.order
   | _ => false)

/-- Makes a scalar access: what is performed here goes on at once, with no access outstanding; what leaves the module, or must wait at its
home here (R416), is kept in the core. A WAITF comes here for each of its reads (log entry 18). -/
def startAccess (s : State) (rk : RemoteKind) (k : AccKind) (va : Word64) (g : GOp) (os : Nat)
    (dev : State → Nat → GOp → List Byte × State) (fin : State → List Byte → Flow) : Flow :=
  let (tag, s1) := newTag s
  let rem := fun (sent here : Bool) =>
    some { tag := tag, ctx := s.cur.ctx, kind := rk, sent := sent, here := here, resp := none, va := va, at_ := s.time.clk }
  if soHeld s k va g.bytes then waitFlow rk (setRemote s1 (rem false false))
  else match accessVa s1 (scalarAsker s) k va g os (.scalar s.cur.tile.val s.cur.stream tag) dev with
  | .ok bs s => fin (setRemote s none) bs
  | .fault c i s => vaTrap (setRemote s none) c i va
  | .wait s => waitFlow rk (setRemote s (rem false true))
  | .sent s => waitFlow rk (setRemote s (rem true false))
  | .unsent s => waitFlow rk (setRemote s (rem false false))

/-- A scalar access, started or resumed with its answer (R21, R71): an answered one ends the outstanding access. -/
def scalarAccess (s : State) (rk : RemoteKind) (k : AccKind) (va : Word64) (g : GOp) (os : Nat)
    (dev : State → Nat → GOp → List Byte × State) (fin : State → List Byte → Flow) : Flow :=
  match s.myCore.remote.filter (sameAccess s rk va) with
  | none => startAccess s rk k va g os dev fin
  | some r =>
    match r.resp with
    | some (.data bs) => fin (setRemote s none) bs
    | some (.fault c i) => vaTrap (setRemote s none) c i va
    | none => if r.sent then waitFlow rk s else startAccess s rk k va g os dev fin

/-! ### Accesses of the dispatchers -/

/-- The answer to an access of a dispatcher, if it has come. -/
def farGet (s : State) (k : FarKey) : Option RemoteResp := (s.disp.far.find? fun e => e.1 == k).map (·.2)
/-- Records an answer. -/
def farPut (s : State) (k : FarKey) (r : RemoteResp) : State := { s with disp := { s.disp with far := (k, r) :: s.disp.far } }
/-- The kind of an ENQ's ring accesses. -/
def farEnq : Nat := 1
/-- Whether a request is a ring access of the ENQ whose number is `tag`. -/
def Owner.ofEnq (o : Owner) (tag : Nat) : Bool := match o with | .far k => k.kind == farEnq && k.id == tag | _ => false
/-- The kind of a queue's accesses when it takes a packet. -/
def farTake : Nat := 2
/-- The kind of a write index read. -/
def farNotify : Nat := 7

/-- The name of a queue's accesses in its present run. -/
def UQueue.farId (u : UQueue) (q : Nat) : Nat := q + 1024 * u.gen

/-- Whether an access is the write of a read index whose packet is still to be taken (R251). -/
def landingKey (s : State) (k : FarKey) : Bool := k.kind == farTake && k.sub == 4 && s.disp.landing.any fun l => l.run == k.id

/-- Whether an answer is still of use: one of a queue's run that is over is not, but for a read index written. -/
def farLive (s : State) (k : FarKey) : Bool :=
  landingKey s k ||
  (k.kind != farTake && k.kind != farNotify) || (smGet UQueue.reset (k.id % 1024) s.disp.queues).gen == k.id / 1024

/-- Forgets the answers of one action. -/
def farClear (s : State) (kind id sub : Nat) : State :=
  { s with disp := { s.disp with far := s.disp.far.filter fun e => !(e.1.kind == kind && e.1.id == id && e.1.sub == sub) } }
/-- Forgets the answers of every part of one thing's actions. -/
def farForget (s : State) (kind id : Nat) : State :=
  { s with disp := { s.disp with far := s.disp.far.filter fun e => !(e.1.kind == kind && e.1.id == id) } }
/-- Whether an access of a dispatcher is still unanswered. -/
def farPending (s : State) (k : FarKey) : Bool :=
  s.fab.reqs.any (fun r => r.owner == .far k) || s.host.win.any fun r => r.owner == .far k

/-- The parts of [va, va + n) within 64-byte sectors, as (offset, address, bytes). -/
def sectorParts (va n : Nat) : List (Nat × Nat × Nat) :=
  if n = 0 then []
  else
    (List.range ((va + n - 1) / 64 - va / 64 + 1)).map fun i =>
      let lo := max va (64 * (va / 64 + i))
      let hi := min (va + n) (64 * (va / 64 + i + 1))
      (lo - va, lo, hi - lo)

/-- What a dispatcher's access comes to. -/
inductive FarRes where
  | ok (bs : List Byte) (s : State)
  | fault (cause : BitVec 8) (va : Nat) (s : State)
  | wait (s : State)

/-- One part of a dispatcher's access: answered already, still waiting, performed here, or sent with order and scope `os`. A module address
beyond bit 63 does not exist. -/
def farOne (s : State) (a : Asker) (k : FarKey) (acc : AccKind) (va : Nat) (g : GOp) (os : Nat := 0) : FarRes :=
  match farGet s k with
  | some (.data bs) => .ok bs s
  | some (.fault c _) => .fault c va s
  | none =>
    if farPending s k then .wait s
    else if 2 ^ 57 ≤ va then .fault 0x10 va s
    else
      match accessVa s a acc (BitVec.ofNat 64 va) g os (.far k) (fun s _ _ => ([], s)) with
      | .ok bs s => .ok bs (farPut s k (.data bs))
      | .fault c _ s => .fault c va s
      | .wait s => .wait s
      | .sent s => .wait s
      | .unsent s => .wait s

/-- The parts of a dispatcher's access in ascending order: bytes so far, the first fault, or a wait. -/
def farParts (a : Asker) (kind id sub : Nat) (acc : AccKind) (g : Nat → Nat → GOp) :
    Nat → List (Nat × Nat × Nat) → State → FarRes
  | _, [], s => .ok [] s
  | i, (off, va, n) :: r, s =>
    match farOne s a ⟨kind, id, sub, i⟩ acc va (g off n) with
    | .fault c v s => .fault c v s
    | .wait s =>
      (match farParts a kind id sub acc g (i + 1) r s with
       | .fault c v s => .fault c v s
       | .ok _ s => .wait s
       | .wait s => .wait s)
    | .ok bs s =>
      match farParts a kind id sub acc g (i + 1) r s with
      | .ok bs2 s => .ok (bs ++ bs2) s
      | .fault c v s => .fault c v s
      | .wait s => .wait s

/-- A dispatcher's read whose answers are kept for the rest of its action. -/
def farKeepRead (s : State) (a : Asker) (kind id sub : Nat) (acc : AccKind) (va n : Nat) : FarRes :=
  farParts a kind id sub acc (fun _ n => .read n) 0 (sectorParts va n) s

/-- A dispatcher's write whose answers are kept for the rest of its action. -/
def farKeepWrite (s : State) (a : Asker) (kind id sub : Nat) (acc : AccKind) (va : Nat) (bs : List Byte) : FarRes :=
  farParts a kind id sub acc (fun off n => .write ((bs.drop off).take n)) 0 (sectorParts va bs.length) s

/-- A die's dispatcher as an asker for a job. -/
def dispAsker (die : DieId) (job : Nat) : Asker := { die := die, sch := schModule, job := job, ofTile := false }

end Sys2Proof.Machine
end

