-- ==== Sys2Proof/Machine/Pieces.lean ====
section
/-! DEFINITION. Performing one piece of a transfer (R309, R313, R314, R320, R325): its data between the scratchpad and its home, through the
array when the operation has a maquette (R336-R346), or the requests that carry it away (R400-R404, R417). -/

namespace Sys2Proof.Machine

/-! ### Bits -/

/-- A page at a byte `d` beyond the one it was found for. -/
def Page.plus (p : Page) (d : Nat) : Page := { p with pa := p.pa + d }

/-- Elements as one number, lowest first. -/
def packVals (w : Nat) (vs : List Nat) : Nat := vs.foldr (fun e a => e % 2 ^ w + 2 ^ w * a) 0
/-- Element `i` of such a number. -/
def valAt (w x i : Nat) : Nat := x / 2 ^ (w * i) % 2 ^ w
/-- A number with `w` bits from bit `off` replaced. -/
def spliceBits (x off w v : Nat) : Nat := x % 2 ^ off + v % 2 ^ w * 2 ^ off + x / 2 ^ (off + w) * 2 ^ (off + w)

/-- The scratchpad value of an element of a piece. -/
def spadVal (st : Store) (off w : Nat) (e : Elem) : Nat :=
  leNat (memRead st.spad (off + e.sp / 8) ((e.sp % 8 + w + 7) / 8)) / 2 ^ (e.sp % 8) % 2 ^ w

/-- A store after the elements of width `w` of one run of bits [lo, hi) are written: neighbouring bits of shared bytes stay. -/
def putSpan (off w : Nat) (es : List Elem) (f : Elem → Nat) (st : Store) (b : Nat × Nat) : Store :=
  let lo := b.1 / 8
  let n := (b.2 + 7) / 8 - lo
  let old := leNat (memRead st.spad (off + lo) n)
  spadWrite st (off + lo) (leBytes n
    ((es.filter fun e => b.1 ≤ e.sp && e.sp < b.2).foldl (fun x e => spliceBits x (e.sp - 8 * lo) w (f e)) old))

/-- A store after a piece's elements, then its scales, are written to the scratchpad. -/
def piecePut (st : Store) (off : Nat) (p : Piece) (f g : Elem → Nat) : Store :=
  (spanBits 8 p.scs).foldl (putSpan off 8 p.scs g) ((spanBits p.sw p.els).foldl (putSpan off p.sw p.els f) st)

/-- The memory value of an element in bytes that begin at byte `lo`. -/
def memVal (w lo x : Nat) (e : Elem) : Nat := x / 2 ^ (e.bit - 8 * lo) % 2 ^ w

/-! ### Homes -/

/-- Bytes read at one home, sector by sector. -/
def homeReadN (s : State) (p : Page) : List (Nat × Nat × Nat) → HomeRes (List Byte)
  | [] => .ok [] s
  | (_, idx, n) :: r =>
    match homeRead s idx n p with
    | .ok bs s =>
      (match homeReadN s p r with
       | .ok bs2 s => .ok (bs ++ bs2) s
       | .fault c s => .fault c s
       | .wait s => .wait s)
    | .fault c s => .fault c s
    | .wait s => .wait s

/-- Bytes written at one home, sector by sector. -/
def homeWriteN (s : State) (p : Page) (bs : List Byte) : List (Nat × Nat × Nat) → HomeRes Unit
  | [] => .ok () s
  | (off, idx, n) :: r =>
    match homeWrite s idx ((bs.drop off).take n) p with
    | .ok _ s => homeWriteN s p bs r
    | .fault c s => .fault c s
    | .wait s => .wait s

/-- The sectors of a piece at its home: VA and physical address agree below 4 KiB. -/
def homeParts (idx n : Nat) : List (Nat × Nat × Nat) := sectorParts idx n

/-- Bits to be written to memory: bit address, width, value; a later one stands. -/
abbrev Put := Nat × Nat × Nat

/-- A number with puts spliced in, counted from byte `lo`. -/
def splicePuts (lo : Nat) (ps : List Put) (x : Nat) : Nat := ps.foldl (fun x p => spliceBits x (p.1 - 8 * lo) p.2.1 p.2.2) x

/-- The runs of bits that puts fill, ascending. -/
def putRuns (ps : List Put) : List (Nat × Nat) := ps.foldl (fun a p => joinBits (p.1, p.1 + p.2.1) a) []

/-- Puts within one sector, written at the home of byte `idx` for byte `va0`: adjacent whole bytes as one write, others merged with what the
sector holds, as one step (R285, R296). -/
def putGroup (s : State) (p : Page) (idx va0 : Nat) (ps : List Put) : HomeRes Unit :=
  let rs := putRuns ps
  let lo := (rs.headD (0, 0)).1 / 8
  let n := ((rs.getLastD (0, 0)).2 + 7) / 8 - lo
  if rs = [(8 * lo, 8 * (lo + n))] then homeWrite s (idx + (lo - va0)) (leBytes n (splicePuts lo ps 0)) p
  else
    match homeRmw s (idx + (lo - va0)) n p fun old => leBytes n (splicePuts lo ps (leNat old)) with
    | .ok _ s => .ok () s
    | .fault c s => .fault c s
    | .wait s => .wait s

/-- Sectors of puts written. -/
def putGroups (p : Page) (idx va0 : Nat) : List (List Put) → State → HomeRes Unit
  | [], s => .ok () s
  | g :: r, s =>
    match putGroup s p idx va0 g with
    | .ok _ s => putGroups p idx va0 r s
    | .fault c s => .fault c s
    | .wait s => .wait s

/-- Puts by sectors. -/
def sectorsOf (ps : List Put) : List (List Put) := (ps.map (·.1 / 512)).eraseDups.map fun k => ps.filter fun p => p.1 / 512 == k

/-- The module after the part of a piece that did not come to its end: memory as it stood (R350). -/
def faultState (before after : State) : State :=
  { after with
    hbm := before.hbm, sectors := before.sectors, pages := before.pages, sec := { after.sec with roots := before.sec.roots } }

/-- Puts written at their home, all of them or none. -/
def putEls (s : State) (p : Page) (idx va0 : Nat) (ps : List Put) : HomeRes Unit :=
  match putGroups p idx va0 (sectorsOf ps) s with
  | .ok _ t => .ok () t
  | .fault c t => .fault c (faultState s t)
  | .wait t => .wait (faultState s t)

/-- What a write leaves of data elements with their values and of scales with theirs: the last element of each place. -/
def putsOf (p : Piece) (es : List (Elem × Nat)) (g : Elem → Nat) : List Put :=
  es.map (fun e => (e.1.bit, p.mw, e.2)) ++ ((placesOf false p.scs).filterMap List.getLast?).map fun e => (e.bit, 8, g e)

/-- The answer of a home as a part of a piece. -/
def ofHome {α : Type} (o : XferOp) (va : Word64) : HomeRes α → XR α
  | .ok x s => .ok x s
  | .fault c s => .fault (pieceFault o c (va.setWidth 32) va) s
  | .wait s => .wait s

/-- FABRIC of a piece (R409). -/
def pieceFabric (o : XferOp) (detail sub : Nat) (va : Word64) : OpFault := ⟨0x28, fabricInfo detail sub o.ch.val, 1, va⟩

/-- The halves of a maquette copy leave for a module ahead of the operation's first piece there (R402), if both can (R405). -/
def sendHalves (s : State) (pl : Place) (o : XferOp) (dmod : BitVec 12) (ddie : DieId) (va : Word64) : Option State :=
  if o.maq = [] ∨ o.maqTo.contains dmod then some s
  else
    let a := xferAsker s pl o
    let half := fun (k : Nat) => { blankPacket with
      ty := 4, ctl := 3, len := 256, dmod := dmod, ddie := ddie, sdie := a.die, sch := a.sch, job := jobIdOf a.job,
      opc := BitVec.ofNat 16 k, stag := o.stag, payload := (o.maq.drop (256 * k)).take 256 }
    let own := Owner.half pl.t.val pl.store o.ch.val o.info.order
    if canSend s a (half 0) then
      let s := sendReq s own va (half 0)
      if canSend s a (half 1) then some (putOp (sendReq s own va (half 1)) pl o fun o => { o with maqTo := dmod :: o.maqTo }) else none
    else none

/-- A part of a piece leaves the module (R399-R404): `combine` says COMBINE; one on an SO page is ORDERED. -/
def sendPart (s : State) (pl : Place) (o : XferOp) (k part : Nat) (p : Page) (g : GOp) (combine : Bool) (va : Word64) : XR Unit :=
  let a := xferAsker s pl o
  if !portsUp s a.die.val then .fault (pieceFabric o 0 2 va) s
  else
    let q := reqPacket a p g (p.ord == 0) 0
    let n := max g.bytes q.len.toNat
    let q := { q with stag := if o.maq = [] then 0 else o.stag, ty := if combine then 3 else q.ty }
    match sendHalves s pl o q.dmod q.ddie va with
    | none => .wait s
    | some s1 => if canSend s1 a q then .sent (markOut (sendReq s1 (pieceOwner pl o k part) va q) pl o k part p n) else .wait s

/-- A request arriving at a scratchpad window is a sink event of its tile (R410). -/
def sinkAt (s : State) (t : TileId) : State := s.setTile t { s.tile t with sink := true }

/-- The tile of a window number. -/
def winTile (w : Nat) : TileId := ⟨w % 192, Nat.mod_lt _ (by decide)⟩

/-- A read of a scratchpad window (R318): it waits on the ranges of what its tile had accepted when it arrived, with acceptance numbers below
`ord`, and may find an uncorrectable word, which counts at that tile (R468). -/
def windowRead (s : State) (w off n ord : Nat) : HomeRes (List Byte) :=
  let x := s.tile (winTile w)
  if windowStall x ord off n false then .wait s
  else if (spadBadAt x.store off n).isSome then .fault 0x20 (countTile s (winTile w) 0x02)
  else .ok (memRead x.store.spad off n) (countSoft s (winTile w) (softRead x.store [(off, n)]))

/-- A write of a scratchpad window (R318): it waits on those ranges, and on every lease (R227). -/
def windowWrite (s : State) (w off : Nat) (bs : List Byte) (ord : Nat) : HomeRes Unit :=
  let x := s.tile (winTile w)
  if windowStall x ord off bs.length true then .wait s
  else .ok () (countSoft (s.setTile (winTile w) { x with store := spadWrite x.store off bs }) (winTile w) (softWrite x.store [(off, bs.length)]))

/-- The arrival of a piece at a window of this module: the acceptance number that its tile then gives next is kept, and is a sink event of that
tile once (R318, R410). -/
def windowArrive (s : State) (pl : Place) (o : XferOp) (k w : Nat) : Nat × State :=
  match o.came.find? fun a => a.1 == k with
  | some a => (a.2, s)
  | none =>
    let n := (s.tile (winTile w)).eng.order
    (n, sinkAt (putOp s pl o fun o => { o with came := (k, n) :: o.came }) (winTile w))

/-- Bytes of a part of a piece from their home (R274). -/
def partRead (s : State) (pl : Place) (o : XferOp) (k part : Nat) (p : Page) (va n : Nat) : XR (List Byte) :=
  let w := BitVec.ofNat 64 va
  match targetOf s p.pa with
  | .hbm h =>
    let idx := hbmIndex p.striped h
    if !rafterOk s (dieOf pl.t).val (dieOfIdx idx) then .fault (pieceFabric o (dieOfIdx idx) 3 w) s
    else ofHome o w (homeReadN s p (homeParts idx n))
  | .window t off =>
    if !rafterOk s (dieOf pl.t).val (t / 16) then .fault (pieceFabric o (t / 16) 3 w) s
    else
      let (ord, s) := windowArrive s pl o k t
      (match windowRead s t off n ord, spadBadAt (s.tile (winTile t)).store off n with
       | .fault _ s, some a => .fault (spadFault a) s
       | r, _ => ofHome o w r)
  | .host hpa =>
    if !rafterOk s (dieOf pl.t).val 0 then .fault (pieceFabric o 0 3 w) s
    else if jobQuiesced s (tileJob (s.tile pl.t)) then .wait s
    else .sent (markOut (sendWindow s (pieceOwner pl o k part) w hpa (.read n)) pl o k part p n)
  | .remote _ => (sendPart s pl o k part p (.read n) false w).bind fun _ s => .wait s
  | _ => .fault (xferFault o 1 0 w) s

/-! ### Through the array -/

/-- A run of scale bytes of piece `k` from its home; none while it is under way. -/
def scaleGet (s : State) (pl : Place) (o : XferOp) (k j : Nat) (r : ScaleRun) : XR (Option (List Byte)) :=
  match o.ans k (partScale j) with
  | some bs => .ok (some bs) s
  | none =>
    if o.sent k (partScale j) then .ok none s
    else
      (xferPage s pl o .mdaRead r.1 r.2.length false true).bind fun g s =>
        match partRead s pl { o with maq := [] } k (partScale j) g r.1 r.2.length with
        | .ok bs s => .ok (some bs) s
        | .sent s => .ok none s
        | .fault f s => .fault f s
        | .stall w s => .stall w s
        | .wait s => .wait s

/-- The scale codes of runs, by block number; none while a run is under way. -/
def scaleGets (pl : Place) (o : XferOp) (k : Nat) : List (ScaleRun × Nat) → State → XR (Option (List (Nat × Nat)))
  | [], s => .ok (some []) s
  | (r, j) :: rs, s =>
    (scaleGet s pl o k j r).bind fun c s => (scaleGets pl o k rs s).bind fun cs s =>
      .ok (match c, cs with | some c, some cs => some ((r.2.zip (c.map (·.toNat))) ++ cs) | _, _ => none) s

/-- The scale code of each element as a stage reads it (R344): from memory for reads and combines, from the scratchpad for a write whose scales
are delivered there, 0 for one to another format; a free value where the scratchpad format is fmt without delivered scales (log entry 25). -/
def pieceScales (s : State) (pl : Place) (o : XferOp) (k : Nat) (p : Piece) : XR (Elem → Nat) :=
  if !o.lay.bsc ∨ !usesScales o.maq then .ok (fun _ => 0) s
  else if maqKind o.inst ≠ 1 then
    (scaleGets pl o k (o.scaleRuns p).zipIdx s).bind fun cs s =>
      match cs with
      | some cs => .ok (fun e => ((cs.find? fun c => c.1 == e.l / 32).map (·.2)).getD 0) s
      | none => .sent s
  else if o.lay.delivered then
    .ok (fun e => leNat (memRead (s.tile pl.t).store.spad (o.off + round64 o.dataLen + e.sp / p.sw / 32) 1)) s
  else if o.lay.sf = o.lay.fmt then .ok (fun e => (Config.freeScale o.tag (e.l / 32)).toNat) s
  else .ok (fun _ => 0) s

/-- How the maquette of an operation is run on a piece's window. -/
def mdaRunOf (o : XferOp) (p : Piece) : MdaRun := ⟨o.maq, o.info.seed, o.info.ctr, o.info.mode.toNat, p.first.bit / (512 * p.mw), (0, 512)⟩

/-- The position of an element in its window (R336). -/
def posOf (mw : Nat) (e : Elem) : Nat := e.bit % (512 * mw) / mw

/-- A pass of a window (R336, R337): `m` and `v` are the memory and scratchpad values of its elements. -/
def runPass (o : XferOp) (p : Piece) (pass : Nat) (es : List Elem) (m v sc : Elem → Nat) : Win :=
  let kind := maqKind o.inst
  runArray (mdaRunOf o p) (windowOf (es.map fun e => (posOf p.mw e,
    { x := if kind = 1 then v e else m e, y := if kind = 2 then v e else 0, act := true, l := e.l % 2 ^ 32, sc := sc e, pass := pass })))

/-- What a window gives for an element. -/
def winVal (p : Piece) (win : Win) (e : Elem) : Nat := (win.bs.getD (posOf p.mw e) Box.idle).x

/-- The passes of a combine (R336, R349) over memory bytes as a number from byte `lo`: the bytes after them and the total of RED. -/
def combinePasses (o : XferOp) (p : Piece) (lo : Nat) (v sc : Elem → Nat) : List (List Elem × Nat) → Nat × Nat → Nat × Nat
  | [], a => a
  | (es, k) :: r, (x, tot) =>
    let win := runPass o p k es (memVal p.mw lo x) v sc
    combinePasses o p lo v sc r
      (es.foldl (fun x e => spliceBits x (e.bit - 8 * lo) p.mw (winVal p win e)) x, redOp (redCond o.maq) tot win.total)

/-- A maquette is in a stream slot of a stack's array, the slot last used first (R335, R347). -/
def takeSlotOf (s : State) (stack : Nat) (m : MaqSlot) : State :=
  let old := smGet [] stack s.fab.slots
  { s with fab := { s.fab with slots := smSet [] stack ((m :: old.filter (· != m)).take 16) s.fab.slots } }

/-- An operation's maquette takes a slot for one of its windows. -/
def useSlot (s : State) (pl : Place) (o : XferOp) (stack : Nat) : State :=
  let (v, q) := o.maqId.getD (0, 0)
  takeSlotOf s stack ⟨none, tileJob (s.tile pl.t), o.lay.maq, v, q⟩

/-- The stack of a page's home. -/
def stackOfPage (s : State) (p : Page) : Nat := match targetOf s p.pa with | .hbm h => hbmIndex p.striped h / stackBytes | _ => 0

/-- The result ATOM of RED (R346) of a piece; `.sent` while it is under way. -/
def redAtomDo (s : State) (pl : Place) (o : XferOp) (k : Nat) (total : Nat) : XR Unit :=
  if rstage o.maq = 0 ∨ o.has k partRed then .ok () s
  else if o.sent k partRed then .wait s
  else
    let va := BitVec.ofNat 64 (raddr o.maq)
    let a := xferAsker s pl o
    let bad := fun (c : BitVec 8) (i : BitVec 32) (s : State) =>
      if c = 0x28 then XR.fault (α := Unit) ⟨0x28, i, 1, va⟩ s else XR.fault (maqFault o 6 c.toNat va) s
    match reach s a .rmw va 4 o.ch.val false with
    | (.fault c i, s) => bad c i s
    | (.wait, s) => .wait s
    | (.page p, s) =>
      match accessAt s a p va (.atom (redAtom (redCond o.maq)) 4 total 0) o.ch.val false (3 * 8) (.red pl.t.val pl.store o.ch.val o.info.order k)
          (fun s _ _ => ([], s)) with
      | .ok _ s => .ok () s
      | .fault c i s => bad c i s
      | .wait s => .wait s
      | .sent s => .sent (markOut s pl o k partRed p 4)
      | .unsent s => .wait s

/-- The scratchpad bytes that a piece touches, as (relative byte, bytes): its elements, and the delivered scales that a write's stages read
(R344). -/
def XferOp.touched (o : XferOp) (p : Piece) : List (Nat × Nat) :=
  if maqKind o.inst = 1 ∧ o.maq ≠ [] ∧ o.lay.delivered ∧ usesScales o.maq then
    p.spans ++ ((p.els.map fun e => round64 o.dataLen + e.sp / p.sw / 32).eraseDups.map fun b => (b, 1))
  else p.spans

/-- The scratchpad check of a piece: the ranges and leases of everything accepted before it (R227, R316). -/
def pieceStall (x : Tile) (o : XferOp) (p : Piece) : Option SpadStall :=
  if hasRange o.inst then (o.touched p).findSome? fun b => spadStall x (some o.info.order) (o.off + b.1) b.2 (inbound o.inst) else none

/-- A piece's elements and scales enter the scratchpad, unless it stalls there. -/
def landPiece (s : State) (pl : Place) (o : XferOp) (p : Piece) (f g : Elem → Nat) : XR Unit :=
  let t := s.tile pl.t
  match pieceStall t o p with
  | some w => .stall w s
  | none => .ok () (s.setTile pl.t { t with store := piecePut t.store o.off p f g })

/-- Whether a page's target is on another module or the host. -/
def leaves (s : State) (p : Page) : Bool := match targetOf s p.pa with | .remote _ | .host _ => true | _ => false

/-- The value that parts come back with for an element of width `w`: bits of memory from a plain part, else an element of the scratchpad format
through a maquette. -/
def partVal (o : XferOp) (k : Nat) (p : Piece) (raw : Bool) (w : Nat) (e : Elem) : Nat :=
  match (o.parts p).zipIdx.find? fun q => q.1.raw == raw && decide (8 * q.1.va ≤ e.bit ∧ e.bit < 8 * (q.1.va + q.1.bytes)) with
  | none => 0
  | some (q, i) =>
    let x := leNat ((o.ans k (partData i)).getD [])
    if raw then memVal w q.va x e else valAt p.sw x ((e.bit - 8 * q.va) / p.mw)

/-- A piece whose parts have all come back lands. -/
def landParts (s : State) (pl : Place) (o : XferOp) (k : Nat) (p : Piece) : XR Unit :=
  landPiece s pl o p (partVal o k p (o.maq == []) p.mw) (partVal o k p true 8)

/-- The inbound parts of a piece leave (R400): each that has not been sent, as far as they can go. -/
def sendReads (pl : Place) (o : XferOp) (k va0 : Nat) (g : Page) : List (Part × Nat) → State → XR Unit
  | [], s => .sent s
  | (q, i) :: r, s =>
    if o.sent k (partData i) ∨ o.has k (partData i) then sendReads pl o k va0 g r s
    else
      match partRead s pl (if q.raw then { o with maq := [] } else o) k (partData i) (g.plus (q.va - va0)) q.va q.bytes with
      | .sent s => sendReads pl o k va0 g r s
      | .wait s => .wait s
      | .fault f s => .fault f s
      | .stall w s => .stall w s
      | .ok _ s => .wait s

/-- The bytes that keep a read window's results until its result ATOM is answered: its data elements, then its scales. -/
def keepVals (p : Piece) (f g : Elem → Nat) : List Byte :=
  leBytes ((p.els.length * p.sw + 7) / 8) (packVals p.sw (p.els.map f)) ++ p.scs.map fun e => BitVec.ofNat 8 (g e)

/-- A piece whose results were kept lands. -/
def landVals (s : State) (pl : Place) (o : XferOp) (p : Piece) (bs : List Byte) : XR Unit :=
  let n := (p.els.length * p.sw + 7) / 8
  landPiece s pl o p (fun e => valAt p.sw (leNat (bs.take n)) (p.els.idxOf e)) (fun e => leNat ((bs.drop (n + p.scs.idxOf e)).take 1))

/-- A read through the array of a home of this module (R337, R344): the result ATOM comes before the results land (R346). -/
def inMda (s : State) (pl : Place) (o : XferOp) (k : Nat) (p : Piece) (g : Page) : XR Unit :=
  (pieceScales s pl o k p).bind fun sc s =>
    (partRead s pl o k (partData 0) g p.va p.memBytes).bind fun bs s =>
      let win := runPass o p 0 (p.firsts true) (memVal p.mw p.va (leNat bs)) (fun _ => 0) sc
      let s := useSlot s pl o (stackOfPage s g)
      let scales := memVal 8 p.va (leNat bs)
      match redAtomDo s pl o k win.total with
      | .ok _ s => landPiece s pl o p (winVal p win) scales
      | .sent s => .sent (markGot s pl o k partVals (keepVals p (winVal p win) scales))
      | other => other

/-- Whether part of a piece has been sent or answered. -/
def XferOp.begun (o : XferOp) (k : Nat) : Bool := o.out.any (fun a => a.1 == k) || o.arrived.any fun a => a.1 == k

/-- Whether every data part of a piece is answered. -/
def XferOp.allBack (o : XferOp) (k : Nat) (p : Piece) : Bool := (o.parts p).zipIdx.all fun q => o.has k (partData q.2)

/-- An inbound piece (R323-R325): from its home, through the array, to the scratchpad. -/
def inPiece (s : State) (pl : Place) (o : XferOp) (k : Nat) (p : Piece) : XR Unit :=
  match o.ans k partVals with
  | some bs => if o.has k partRed then landVals s pl o p bs else .wait s
  | none =>
    if o.allBack k p then landParts s pl o k p
    else
      (piecePage s pl o p).bind fun g s =>
        if leaves s g then sendReads pl o k p.va g (o.parts p).zipIdx s
        else
          match pieceStall (s.tile pl.t) o p with
          | some w => .stall w s
          | none =>
            if o.maq = [] ∨ p.els = [] then
              (partRead s pl { o with maq := [] } k (partData 0) g p.va p.memBytes).bind fun bs s =>
                landPiece s pl o p (memVal p.mw p.va (leNat bs)) (memVal 8 p.va (leNat bs))
            else inMda s pl o k p g

/-- The scale codes that a QBLK stage gives for the blocks of a piece (R344), by block. -/
def qblkCodes (o : XferOp) (p : Piece) (win : Win) : List (Nat × Nat) :=
  if o.writesCodes then
    p.blocks.map fun b => (b, win.codes.getD (posOf p.mw ((p.els.find? fun e => e.l / 32 == b).getD ⟨0, 0, 0⟩) / 32) 0)
  else []

/-- The codes wait to be written, run by run. -/
def keepCodes (s : State) (pl : Place) (o : XferOp) (k : Nat) (p : Piece) (cs : List (Nat × Nat)) : State :=
  if cs = [] then s
  else
    (o.scaleRuns p).zipIdx.foldl (fun s rj => markGot s pl o k (partCode rj.2) (rj.1.2.map fun b =>
      BitVec.ofNat 8 (((cs.find? fun c => c.1 == b).map (·.2)).getD 0))) s

/-- Whether the codes of a piece have been kept. -/
def XferOp.codesKept (o : XferOp) (k : Nat) : Bool := o.arrived.any fun a => a.1 == k && a.2.1 % 4 == 2

/-- The runs of scale codes of a piece that have still to be written, with their numbers and bytes. -/
def XferOp.codesLeft (o : XferOp) (k : Nat) (p : Piece) : List (ScaleRun × Nat × List Byte) :=
  (o.scaleRuns p).zipIdx.filterMap fun rj =>
    match o.ans k (partCode rj.2) with
    | some c => if o.has k (partScale rj.2) ∨ o.sent k (partScale rj.2) then none else some (rj.1, rj.2, c)
    | none => none

/-- What a run of scale codes writes. -/
def codePuts (c : ScaleRun × Nat × List Byte) : List Put := c.2.2.zipIdx.map fun b => ((c.1.1 + b.2) * 8, 8, b.1.toNat)

/-- The scale codes of a piece that have still to be written, to their homes (R344): those of one sector of this module as one (R296), those of
another module run by run. -/
def putCodes (pl : Place) (o : XferOp) (k : Nat) (p : Piece) : Nat → State → XR Unit
  | 0, s => .ok () s
  | n + 1, s =>
    let o := ((s.tile pl.t).chan pl.store o.ch).ops.find? (fun q => q.info.order == o.info.order) |>.getD o
    match o.codesLeft k p with
    | [] => .ok () s
    | c :: r =>
      let va := BitVec.ofNat 64 c.1.1
      (xferPage s pl o .mdaWrite c.1.1 c.1.2.length false true).bind fun g s =>
        match targetOf s g.pa with
        | .hbm h =>
          let idx := hbmIndex g.striped h
          let mine := c :: r.filter fun d => d.1.1 / 64 == c.1.1 / 64
          if !rafterOk s (dieOf pl.t).val (dieOfIdx idx) then .fault (pieceFabric o (dieOfIdx idx) 3 va) s
          else
            (ofHome o va (putEls s g idx c.1.1 (mine.flatMap codePuts))).bind fun _ s =>
              putCodes pl o k p n (mine.foldl (fun s d => markGot s pl o k (partScale d.2.1) []) s)
        | .remote _ =>
          (match sendPart s pl { o with maq := [] } k (partScale c.2.1) g (.write c.2.2) false va with
           | .sent s => putCodes pl o k p n s
           | .ok _ s => .wait s
           | .fault f s => .fault f s
           | .stall w s => .stall w s
           | .wait s => .wait s)
        | _ => .fault (xferFault o 1 0 va) s

/-- Whether every scale code of a piece is written. -/
def XferOp.codesDone (o : XferOp) (k : Nat) (p : Piece) : Bool :=
  (o.scaleRuns p).zipIdx.all fun rj => !o.has k (partCode rj.2) || o.has k (partScale rj.2)

/-- Whether an outbound piece that has left is performed: its data, its scale codes, and nothing of it under way. -/
def XferOp.pieceOver (o : XferOp) (k : Nat) (p : Piece) : Bool :=
  (o.has k partDone || o.allBack k p) && o.codesDone k p && !o.out.any fun a => a.1 == k

/-- A window of a write or combine stream (R337, R344): the values that stand, the codes of QBLK, the total of RED. -/
structure WinOut where
  vals : List (Elem × Nat)
  codes : List (Nat × Nat)
  total : Nat

/-- A write stream's window: the elements that stand make its pass (R336). -/
def writeWin (o : XferOp) (p : Piece) (v sc : Elem → Nat) : WinOut :=
  let es := p.lasts true
  let win := runPass o p 0 es (fun _ => 0) v sc
  ⟨es.map fun e => (e, winVal p win e), qblkCodes o p win, win.total⟩

/-- A combine stream's window over the memory bytes of its piece. -/
def combineWin (o : XferOp) (p : Piece) (v sc : Elem → Nat) (bs : List Byte) : WinOut :=
  let (x, tot) := combinePasses o p p.va v sc p.passes.zipIdx (leNat bs, redId (redCond o.maq))
  ⟨(p.lasts true).map fun e => (e, memVal p.mw p.va x e), [], tot⟩

/-- After a piece's data is performed at its home: the codes of QBLK wait to be written, or nothing is left. -/
def dataDone (s : State) (pl : Place) (o : XferOp) (k : Nat) (p : Piece) (w : WinOut) : XR Unit :=
  if w.codes = [] then .ok () s else .sent (keepCodes (markGot s pl o k partDone []) pl o k p w.codes)

/-- A write stream's piece at a home of this module: the result ATOM first, so that a piece whose ATOM faults is not performed (R350), and only
when the write itself can be performed. -/
def writeMda (s : State) (pl : Place) (o : XferOp) (k : Nat) (p : Piece) (g : Page) (idx : Nat) (v c sc : Elem → Nat) : XR Unit :=
  let w := writeWin o p v sc
  let va := BitVec.ofNat 64 p.va
  let put := fun (s : State) => ofHome o va (putEls s g idx p.va (putsOf p w.vals c))
  (put s).bind fun _ _ =>
    (redAtomDo s pl o k w.total).bind fun _ s1 => (put s1).bind fun _ s2 => dataDone s2 pl o k p w

/-- The owner of a piece's result ATOM. -/
def redOwner (pl : Place) (o : XferOp) (k : Nat) : Owner := .red pl.t.val pl.store o.ch.val o.info.order k

/-- A combine pass held for its result ATOM. -/
def lockOf (s : State) (ow : Owner) : Option Lock := s.fab.locks.find? fun l => l.owner == ow
/-- The module without a held combine pass. -/
def unlock (s : State) (ow : Owner) : State := { s with fab := { s.fab with locks := s.fab.locks.filter fun l => l.owner != ow } }
/-- A combine pass is held: nothing else reaches its sectors until it is over (R349). -/
def hold (s : State) (ow : Owner) (g : Page) (idx va : Nat) (ps : List Put) : State :=
  let secs := (ps.map fun p => (idx + (p.1 / 8 - va)) / 64).eraseDups
  { s with fab := { s.fab with locks := ⟨ow, secs, g, idx, va, ps⟩ :: s.fab.locks } }
/-- A held combine pass is written, its result ATOM performed. -/
def commit (s : State) (l : Lock) : HomeRes Unit :=
  match putEls (unlock s l.owner) l.page l.idx l.va l.puts with
  | .ok _ t => .ok () t
  | .fault c t => .fault c t
  | .wait _ => .wait s

/-- A combine stream's piece at a home of this module (R349): read, combined and written as one step with its result ATOM; one whose ATOM leaves
the module writes nothing, and keeps its sectors, until the ATOM is answered (R346, R350). -/
def combineMda (s : State) (pl : Place) (o : XferOp) (k : Nat) (p : Piece) (g : Page) (idx : Nat) (v sc : Elem → Nat) : XR Unit :=
  let va := BitVec.ofNat 64 p.va
  (partRead s pl o k (partData 0) g p.va p.memBytes).bind fun bs s1 =>
    let w := combineWin o p v sc bs
    let ps := putsOf p w.vals v
    (ofHome o va (putEls s1 g idx p.va ps)).bind fun _ s2 =>
      match redAtomDo s2 pl o k w.total with
      | .ok _ s3 => .ok () s3
      | .sent s3 => .sent (hold (faultState s s3) (redOwner pl o k) g idx p.va ps)
      | .wait s3 => .wait (faultState s s3)
      | other => other

/-- The first uncorrectable scratchpad word that an outbound piece reads. -/
def pieceBad (x : Tile) (o : XferOp) (p : Piece) : Option OpFault :=
  if hasRange o.inst then ((o.touched p).findSome? fun b => spadBadAt x.store (o.off + b.1) b.2).map spadFault else none

/-- The value that an outbound piece takes for an element (R325): from the scratchpad, or DFILL's pattern by address. -/
def outVal (x : Tile) (o : XferOp) (p : Piece) (e : Elem) : Nat :=
  if isDfill o.inst then valAt 8 o.info.rb.toNat (e.bit / 8 % 8) else spadVal x.store o.off p.sw e

/-- The value that an outbound piece takes for a block scale. -/
def outScale (x : Tile) (o : XferOp) (e : Elem) : Nat := spadVal x.store o.off 8 e

/-- What a part of an outbound piece carries: bytes of memory, or elements of the scratchpad format through a maquette. -/
def partBytes (p : Piece) (v g : Elem → Nat) (q : Part) : List Byte :=
  if q.raw then ((leBytes p.memBytes (splicePuts p.va (putsOf p ((p.lasts false).map fun e => (e, v e)) g) 0)).drop (q.va - p.va)).take q.bytes
  else leBytes ((q.els.length * p.sw + 7) / 8) (packVals p.sw (q.els.map v))

/-- The outbound parts of a piece leave for another module, each that has not been sent, as far as they can go. -/
def sendWrites (pl : Place) (o : XferOp) (k : Nat) (p : Piece) (g : Page) (v c : Elem → Nat) : List (Part × Nat) → State → XR Unit
  | [], s => .sent s
  | (q, i) :: r, s =>
    if o.sent k (partData i) ∨ o.has k (partData i) then sendWrites pl o k p g v c r s
    else
      match sendPart s pl (if q.raw then { o with maq := [] } else o) k (partData i) (g.plus (q.va - p.va)) (.write (partBytes p v c q))
          (isDred o.inst) (BitVec.ofNat 64 q.va) with
      | .sent s => sendWrites pl o k p g v c r s
      | other => other

/-- A piece written to the host window as one line with byte enables (R417); its other parts go with it. -/
def sendLine (s : State) (pl : Place) (o : XferOp) (k : Nat) (p : Piece) (g : Page) (hpa : Nat) (v c : Elem → Nat) : XR Unit :=
  if !rafterOk s (dieOf pl.t).val 0 then .fault (pieceFabric o 0 3 (BitVec.ofNat 64 p.va)) s
  else if o.begun k then .wait s
  else if jobQuiesced s (tileJob (s.tile pl.t)) then .wait s
  else
    let ps := o.parts p
    let en := ps.foldl (fun a q => a ||| byteEnables (hpa + (q.va - p.va)) q.bytes) 0
    let bs := leBytes p.memBytes (splicePuts p.va (putsOf p ((p.lasts false).map fun e => (e, v e)) c) 0)
    let s := markOut (sendWindowLine s (pieceOwner pl o k (partData 0)) (BitVec.ofNat 64 p.va) hpa en bs) pl o k (partData 0) g p.memBytes
    .sent ((List.range (ps.length - 1)).foldl (fun s i => markGot s pl o k (partData (i + 1)) []) s)

/-- An outbound piece that leaves the module (R344, R400, R417): the source writes the scale codes of a QBLK stage, which no answer carries
back (log entry 26). -/
def outAway (s : State) (pl : Place) (o : XferOp) (k : Nat) (p : Piece) (g : Page) (v c : Elem → Nat) : XR Unit :=
  match targetOf s g.pa with
  | .host hpa => sendLine s pl o k p g hpa v c
  | _ =>
    let s := if o.writesCodes ∧ o.maq ≠ [] ∧ !o.codesKept k then keepCodes s pl o k p (writeWin o p v fun _ => 0).codes else s
    sendWrites pl o k p g v c (o.parts p).zipIdx s

/-- An outbound piece at a target of this module (R323-R325, R337, R344). -/
def outHere (s : State) (pl : Place) (o : XferOp) (k : Nat) (p : Piece) (g : Page) (v c : Elem → Nat) : XR Unit :=
  let va := BitVec.ofNat 64 p.va
  match targetOf s g.pa with
  | .hbm h =>
    let idx := hbmIndex g.striped h
    if !rafterOk s (dieOf pl.t).val (dieOfIdx idx) then .fault (pieceFabric o (dieOfIdx idx) 3 va) s
    else if o.maq = [] ∨ p.els = [] then ofHome o va (putEls s g idx p.va (putsOf p ((p.lasts false).map fun e => (e, v e)) c))
    else
      (pieceScales s pl o k p).bind fun sc s =>
        let s := useSlot s pl o (stackOfPage s g)
        if maqKind o.inst = 2 then combineMda s pl o k p g idx v sc else writeMda s pl o k p g idx v c sc
  | .window t off =>
    if !rafterOk s (dieOf pl.t).val (t / 16) then .fault (pieceFabric o (t / 16) 3 va) s
    else
      let (ord, s) := windowArrive s pl o k t
      ofHome o va (windowWrite s t off (leBytes p.memBytes (packVals p.mw (p.els.map v))) ord)
  | _ => .fault (xferFault o 1 0 va) s

/-- An outbound piece (R323-R325). -/
def outPiece (s : State) (pl : Place) (o : XferOp) (k : Nat) (p : Piece) : XR Unit :=
  match lockOf s (redOwner pl o k) with
  | some l => if o.has k partRed then ofHome o (BitVec.ofNat 64 p.va) (commit s l) else .wait s
  | none =>
    if o.begun k ∧ o.pieceOver k p then .ok () s
    else if o.has k partDone ∨ (o.begun k ∧ o.allBack k p) then
      (putCodes pl o k p (o.scaleRuns p).length s).bind fun _ s =>
        match ((s.tile pl.t).chan pl.store o.ch).ops.find? fun q => q.info.order == o.info.order with
        | some q => if q.pieceOver k p then .ok () s else .sent s
        | none => .sent s
    else
      match pieceStall (s.tile pl.t) o p with
      | some w => .stall w s
      | none =>
        (piecePage s pl o p).bind fun g s =>
          match pieceBad (s.tile pl.t) o p with
          | some f => .fault f s
          | none =>
            let x := s.tile pl.t
            (if leaves s g then outAway else outHere) s pl o k p g (outVal x o p) (outScale x o)

/-- One piece performed as far as it can be now: done, sent away, stalled, waiting or stopped by a fault (R309, R316, R320). An inbound piece
whose data has come back lands in the scratchpad. -/
def pieceDo (s : State) (pl : Place) (o : XferOp) (k : Nat) (p : Piece) : XR Unit :=
  match p.stop with
  | some f => .fault f s
  | none => if inbound o.inst then inPiece s pl o k p else outPiece s pl o k p

end Sys2Proof.Machine
end

