-- ==== Sys2Proof/Machine/Transfer.lean ====
section
/-! DEFINITION. Transfer channels (chapter 14): the transfer instructions up to their acceptance (R308, R310, R322-R334), and the events that
start an operation, perform its pieces, write its flag and retire it (R308, R309, R320, R321, R326-R328, R331, R347). -/

namespace Sys2Proof.Machine

/-! ### The end of an operation -/

/-- Whether an operation has nothing left to do (R308): one that a CHCAN stops retires only when its flag had left before (R332). -/
def opOver (st : Store) (o : XferOp) : Bool :=
  o.started && o.info.fault.isNone && (!o.cancel || o.flag == .written) && (o.flag == .none || o.flag == .written) && !dpfLeft o && !o.dataLeft st

/-- The oldest operation of a channel. -/
def chanHead (s : State) (pl : Place) (ch : Fin 8) : Option XferOp := ((s.tile pl.t).chan pl.store ch).ops.head?

/-- The head of a channel retires when nothing of it is left: its post is made, its flags join, and the retirement is a sink event (R308, R382).
-/
def settle (s : State) (pl : Place) (ch : Fin 8) : State :=
  let x := s.tile pl.t
  match (x.chan pl.store ch).ops with
  | [] => s
  | o :: r =>
    if opOver x.store o then
      let c := x.chan pl.store ch
      s.setTile pl.t { retireOp (x.setChan pl.store ch { ops := r, retired := c.retired + 1 }) o.info with sink := true }
    else s

/-- Whether a fault of an operation is an uncorrectable word behind a scratchpad window, which has counted at that window's tile (R468). -/
def windowWord (i : Instr) (f : OpFault) : Bool := (match i with | .rget _ _ => true | _ => false) && f.cause == 0x20 && f.akind == 2

/-- An operation stops with its first fault (R320). -/
def opFault (s : State) (pl : Place) (o : XferOp) (f : OpFault) : State :=
  if o.info.fault.isSome then s
  else (if windowWord o.inst f then reportOp else faultOp) (updOp s pl.t pl.store o.ch o.info.order fun o => { o with info := { o.info with fault := some f } }) pl.t o.info f

/-! ### Order among pieces -/

/-- The pieces below piece `k` that are not done. -/
def lowerUndone (o : XferOp) (ps : List Piece) (k : Nat) : List (Nat × Piece) :=
  (ps.take k).zipIdx.filterMap fun pi => if o.isDone pi.2 pi.1 then none else some (pi.2, pi.1)

/-- Whether two pieces touch one sector. -/
def shareSector (p q : Piece) : Bool :=
  p.va / 64 ≤ (q.va + q.memBytes - 1) / 64 && q.va / 64 ≤ (p.va + p.memBytes - 1) / 64

/-- Whether every part of a piece is on its way or answered. -/
def XferOp.allSent (o : XferOp) (k : Nat) (p : Piece) : Bool :=
  (o.parts p).zipIdx.all fun q => o.sent k (partData q.2) || o.has k (partData q.2)

/-- The order of pieces on SO pages (R309, R404): every lower one is done, or, with no scale codes to follow, on its way to the module that this
one goes to. -/
def soOk (s : State) (pl : Place) (o : XferOp) (g : Page) (low : List (Nat × Piece)) : Bool :=
  g.ord != 0 ||
  low.all fun jq =>
    match pageOfPiece s pl o jq.2 with
    | some h =>
      h.ord != 0 ||
        (o.allSent jq.1 jq.2 && !o.writesCodes && h.pa / 2 ^ 52 == g.pa / 2 ^ 52 && (match targetOf s h.pa with | .remote _ => true | _ => false))
    | none => false

/-- Whether nothing but another operation's progress, or the end of a quiesce (R429), lets a piece go on: it stalls on the scratchpad, must
follow earlier operations, or would leave the module. -/
def pieceHeld (s : State) (pl : Place) (o : XferOp) (p : Piece) : Bool :=
  (pieceStall (s.tile pl.t) o p).isSome || pieceFollows s pl o p ||
  (jobQuiesced s (tileJob (s.tile pl.t)) &&
    ((match pageOfPiece s pl o p with | some g => leaves s g | none => false) || (extraPages s pl o p).any fun g => leaves s g.1))

/-- Whether a piece keeps those above it back: R321 has a stopped operation complete every piece below the highest completed one, so that exactly a
prefix is performed; none therefore passes one that cannot begin now, or would fault (log entry 15). -/
def pieceBars (s : State) (pl : Place) (o : XferOp) (jq : Nat × Piece) : Bool :=
  !o.begun jq.1 && (pieceHeld s pl o jq.2 || (pageOfPiece s pl o jq.2).isNone)

/-- The highest piece done or under way. -/
def XferOp.top (o : XferOp) : Option Nat :=
  (o.done ++ o.out.map (·.1) ++ o.arrived.map (·.1)).foldl (fun a k => some (max k (a.getD 0))) none

/-- Whether an operation that stops completes a piece (R321): it lies at or below the highest one, or follows it from within a byte, so that the
prefix is one of whole bytes. -/
def XferOp.finishes (o : XferOp) (ps : List Piece) (k : Nat) : Bool :=
  match o.top with
  | none => false
  | some t => k ≤ t + ((ps.drop (t + 1)).takeWhile fun p => p.first.sp % 8 != 0).length

/-- The pieces that an operation which stops has still to complete: none that has failed. -/
def XferOp.toFinish (o : XferOp) (st : Store) : List (Nat × Piece) :=
  let ps := o.pieces st
  ps.zipIdx.filterMap fun pi => if !o.isDone pi.2 pi.1 && !o.bad.contains pi.2 && o.finishes ps pi.2 then some (pi.2, pi.1) else none

/-- Whether an operation has stopped starting pieces (R321, R332, R365). -/
def opStops (x : Tile) (o : XferOp) : Bool := stopsNow x o.info || o.cancel || o.info.fault.isSome

/-- Whether piece `k` may be performed now, or go on (R299, R300, R309, R321, R404): one that stops, by a fault or a drain, completes every piece
below the highest that it has begun but those that fail. -/
def pieceMay (s : State) (pl : Place) (o : XferOp) (ps : List Piece) (k : Nat) (p : Piece) : Bool :=
  let x := s.tile pl.t
  let low := lowerUndone o ps k
  !o.bad.contains k &&
  (o.begun k ||
  ((!opStops x o || o.finishes ps k) && (opStops x o || !low.any (pieceBars s pl o)) &&
    (inbound o.inst || !low.any fun jq => shareSector jq.2 p) &&
    (match pageOfPiece s pl o p with | some g => soOk s pl o g (low.filter fun jq => !o.bad.contains jq.1) | none => true) &&
    !pieceFollows s pl o p))

/-! ### Pieces -/

/-- A performed piece of an operation: its accesses are over. -/
def XferOp.performed (o : XferOp) (k : Nat) : XferOp :=
  { o with done := k :: o.done, out := o.out.filter fun a => a.1 != k, air := o.air.filter fun a => a.piece != k,
           arrived := o.arrived.filter fun a => a.1 != k, came := o.came.filter fun a => a.1 != k }

/-- What a fault at a piece does (R320, R321): the operation stops once every piece below is performed; a piece that fails when it has stopped is
left out of those that it completes. -/
def pieceFails (s s1 : State) (pl : Place) (o : XferOp) (ps : List Piece) (k : Nat) (f : OpFault) : State :=
  let bad := fun (s : State) => putOp s pl o fun o => { o with bad := k :: o.bad }
  if o.info.fault.isSome then bad s
  else if lowerUndone o ps k = [] then opFault (bad (faultState s s1)) pl o f
  else if opStops (s.tile pl.t) o then bad s
  else s

/-- Correctable scratchpad words that a piece meets, counted (R469): an outbound one as it reads them, an inbound one that covers them in part. -/
def softPiece (before after : State) (pl : Place) (o : XferOp) (k : Nat) (p : Piece) : State :=
  let st := (before.tile pl.t).store
  let at_ := fun (rs : List (Nat × Nat)) => rs.map fun b => (o.off + b.1, b.2)
  if !hasRange o.inst then after
  else if inbound o.inst then countSoft after pl.t (softWrite st (at_ p.spans))
  else if o.begun k then after
  else countSoft after pl.t (softRead st (at_ (o.touched p)))

/-- What a piece's performance does to its operation. -/
def pieceStep (s : State) (pl : Place) (o : XferOp) (ps : List Piece) (k : Nat) (p : Piece) : State :=
  match pieceDo s pl o k p with
  | .ok _ s1 => settle (putOp (softPiece s s1 pl o k p) pl o fun o => o.performed k) pl o.ch
  | .sent s1 => if inbound o.inst then s1 else softPiece s s1 pl o k p
  | .wait s => s
  | .stall _ _ => s
  | .fault f s1 => pieceFails s s1 pl o ps k f

/-! ### DPF (R327) -/

/-- The record cache of a tile after a record passed (R310). -/
def cacheRec (x : Tile) (a : Word64) (ver : BitVec 16) (bs : List Byte) : Tile :=
  { x with store := { x.store with recs := (a, ver, bs) :: x.store.recs.filter fun r => !(r.1 == a && r.2.1 == ver) } }

/-- The result of a DPF's read: cached when it passes every check; retired either way. -/
def dpfDone (s : State) (pl : Place) (o : XferOp) (bs : Option (List Byte)) : State :=
  let x := s.tile pl.t
  let (ver, imm) := dpfFields o.inst
  let s := match bs with
    | some bs =>
      if sealOk bs 64 ∧ (ver = 0 ∨ fieldAt bs 0 2 = ver.toNat) ∧ (layBad bs false).isNone ∧ ver ≠ 0 then
        s.setTile pl.t (cacheRec x (o.info.ra + imm.signExtend 64) ver bs)
      else s
    | none => s
  settle (putOp s pl o fun o => o.performed 0) pl o.ch

/-- The read of a DPF: in its order among the operations of its core (R299, R300). -/
def dpfStep (s : State) (pl : Place) (o : XferOp) : State :=
  let a := dpfAddr o
  let k := xferAsker s pl o
  if o.begun 0 ∨ stopsNow (s.tile pl.t) o.info ∨ o.cancel then s
  else if a.toNat % 64 ≠ 0 then dpfDone s pl o none
  else
    match reach s k .record a 64 fabScalar false with
    | (.fault _ _, s) => dpfDone s pl o none
    | (.wait, s) => s
    | (.page g, s) =>
      if mustFollow s pl o.info.order [touchAt s g 64] then s
      else
        match accessAt s k g a (.read 64) fabScalar false 0 (pieceOwner pl o 0 (partData 0)) (fun s _ _ => ([], s)) with
        | .ok bs s => dpfDone s pl o (some bs)
        | .fault _ _ s => dpfDone s pl o none
        | .wait s => s
        | .sent s => markOut s pl o 0 (partData 0) g 64
        | .unsent s => s

/-- PIECE_COMPLETE: one piece of the running operation of a channel (R309). -/
def pieceComplete (s : State) (pl : Place) (ch : Fin 8) (k : Nat) : State :=
  match chanHead s pl ch with
  | none => s
  | some o =>
    if !o.started then s
    else
      match o.inst with
      | .dpf _ _ _ _ _ => if dpfLeft o then dpfStep s pl o else s
      | _ =>
        let ps := o.pieces (s.tile pl.t).store
        match ps[k]? with
        | none => s
        | some p => if o.isDone k p || !pieceMay s pl o ps k p then s else pieceStep s pl o ps k p

/-- PIECE_COMPLETE (R309). -/
def execPieceComplete (t : TileId) (st : Bool) (ch : Fin 8) (piece : Nat) (s : State) : Out := .next (pieceComplete s ⟨t, st⟩ ch piece)

/-- The pieces of the head of a channel that lie in one of its windows (R336). -/
def windowPieces (s : State) (pl : Place) (ch : Fin 8) (window : Nat) : List Nat :=
  match chanHead s pl ch with
  | none => []
  | some o =>
    if o.maq = [] then []
    else
      (o.pieces (s.tile pl.t).store).zipIdx.filterMap fun pi =>
        if pi.1.els != [] && pi.1.stop.isNone && pi.1.first.bit / (512 * pi.1.mw) == window then some pi.2 else none

/-- MDA_WINDOW: the pieces of one window of an operation with a maquette pass the array (R344, R348). -/
def execMdaWindow (t : TileId) (st : Bool) (ch : Fin 8) (window : Nat) (s : State) : Out :=
  .next ((windowPieces s ⟨t, st⟩ ch window).foldl (fun s k => pieceComplete s ⟨t, st⟩ ch k) s)

/-! ### Start -/

/-- Whether a CFENCE still holds an operation (R331). -/
def cfenceHolds (x : Tile) (o : XferOp) : Bool :=
  x.eng.cf.any fun c => c.info.stream == o.info.stream && c.info.order < o.info.order && c.mask.getLsbD o.ch.val

/-- Whether the list of an index-list operation cannot be read yet: bytes of it stand at or above the watermark of an earlier inbound operation or
MOUT (R316, R324). -/
def listStalled (x : Tile) (o : XferOp) : Bool :=
  match xkind o.inst with
  | .slices y => (spadStall x (some o.info.order) o.info.rc.toNat (4 * y.count.toNat) false).isSome
  | _ => false

/-- Whether an RGET or RPUT through its own tile's window meets its own range, and where (R325). -/
def ownOverlap (s : State) (pl : Place) (o : XferOp) : Option Word64 :=
  if !isRemoteXfer o.inst then none
  else
    (o.pieces (s.tile pl.t).store).findSome? fun p =>
      match pageOfPiece s pl o p with
      | some g =>
        (match targetOf s g.pa with
         | .window w off =>
           if w = pl.t.val ∧ off < o.off + o.rangeLen ∧ o.off < off + p.memBytes then some (BitVec.ofNat 64 p.va) else none
         | _ => none)
      | none => none

/-- The version and seal of a maquette (R351). -/
def maqIdent (bs : List Byte) : BitVec 16 × BitVec 32 := (BitVec.ofNat 16 (fieldAt bs 0 2), BitVec.ofNat 32 (fieldAt bs 0x1FC 4))

/-- The checks of a maquette that has been read (R347, R350, R351). -/
def maqCheck (o : XferOp) (bs : List Byte) : Option OpFault :=
  let a := BitVec.ofNat 64 o.lay.maq
  if !sealOk bs 512 then some (maqFault o 1 (fieldAt bs 0 2) a)
  else if o.maqId.isSome && o.maqId != some (maqIdent bs) then some (maqFault o 5 0 a)
  else
    match maqFieldBad bs with
    | some d => some (maqFault o 2 d a)
    | none => (maqAgreeBad bs o.lay o.inst).map fun d => maqFault o 3 d a

/-- An operation starts: correctable words of its list are corrected and counted (R324, R469). -/
def startOp (s : State) (pl : Place) (o : XferOp) (f : XferOp → XferOp) : State :=
  let s := match xkind o.inst with
    | .slices y => countSoft s pl.t (softRead (s.tile pl.t).store [(o.info.rc.toNat, 4 * y.count.toNat)])
    | _ => s
  settle (putOp s pl o fun o => { f o with started := true }) pl o.ch

/-- The operation starts with its checked maquette, or stops before its first piece (R347). -/
def startWith (s : State) (pl : Place) (o : XferOp) (bs : List Byte) : State :=
  match maqCheck o bs with
  | some f => opFault s pl o f
  | none =>
    startOp s pl o fun o => { o with maq := bs, maqId := some (maqIdent bs), arrived := o.arrived.filter fun a => !isMaqPart a.2.1 }

/-- One part of a maquette as it is read (R96, R347): its bytes, or none while it is under way. -/
def maqPart (s : State) (pl : Place) (o : XferOp) (i va n : Nat) : XR (Option (List Byte)) :=
  match o.ans 0 (partMaq i) with
  | some bs => .ok (some bs) s
  | none =>
    if o.sent 0 (partMaq i) then .ok none s
    else
      let a := xferAsker s pl o
      let w := BitVec.ofNat 64 va
      let bad := fun (c : BitVec 8) (s : State) => XR.fault (α := Option (List Byte)) (maqFault o 4 c.toNat (BitVec.ofNat 64 o.lay.maq)) s
      match reach s a .record w n o.ch.val false with
      | (.fault c _, s) => bad c s
      | (.wait, s) => .wait s
      | (.page p, s) =>
        if mustFollow s pl o.info.order [touchAt s p n] then .wait s
        else
          match targetOf s p.pa with
          | .hbm h =>
            let idx := hbmIndex p.striped h
            if !rafterOk s a.die.val (dieOfIdx idx) then bad 0x28 s
            else
              (match homeReadN s p (homeParts idx n) with
               | .ok bs s => .ok (some bs) s
               | .fault c s => bad c s
               | .wait s => .wait s)
          | _ =>
            match accessAt s a p w (.read n) o.ch.val false 0 (.maq pl.t.val pl.store o.ch.val o.info.order i) (fun s _ _ => ([], s)) with
            | .sent s => .ok none (markOut s pl o 0 (partMaq i) p n)
            | .fault c _ s => bad c s
            | .ok bs s => .ok (some bs) s
            | .wait s => .wait s
            | .unsent s => .wait s

/-- The parts of a maquette in ascending order; none while one is under way. -/
def maqParts (pl : Place) (o : XferOp) : List ((Nat × Nat) × Nat) → State → XR (Option (List Byte))
  | [], s => .ok (some []) s
  | ((va, n), i) :: r, s =>
    (maqPart s pl o i va n).bind fun a s => (maqParts pl o r s).bind fun b s =>
      .ok (match a, b with | some a, some b => some (a ++ b) | _, _ => none) s

/-- The read of a maquette at the start of an operation (R347): 512 bytes, the checks of each page that they lie on, and packets of at most 256
bytes where it lies in another module. -/
def readMaq (s : State) (pl : Place) (o : XferOp) : State :=
  match maqParts pl o (maqCuts o.lay.maq).zipIdx s with
  | .ok (some bs) s => startWith s pl o bs
  | .ok none s => s
  | .fault f s => opFault s pl o f
  | .stall _ s => s
  | .wait s => s
  | .sent s => s

/-- TRANSFER_START: the operation at the head of a channel starts (R308, R331, R347). -/
def transferStart (s : State) (pl : Place) (ch : Fin 8) : State :=
  match chanHead s pl ch with
  | none => s
  | some o =>
    let x := s.tile pl.t
    if o.started || opStops x o || cfenceHolds x o || listStalled x o then s
    else
      match ownOverlap s pl o with
      | some va => opFault s pl o (xferFault o 1 0 va)
      | none =>
        if hasRecord o.inst && o.lay.maq != 0 then readMaq s pl o
        else startOp s pl o id

/-- TRANSFER_START (R308). -/
def execTransferStart (t : TileId) (st : Bool) (ch : Fin 8) (s : State) : Out := .next (transferStart s ⟨t, st⟩ ch)

/-! ### Flags -/

/-- Whether an instruction is RFLAG. -/
def isRflag : Instr → Bool
  | .rflag _ _ _ _ _ _ => true
  | _ => false

/-- Whether every piece of an operation goes to the module of a page on the fabric, and each is done, its scale codes too, or on its way
(R404). -/
def allTo (s : State) (pl : Place) (o : XferOp) (g : Page) : Bool :=
  let ps := o.pieces (s.tile pl.t).store
  (match targetOf s g.pa with | .remote _ => true | _ => false) && !ps.isEmpty &&
  ps.zipIdx.all fun pi =>
    (o.isDone pi.2 pi.1 || (!o.writesCodes && o.allSent pi.2 pi.1)) &&
    (match pageOfPiece s pl o pi.1 with | some h => h.pa / 2 ^ 52 == g.pa / 2 ^ 52 && leaves s h | none => false)

/-- TRANSFER FLAG for a cause, FABRIC as it is (R320, R334). -/
def flagFault (o : XferOp) (c : BitVec 8) (i : BitVec 32) (va : Word64) : OpFault := if c = 0x28 then ⟨c, i, 1, va⟩ else xferFault o 6 c.toNat va

/-- The flag write of an operation whose data is performed, or on its way to the flag's module (R326, R328, R404). -/
def flagStep (s : State) (pl : Place) (o : XferOp) (va : Word64) (g : GOp) (sc : Scope) : State :=
  let a := xferAsker s pl o
  let upd := fun (s : State) (f : FlagState) => updOp s pl.t pl.store o.ch o.info.order fun o => { o with flag := f }
  let left := o.dataLeft (s.tile pl.t).store
  match reach s a .rmw va 8 o.ch.val false with
  | (.fault c i, s1) => if left then s else opFault s1 pl o (flagFault o c i va)
  | (.wait, s1) => s1
  | (.page p, s1) =>
    let ordered := allTo s1 pl o p
    if (left && !ordered) || mustFollow s1 pl o.info.order [touchAt s1 p 8] then s
    else
      match accessAt s1 a p va g o.ch.val ordered (2 + scopeCode sc * 8) (.flag pl.t.val pl.store o.ch.val o.info.order) (fun s _ _ => ([], s)) with
      | .ok _ s => settle (upd s .written) pl o.ch
      | .fault c i s => opFault s pl o (flagFault o c i va)
      | .wait s => s
      | .sent s => upd (putOp s pl o fun q => { q with air := ⟨0, partFlag, touchAt s p 8⟩ :: q.air }) .sent
      | .unsent s => s

/-- TRANSFER_FLAG: the flag of the running operation (R326, R328); an RFLAG that a drain finds unwritten stays so (R365). -/
def transferFlag (s : State) (pl : Place) (ch : Fin 8) : State :=
  match chanHead s pl ch with
  | none => s
  | some o =>
    if !o.started || o.cancel || o.info.fault.isSome || o.flag != .waiting || (isRflag o.inst && stopsNow (s.tile pl.t) o.info) then s
    else match flagOf o with | some f => flagStep s pl o f.1 f.2.1 f.2.2 | none => s

/-- TRANSFER_FLAG (R326). -/
def execTransferFlag (t : TileId) (st : Bool) (ch : Fin 8) (s : State) : Out := .next (transferFlag s ⟨t, st⟩ ch)

/-! ### CFENCE -/

/-- Whether an operation that a CFENCE joins is still unretired (R331). -/
def cfenceJoins (x : Tile) (c : CfOp) : Bool :=
  x.xfers.any fun o => o.info.stream == c.info.stream && o.info.order < c.info.order && c.mask.getLsbD o.ch.val

/-- CFENCE_RETIRE: the CFENCE with an acceptance number retires once every operation it joins has (R331). -/
def execCfenceRetire (t : TileId) (ord : Nat) (s : State) : Out :=
  let x := s.tile t
  match x.eng.cf.find? fun c => c.info.order == ord with
  | none => .next s
  | some c =>
    if cfenceJoins x c || stopsNow x c.info then .next s
    else .next (s.setTile t (retireOp { x with eng := { x.eng with cf := x.eng.cf.filter fun d => d.info.order != ord } } c.info))

/-! ### Answers -/

/-- The operation that an answer belongs to. -/
def ownerOp (s : State) (t : Nat) (store : Bool) (ch order : Nat) : Option (Place × XferOp) :=
  if h : t < 192 ∧ ch < 8 then
    let pl : Place := ⟨⟨t, h.1⟩, store⟩
    (((s.tile pl.t).chan store ⟨ch, h.2⟩).ops.find? fun o => o.info.order == order).map fun o => (pl, o)
  else none

/-- The answer to an access of a piece: read data waits to land, an outbound piece with nothing left is performed (R309); a fault stops the
operation, which then completes what it has begun and every piece below (R320, R321). -/
def pieceAnswer (s : State) (pl : Place) (o : XferOp) (k part : Nat) (va : Word64) : RemoteResp → State
  | .fault c i => opFault (markBad s pl o k part) pl o (pieceFault o c i va)
  | .data bs =>
    let s := markGot s pl o k part bs
    match ((s.tile pl.t).chan pl.store o.ch).ops.find? fun q => q.info.order == o.info.order, (o.pieces (s.tile pl.t).store)[k]? with
    | some q, some p => if !inbound o.inst && q.pieceOver k p then settle (putOp s pl o fun o => o.performed k) pl o.ch else s
    | _, _ => s

/-- An answer to a scalar access reaches its core, if the access still waits (R364). -/
def scalarAnswer (s : State) (t : Nat) (st : Stream) (tag : Nat) (r : RemoteResp) : State :=
  if h : t < 192 then
    let x := s.tile ⟨t, h⟩
    let c := x.core st
    match c.remote with
    | some rm => if rm.tag = tag then s.setTile ⟨t, h⟩ (x.setCore st { c with remote := some { rm with resp := some r } }) else s
    | none => s
  else s

/-- An answer delivered to whoever waits for it. -/
def deliver (s : State) (ow : Owner) (va : Word64) (r : RemoteResp) : State :=
  match ow with
  | .scalar t st tag => scalarAnswer s t st tag r
  | .code t st tag => if h : t < 192 then codeAnswer s ⟨t, h⟩ st tag r else s
  | .far k => if farLive s k then farPut s k r else s
  | .piece t store ch order k part =>
    (match ownerOp s t store ch order with
     | some (pl, o) =>
       if dpfLeft o then dpfDone s pl o (match r with | .data bs => some bs | .fault _ _ => none) else pieceAnswer s pl o k part va r
     | none => s)
  | .red t store ch order k =>
    (match ownerOp s t store ch order with
     | some (pl, o) =>
       (match r with
        | .data _ => pieceComplete (markGot s pl o k partRed []) pl o.ch k
        | .fault c i => opFault (markBad (unlock s ow) pl o k partRed) pl o (if c = 0x28 then ⟨c, i, 1, va⟩ else maqFault o 6 c.toNat va))
     | none => unlock s ow)
  | .flag t store ch order =>
    (match ownerOp s t store ch order with
     | some (pl, o) =>
       (match r with
        | .data _ => settle (updOp s pl.t store o.ch order fun o => { o with flag := .written, air := o.air.filter fun a => a.part != partFlag }) pl o.ch
        | .fault c i => opFault (putOp s pl o fun o => { o with air := o.air.filter fun a => a.part != partFlag }) pl o (flagFault o c i va))
     | none => s)
  | .half t store ch order =>
    (match ownerOp s t store ch order, r with
     | some (pl, o), .fault c i => opFault s pl o ⟨c, i, 1, va⟩
     | _, _ => s)
  | .maq t store ch order i =>
    (match ownerOp s t store ch order with
     | some (pl, o) =>
       (match r with
        | .data bs =>
          let s := markGot s pl o 0 (partMaq i) bs
          if opStops (s.tile pl.t) o then s else (match ownerOp s t store ch order with | some (_, q) => readMaq s pl q | none => s)
        | .fault c _ => opFault (putOp s pl o fun o => o.landed 0 (partMaq i)) pl o
            (maqFault o 4 c.toNat (BitVec.ofNat 64 o.lay.maq)))
     | none => s)

/-! ### Acceptance -/

/-- Whether a channel and its tile have room for one more operation (R308). -/
def chanRoom (x : Tile) (store : Bool) (ch : Fin 8) : Bool := (x.chan store ch).ops.length < 4 && asyncCount x < 32

/-- A flag's register value, and its alignment (R326). -/
def flagVal (s : State) : Option FlagSpec → Word64
  | some f => s.readG f.reg
  | none => 0

/-- An accepted operation (R308, R342, R343): one whose record names a maquette takes the stochastic counter and a tag for its copies. -/
def acceptXfer (s : State) (i : Instr) (ch : Fin 8) (store : Bool) (layout : List Byte) (ra rb rc rf : Word64) : Flow :=
  if !chanRoom s.me store ch then .stall .blocked
  else
    let maq := layout != [] && (layOf layout).maq != 0
    let (tag, s1) := newTag s
    let o : XferOp := {
      info := opInfo s i s.regs.round.toNat ra rb rc rf, ch := ch, inst := i, layout := layout, maq := [], maqId := none, prefixBytes := 0,
      started := false, done := [], out := [], air := [], arrived := [], bad := [], came := [], flag := .none,
      stag := BitVec.ofNat 16 (1 + tag % 65535), maqTo := [], cancel := false, tag := tag }
    let o := { o with flag := if (flagOf o).isSome then .waiting else .none }
    let c := s1.me.chan store ch
    let x := s1.me.setChan store ch { c with ops := c.ops ++ [o] }
    let s2 := s1.acceptOp x.eng
    .async (if maq then s2.stepCtr else s2)

/-- A record found in the tile's cache (R310). -/
def recFind (x : Tile) (a : Word64) (ver : BitVec 16) : Option (List Byte) :=
  if ver = 0 then none else (x.store.recs.find? fun r => r.1 == a && r.2.1 == ver).map fun r => r.2.2

/-- SEAL (R310). -/
def sealTrap (s : State) (a : Word64) (bs : List Byte) (version : Bool) : Flow :=
  vaTrap s 0x18 (BitVec.ofNat 32 (fieldAt bs 0 2 + ofBool version * 65536)) a

/-- TRANSFER RECORD (R312). -/
def recordTrap (s : State) (a : Word64) (ch : Fin 8) (off : Nat) : Flow := vaTrap s 0x19 (BitVec.ofNat 32 (off * 65536 + 7 * 256 + ch.val)) a

/-- The checked record at an address (R310, R312), and what follows with it; `dred` says that it must name a maquette. -/
def withRecord (s : State) (ch : Fin 8) (a : Word64) (ver : BitVec 16) (dred : Bool) (fin : State → List Byte → Flow) : Flow :=
  let fields := fun (s : State) (bs : List Byte) =>
    match layBad bs dred with
    | some o => recordTrap s a ch o
    | none => fin s bs
  match recFind s.me a ver with
  | some bs => fields s bs
  | none =>
    scalarAccess s .record .record a (.read 64) 0 (fun s _ _ => ([], s)) fun s bs =>
      if !sealOk bs 64 then sealTrap s a bs false
      else if ver ≠ 0 ∧ fieldAt bs 0 2 ≠ ver.toNat then sealTrap s a bs true
      else fields (if ver ≠ 0 ∧ (layBad bs dred).isNone then s.setMe (cacheRec s.me a ver bs) else s) bs

/-- The range check of an operation (R323-R325). -/
def rangeOver (off : Word64) (len : Nat) : Bool := spadBytes < off.toNat + len

/-- The bytes of a record transfer's range (R313). -/
def tensorBytes (l : Lay) : Nat := let d := l.count * l.ws / 8; if l.delivered then round64 d + l.count / 32 else d

/-- DLD, DST and DRED up to acceptance (R322, R323, R326, R334). -/
def recXfer (i : Instr) (x : RecXfer) (fl : Option FlagSpec) (store dred : Bool) (s : State) : Flow :=
  let a := s.baseOff x.base x.imm
  let off := s.src x.off
  let f := flagVal s fl
  if a.toNat % 64 ≠ 0 then alignTrap a 1
  else if off.toNat % 64 ≠ 0 then alignTrap off 2
  else if fl.isSome ∧ f.toNat % 8 ≠ 0 then alignTrap f 1
  else
    withRecord s x.ch a x.ver dred fun s bs =>
      if rangeOver off (tensorBytes (layOf bs)) then trapIn s { cause := 0x14, info := off.setWidth 32, akind := 2, addr := off }
      else acceptXfer s i x.ch store bs (s.src x.base) off 0 f

/-- The record rules of index-list transfers (R324): the offset of the last field that a broken one ties (R312), the size of the last dimension
of a slice; where a slice has none, ndim for the rule of bsc and sfmt for the rule of whole bytes. -/
def sliceRecordBad (l : Lay) : Option Nat :=
  let last := fun (x : Nat) => if l.ndim ≤ 1 then x else 0x10 + 2 * (l.ndim - 2)
  if l.bsc ∧ l.sliceCount % 32 ≠ 0 then some (last 4) else if l.sliceCount * l.ws % 8 ≠ 0 then some (last 5) else none

/-- The bytes of an index-list transfer's range (R324). -/
def sliceBytes (l : Lay) (count : Nat) : Nat :=
  let d := count * l.sliceCount * l.ws / 8
  if l.delivered then round64 d + count * l.sliceCount / 32 else d

/-- DLDX and DSTX up to acceptance (R322, R324, R326, R334). -/
def listXfer (i : Instr) (x : ListXfer) (fl : Option FlagSpec) (store : Bool) (s : State) : Flow :=
  let a := s.src x.base
  let off := s.src x.off
  let list := s.src x.list
  let f := flagVal s fl
  let n := x.count.toNat
  if n = 0 ∨ 4096 < n then illegal x.count
  else if a.toNat % 64 ≠ 0 then alignTrap a 1
  else if list.toNat % 4 ≠ 0 then alignTrap list 2
  else if fl.isSome ∧ f.toNat % 8 ≠ 0 then alignTrap f 1
  else if rangeOver list (4 * n) then rangeTrap list
  else
    withRecord s x.ch a x.ver false fun s bs =>
      match sliceRecordBad (layOf bs) with
      | some o => recordTrap s a x.ch o
      | none =>
        if rangeOver off (sliceBytes (layOf bs) n) then trapIn s { cause := 0x14, info := off.setWidth 32, akind := 2, addr := off }
        else acceptXfer s i x.ch store bs a off list f

/-- DCPY, RGET, DSTL and RPUT up to acceptance (R325, R326, R334). -/
def linXfer (i : Instr) (x : LinXfer) (fl : Option FlagSpec) (store : Bool) (s : State) : Flow :=
  let off := s.src x.off
  let len := s.src x.len
  let f := flagVal s fl
  if fl.isSome ∧ f.toNat % 8 ≠ 0 then alignTrap f 1
  else if rangeOver off len.toNat then rangeTrap off
  else acceptXfer s i x.ch store [] (s.src x.base) off len f

/-- DLD (R323). -/
def execDld (x : RecXfer) (sy : Sync) (s : State) : Out := run (.dld x sy) (recXfer (.dld x sy) x none false false) s
/-- DST (R323). -/
def execDst (x : RecXfer) (fl : Option FlagSpec) (sy : Sync) (s : State) : Out := run (.dst x fl sy) (recXfer (.dst x fl sy) x fl true false) s
/-- DRED (R323). -/
def execDred (x : RecXfer) (fl : Option FlagSpec) (sy : Sync) (s : State) : Out := run (.dred x fl sy) (recXfer (.dred x fl sy) x fl true true) s
/-- DLDX (R324). -/
def execDldx (x : ListXfer) (sy : Sync) (s : State) : Out := run (.dldx x sy) (listXfer (.dldx x sy) x none false) s
/-- DSTX (R324). -/
def execDstx (x : ListXfer) (fl : Option FlagSpec) (sy : Sync) (s : State) : Out := run (.dstx x fl sy) (listXfer (.dstx x fl sy) x fl true) s
/-- DCPY (R325). -/
def execDcpy (x : LinXfer) (sy : Sync) (s : State) : Out := run (.dcpy x sy) (linXfer (.dcpy x sy) x none false) s
/-- RGET (R325). -/
def execRget (x : LinXfer) (sy : Sync) (s : State) : Out := run (.rget x sy) (linXfer (.rget x sy) x none false) s
/-- DSTL (R325). -/
def execDstl (x : LinXfer) (sy : Sync) (s : State) : Out := run (.dstl x sy) (linXfer (.dstl x sy) x none true) s
/-- RPUT (R325, R326). -/
def execRput (x : LinXfer) (fl : Option FlagSpec) (sy : Sync) (s : State) : Out := run (.rput x fl sy) (linXfer (.rput x fl sy) x fl true) s

/-- DFILL (R325). -/
def execDfill (x : LinXfer) (sy : Sync) (s : State) : Out :=
  run (.dfill x sy)
    (fun s =>
      let len := s.src x.len
      if 2 ^ 48 ≤ len.toNat then illegal (len.setWidth 32)
      else acceptXfer s (.dfill x sy) x.ch true [] (s.src x.base) (s.src x.off) len 0) s

/-- DPF (R327). -/
def execDpf (ch : Fin 8) (base : GSrc) (imm : BitVec 32) (ver : BitVec 16) (sy : Sync) (s : State) : Out :=
  run (.dpf ch base imm ver sy) (fun s => acceptXfer s (.dpf ch base imm ver sy) ch false [] (s.src base) 0 0 0) s

/-- RFLAG (R328). -/
def execRflag (ch : Fin 8) (add : Bool) (sc : Scope) (a : GSrc) (b : SrcLit) (sy : Sync) (s : State) : Out :=
  run (.rflag ch add sc a b sy)
    (fun s =>
      let f := s.src a
      if f.toNat % 8 ≠ 0 then alignTrap f 1 else acceptXfer s (.rflag ch add sc a b sy) ch true [] f (s.srcZ b) 0 0) s

/-- CFENCE (R331). -/
def execCfence (mask : BitVec 8) (sy : Sync) (s : State) : Out :=
  run (.cfence mask sy)
    (fun s =>
      if 32 ≤ asyncCount s.me then .stall .blocked
      else
        let e := s.me.eng
        .async (s.acceptOp { e with cf := e.cf ++ [⟨opInfo s (.cfence mask sy) s.regs.round.toNat 0 0 0 0, mask⟩] })) s

/-! ### Synchronous entries -/

/-- The channel an instruction of the acting core names. -/
def myChan (s : State) (ch : Fin 8) : Chan := s.me.chan (s.cur.stream == .store) ch

/-- CHWM's value (R329). -/
def chwmVal (x : Tile) (c : Chan) : Word64 :=
  match c.ops with
  | [] => 0xFFFFFFFFFFFFFFFF
  | o :: _ => if hasRange o.inst then BitVec.ofNat 64 (o.wm x.store) else 0x02000000

/-- CHWM (R329). -/
def execChwm (d : Fin 32) (ch : Fin 8) (sy : Sync) (s : State) : Out :=
  run (.chwm d ch sy) (fun s => ok (s.writeG d (chwmVal s.me (myChan s ch)))) s

/-- Why a piece is stalled at the scratchpad: on an active range, on a lease. -/
def pieceStalls (x : Tile) (o : XferOp) (p : Piece) : Bool × Bool :=
  let n := some o.info.order
  let on := fun (as : List Active) (ls : List Lease) => (o.touched p).any fun b => (stallIn as ls n (o.off + b.1) b.2 (inbound o.inst)).isSome
  (on x.actives [], on [] x.leases)

/-- Why the oldest operation of a channel is stalled (R329): on an active range, on a lease. -/
def chanStalls (x : Tile) (o : XferOp) : Bool × Bool :=
  if !o.started then (listStalled x o, false)
  else if !hasRange o.inst then (false, false)
  else
    match firstUndone o 0 (o.pieces x.store) with
    | some (k, p) => if p.stop.isSome || o.out.any fun a => a.1 == k then (false, false) else pieceStalls x o p
    | none => (false, false)

/-- CHSTAT's value (R329). -/
def chstatVal (x : Tile) (c : Chan) : Word64 :=
  let h := c.ops.head?
  let st := match h with | some o => chanStalls x o | none => (false, false)
  BitVec.ofNat 64
    (c.retired.toNat * 2 ^ 16 + ofBool (h.any fun o => o.info.fault.isSome) * 128 + ofBool (h.any fun o => o.started && o.out != []) * 64 +
      ofBool st.1 * 32 + ofBool st.2 * 16 + c.ops.length)

/-- CHSTAT (R329). -/
def execChstat (d : Fin 32) (ch : Fin 8) (sy : Sync) (s : State) : Out :=
  run (.chstat d ch sy) (fun s => ok (s.writeG d (chstatVal s.me (myChan s ch)))) s

/-- CHWAIT's condition (R330). -/
def chwaitMet (s : State) (c : Chan) : ChwaitForm → Bool
  | .idle => c.ops == []
  | .wm v => c.ops == [] || (s.srcZ v).toNat ≤ (chwmVal s.me c).toNat

/-- CHWAIT (R330). -/
def execChwait (ch : Fin 8) (f : ChwaitForm) (sy : Sync) (s : State) : Out :=
  run (.chwait ch f sy) (fun s => if chwaitMet s (myChan s ch) f then ok s else .stall .blocked) s

/-- Whether an operation told to stop has stopped (R321, R332): nothing is outstanding and nothing is left to complete. -/
def opStopped (x : Tile) (o : XferOp) : Bool :=
  o.cancel && o.info.fault.isNone && o.out == [] && o.flag != .sent && (!o.started || (o.toFinish x.store).isEmpty)

/-- Whether a CHCAN cancels an operation of its channel: every one (R332), but a service context in share mode beside a task leaves those of the
user context, whose state it does not change (R161; log entry 27). -/
def cancels (s : State) (o : XferOp) : Bool :=
  s.cur.ctx == .user || s.myCore.v.mode != .share || s.me.task.isNone || o.info.ctx == .service

/-- CHCAN (R332): it first tells every operation that it cancels to stop, and takes them away once all have. -/
def execChcan (d : Fin 32) (ch : Fin 8) (sy : Sync) (s : State) : Out :=
  run (.chcan d ch sy)
    (fun s =>
      let x := s.me
      let st := s.cur.stream == .store
      let c := x.chan st ch
      let mine := c.ops.filter (cancels s)
      if mine.all (opStopped x) then
        let y := mine.foldl (fun y o => releasePost y o.info.stream o.info.post) (x.setChan st ch { c with ops := c.ops.filter fun o => !cancels s o })
        ok ((s.setMe y).writeG d (BitVec.ofNat 64 mine.length))
      else
        let s := s.setMe (x.setChan st ch { c with ops := c.ops.map fun o => if cancels s o then { o with cancel := true } else o })
        .raw (markStall { s with cur := { s.cur with tv := 0 } } .other)) s

end Sys2Proof.Machine
end

