-- ==== Sys2Proof/Machine/Clock.lean ====
section
/-! DEFINITION. The module's clock, and what the schedule chooses from when nothing is on its agenda (log entry 2). -/

namespace Sys2Proof.Machine

/-- Whether the operation at the head of a channel waits (R319): nothing of it is outstanding at a home, a window or on the fabric, and a CFENCE or
its list holds its start, or its next piece, and every piece whose data has come back, is stalled on a range or a lease. -/
def headWaits (x : Tile) (o : XferOp) : Bool :=
  let held := fun (w : Bool × Bool) => w.1 || w.2
  o.out == [] && o.came == [] && o.flag != .sent &&
  (if o.started then
    held (chanStalls x o) &&
      ((o.pieces x.store).zipIdx.all fun pi => o.isDone pi.2 pi.1 || !o.begun pi.2 || held (pieceStalls x o pi.1))
   else cfenceHolds x o || listStalled x o)

/-- Whether every operation of a channel waits (R319): those behind its head do. -/
def chanWaits (x : Tile) (c : Chan) : Bool :=
  match c.ops with
  | [] => true
  | o :: _ => headWaits x o

/-- Whether a MOUT waits: its next row is stalled (R319). -/
def moutWaits (x : Tile) (o : MoutOp) : Bool :=
  (spadStall x (some o.info.order) (o.off + o.rows * o.stride) (moutRowBytes (moutType o.inst)) true).isSome

/-- Whether every asynchronous operation of a tile waits on others of it, so that none can progress (R157, R319): a pending nest waits behind
the running one. -/
def opsStuck (x : Tile) : Bool :=
  (match x.eng.running with | some n => stepStalled x n | none => x.eng.pending.isNone) &&
  (match x.eng.mout with | some o => moutWaits x o | none => true) &&
  x.eng.cf.all (cfenceJoins x) && x.eng.chLoad.all (chanWaits x) && x.eng.chStore.all (chanWaits x)

/-- What one clock adds to a counter: one clock per selected tile, or one throttled clock of the die (R468). -/
def clockEvents (sel : Word64) (throttled : Bool) : Nat :=
  let unit := sel.toNat / 256 % 256
  if !sel.getLsbD 31 then 0
  else if sel.toNat % 256 = 0x0F then (if unit = 255 then 16 else if unit < 16 then 1 else 0)
  else if sel.toNat % 256 = 0x0E then ofBool throttled
  else 0

/-- The counters after one clock (R468). -/
def tickCounters (c : Counters) (throttled : Bool) : Counters :=
  c.sel.foldl
    (fun a kv =>
      let n := clockEvents kv.2 throttled
      if n = 0 ∨ c.wrote.contains kv.1 then a else { a with cnt := smSet 0 kv.1 (smGet 0 kv.1 a.cnt + BitVec.ofNat 64 n) a.cnt }) { c with wrote := [] }

/-- One clock of every tile, of module time and of the event counters. -/
def tick (s : State) : State :=
  let dt := clockUnits s.sec.step
  { s with
    tiles := s.tiles.map fun x => tickTile (jobQuiesced s (tileJob x)) (opsStuck x) x,
    time := deferredStep (tickTime s.time dt) (!s.gang.ridges.isEmpty),
    ctrs := tickCounters s.ctrs (s.sec.step != 0) }

/-- The schedule's own choice (log entry 2). -/
def chooseTurn (s : State) : Turn := Config.freeTurn s.freeIdx

/-- The stream whose core issues an OP (R50): the common class runs on the load core. -/
def streamFor (op : Nat) : Stream :=
  if op < 0x50 then .load else if op < 0x60 then .load else if op < 0x80 then .store else if op < 0xF0 then .compute
  else if op < 0xF6 then .load else .compute

/-- The task a placed instruction runs in: job 0, queue ceilings 16, watchdog exponent 40, no tag table and no feed. -/
def placedTask : TaskSt :=
  { pkt := 0, index := 0, job := 0, desc := 0, recAddr := 0, argptr := 0, hangpol := false, feed := none, tagbase := 0, tagslot := 0,
    entries := Vector.replicate 3 0, ceils := Vector.replicate 6 16, wdog := 40, preloads := [], tstart := none }

/-- A word put where the next step fetches it: in the instruction cache of a core of tile 0, at that context's PC; a common, load, transfer,
store or compute OP in a user context that is live, a service OP in a service context of a tile without a task; that core has the next
turn (log entry 4). -/
def placeWord (s : State) (_nbits w : Nat) : State :=
  let word : Word128 := BitVec.ofNat 128 w
  let op := wordOp word
  let st := streamFor op
  let k : CtxKind := if 0xF0 ≤ op then .service else .user
  let x := s.tile 0
  let c := x.core st
  let u := if 0xF0 ≤ op then c.u else { c.u with life := .live }
  let c := { c with u := u, ic := icInsert c.ic ⟨k, (c.regs k).pc, word⟩, issued := false, stopped := false, pend := none, remote := none, stall := none,
                    word := none, codes := [], v := { c.v with mode := .share, idle := none, held := false } }
  let x := { x.setCore st c with task := if 0xF0 ≤ op then none else some placedTask }
  { s.setTile 0 x with hk := { s.hk with bring := 8 }, disp := { s.disp with nofit := [] }, agenda := [.core 0 st k] }

end Sys2Proof.Machine
end

