-- ==== Sys2Proof/Machine/Control.lean ====
section
/-! DEFINITION. The control registers (R22-R27, R92) and the service registers (R362): their values, the effect of writing them, and CTLRD
and CTLWR. -/

namespace Sys2Proof.Machine

/-- The stored part of a loop address register: bits 56:4 (R23). -/
def loopAddr (v : Word64) : Word64 := v &&& 0x01FFFFFFFFFFFFF0

/-- The index of the task within its launch (R23). -/
def taskIndex (x : Tile) : Nat := match x.task with | some k => k.index % 4096 | none => 0

/-- A control register 0x00-0x15 of a core, seen with the registers of one of its contexts (R22, R159). -/
def ctlVal (s : State) (t : TileId) (st : Stream) (r : Regs) (n : Nat) : Word64 :=
  let x := s.tile t
  let c := x.core st
  match n with
  | 0x00 => r.flags.setWidth 64
  | 0x01 => r.round.setWidth 64
  | 0x02 => r.seed
  | 0x03 => r.srctr
  | 0x04 => BitVec.ofNat 64 t.val
  | 0x05 => BitVec.ofNat 64 (taskIndex x)
  | 0x06 => BitVec.ofNat 64 (streamCode st)
  | 0x07 => s.ns64
  | 0x08 => x.cycle
  | 0x09 => c.u.lost.setWidth 64
  | 0x0A => c.u.wdog.setWidth 64
  | 0x10 => r.lc0.count.setWidth 64
  | 0x11 => r.lc0.start
  | 0x12 => r.lc0.fin
  | 0x13 => r.lc1.count.setWidth 64
  | 0x14 => r.lc1.start
  | 0x15 => r.lc1.fin
  | _ => 0

/-- Whether a value may be written to a control register (R24). -/
def ctlWriteOk (n : Nat) (v : Word64) : Bool :=
  match n with
  | 0x01 => v.toNat % 8 < 6
  | 0x0A => 16 ≤ v.toNat % 64 && v.toNat % 64 ≤ 40
  | _ => true

/-- The registers of a context after a write of a control register (R22, R23): read-only ones keep their value. -/
def Regs.setCtl (r : Regs) (n : Nat) (v : Word64) : Regs :=
  match n with
  | 0x00 => { r with flags := v.setWidth 5 }
  | 0x01 => { r with round := v.setWidth 3 }
  | 0x02 => { r with seed := v }
  | 0x03 => { r with srctr := v }
  | 0x10 => { r with lc0 := { r.lc0 with count := v.setWidth 32 } }
  | 0x11 => { r with lc0 := { r.lc0 with start := loopAddr v } }
  | 0x12 => { r with lc0 := { r.lc0 with fin := loopAddr v } }
  | 0x13 => { r with lc1 := { r.lc1 with count := v.setWidth 32 } }
  | 0x14 => { r with lc1 := { r.lc1 with start := loopAddr v } }
  | 0x15 => { r with lc1 := { r.lc1 with fin := loopAddr v } }
  | _ => r

/-- A write of a core's watchdog exponent (R24). -/
def setWdog (s : State) (v : Word64) : State :=
  let c := s.myCore
  s.setMyCore { c with u := { c.u with wdog := v.setWidth 6 } }

/-- The predicates as bits (R362). -/
def predBits (r : Regs) : Word64 :=
  BitVec.ofNat 64 ((List.range 8).foldl (fun a i => a + (if h : i < 8 then ofBool (r.readP ⟨i, h⟩) * 2 ^ i else 0)) 0)

/-- Predicates set from bits; p0 stays true (R362). -/
def setPredBits (r : Regs) (v : Word64) : Regs :=
  { r with p := Vector.ofFn fun i => if i.val = 0 then true else v.getLsbD i.val }

/-- The code of a stream's state (R362). -/
def lifeCode : Life → Nat
  | .live => 0
  | .exited => 1
  | .absent => 2

/-- ctl.ustate (R362). -/
def ustateVal (c : Core) : Word64 := BitVec.ofNat 64 (lifeCode c.u.life + c.u.exitVal.toNat * 2 ^ 32)

/-- svstat.MODE (R362). -/
def modeCode : SvMode → Nat
  | .share => 0
  | .alone => 1
  | .entered => 2

/-- ctl.svstat of a core (R362). -/
def svstatVal (x : Tile) (c : Core) : Word64 :=
  let d := x.drain
  BitVec.ofNat 64
    (modeCode c.v.mode + ofBool d.spend.isSome * 4 + ofBool d.draining * 16 + ofBool (d.drained || d.restore) * 32 +
      ofBool d.restore * 64 + ofBool d.preq * 128 + d.trig.toNat * 256)

/-- The save slot of a tile for a job (R379): 0 when jsave.EN is 0. -/
def saveSlot (s : State) (j : Nat) (t : Nat) : Word64 :=
  let js := (smGet JobSt.reset j s.disp.jobs).jsave
  if js.getLsbD 0 then BitVec.ofNat 64 (js.toNat / 2 ^ 25 % 2 ^ 32 * 2 ^ 25 + 2 ^ 25 * t) else 0

/-- The FLAGS byte of a trap record (R360). -/
def trecFlags (r : TrapRec) : Nat :=
  ofBool r.valid + ofBool r.async * 2 + ofBool r.peer * 4 + ofBool r.restore * 8 + ofBool r.alone * 16

/-- The 64 bytes of a trap record (R360). -/
def trecBytes (r : TrapRec) : List Byte :=
  [r.cause, BitVec.ofNat 8 (trecFlags r), r.stream, r.akind] ++ leBytes 4 r.info.toNat ++ leBytes 8 r.tpc.toNat ++
  leBytes 16 r.word.toNat ++ leBytes 8 r.addr.toNat ++ [r.infl, r.pstream] ++ zeros 6 ++ leBytes 8 r.time.toNat ++
  leBytes 8 r.cycle.toNat

/-- A service register 0x40-0xD5 of the acting core (R362). -/
def svVal (s : State) (n : Nat) : Word64 :=
  let x := s.me
  let c := s.myCore
  if n = 0x40 then c.v.share.setWidth 64
  else if n = 0x41 then c.v.vec
  else if n = 0x42 then svstatVal x c
  else if n = 0x43 then (match x.task with | some k => saveSlot s k.job.val s.cur.tile.val | none => 0)
  else if n = 0x44 then c.v.ridge.setWidth 64
  else if 0x48 ≤ n ∧ n ≤ 0x4F then BitVec.ofNat 64 (fieldAt (trecBytes c.v.trec) (8 * (n - 0x48)) 8)
  else if h : 0x80 ≤ n ∧ n ≤ 0x9F then c.u.regs.readG ⟨n - 0x80, by omega⟩
  else if n = 0xA0 then predBits c.u.regs
  else if n = 0xA1 then c.u.regs.pc
  else if n = 0xA2 then ustateVal c
  else ctlVal s s.cur.tile s.cur.stream c.u.regs (n - 0xC0)

/-- The value CTLRD writes (R92, R362). -/
def ctlrdVal (s : State) (n : Nat) : Word64 :=
  if n < 0x40 then ctlVal s s.cur.tile s.cur.stream s.regs n else svVal s n

/-- Whether an access to a control register waits for flags still to come (R25): ctl.flags of a compute core while a nest or MOUT of the
context is unretired. -/
def flagsWait (s : State) (n : Nat) : Bool := n == 0x00 && s.cur.stream == .compute && flagsBusy s.me s.cur.ctx

/-- CTLRD (R22, R92). -/
def execCtlrd (d : Fin 32) (num : BitVec 8) (sy : Sync) (s : State) : Out :=
  run (.ctlrd d num sy)
    (fun s => if flagsWait s num.toNat then .stall .other else ok (s.writeG d (ctlrdVal s num.toNat))) s

/-- The acting core with its user registers replaced. -/
def setUserRegs (s : State) (r : Regs) : State := s.setMyCore (s.myCore.setRegs .user r)

/-- A write of a stream's state and exit value (R362): state 3 is not one. -/
def setUstate (s : State) (v : Word64) : Flow :=
  let c := s.myCore
  let put := fun l => ok (s.setMyCore { c with u := { c.u with life := l, exitVal := (v >>> 32).setWidth 32 } })
  match v.toNat % 4 with
  | 0 => put .live
  | 1 => put .exited
  | 2 => put .absent
  | _ => illegal 0xA2

/-- A write of a user window register 0x80-0xD5 in entered mode (R362); a refused one reports the number (R115). -/
def setWindow (s : State) (n : Nat) (v : Word64) : Flow :=
  let r := s.myCore.u.regs
  if h : 0x80 ≤ n ∧ n ≤ 0x9F then ok (setUserRegs s (r.writeG ⟨n - 0x80, by omega⟩ v))
  else if n = 0xA0 then ok (setUserRegs s (setPredBits r v))
  else if n = 0xA1 then ok (setUserRegs s { r with pc := v })
  else if n = 0xA2 then (if s.me.drain.restore then setUstate s v else illegal (BitVec.ofNat 32 n))
  else if !ctlWriteOk (n - 0xC0) v then illegal (BitVec.ofNat 32 n)
  else if n = 0xC9 then
    let c := s.myCore
    ok (s.setMyCore { c with u := { c.u with lost := v.setWidth 32 } })
  else if n = 0xCA then ok (setWdog s v)
  else ok (setUserRegs s (r.setCtl (n - 0xC0) v))

/-- A write of a service register (R362): outside entered mode the user windows raise ILLEGAL. -/
def setSv (s : State) (n : Nat) (v : Word64) : Flow :=
  let c := s.myCore
  if n = 0x40 then ok (s.setMyCore { c with v := { c.v with share := v.setWidth 8 } })
  else if n = 0x41 then ok (s.setMyCore { c with v := { c.v with vec := loopAddr v } })
  else if n < 0x80 then ok s
  else if c.v.mode = .share then illegal (BitVec.ofNat 32 n)
  else setWindow s n v

/-- A write of a control register 0x00-0x15 of the acting context (R22, R24): a service context beside a running task changes no user state
(R161). -/
def setOwnCtl (s : State) (n : Nat) (v : Word64) : Flow :=
  if !ctlWriteOk n v then illegal (BitVec.ofNat 32 n)
  else if n = 0x0A then
    (if s.cur.ctx = .service ∧ s.myCore.v.mode = .share then ok s else ok (setWdog s v))
  else ok (s.setRegs (s.regs.setCtl n v))

/-- CTLWR (R22, R92). -/
def execCtlwr (num : BitVec 8) (b : SrcLit) (sy : Sync) (s : State) : Out :=
  run (.ctlwr num b sy)
    (fun s =>
      if flagsWait s num.toNat then .stall .other
      else if num.toNat < 0x40 then setOwnCtl s num.toNat (s.srcZ b)
      else setSv s num.toNat (s.srcZ b)) s

end Sys2Proof.Machine
end

