-- ==== Sys2Proof/Machine/Device.lean ====
section
/-! DEFINITION. The device register space (R415, R418, R419, R422, R462-R468): what an 8-byte register reads, and what a write of some of its
bits does. A write that begins an action puts that action's event on the agenda. -/

namespace Sys2Proof.Machine

/-- An event that happens next, by itself. -/
def State.soon (s : State) (i : Instr) : State := { s with agenda := s.agenda ++ [.event i] }

/-! ### Jobs, queues and feeds -/

/-- A job's registers. -/
def State.job (s : State) (j : Nat) : JobSt := smGet JobSt.reset j s.disp.jobs
/-- A job's registers replaced. -/
def State.setJob (s : State) (j : Nat) (x : JobSt) : State := { s with disp := { s.disp with jobs := smSet JobSt.reset j x s.disp.jobs } }
/-- A user queue. -/
def State.uq (s : State) (q : Nat) : UQueue := smGet UQueue.reset q s.disp.queues
/-- A user queue replaced. -/
def State.setUq (s : State) (q : Nat) (x : UQueue) : State :=
  { s with disp := { s.disp with queues := smSet UQueue.reset q x s.disp.queues } }

/-- The JOB field of qcfg (R249). -/
def UQueue.job (u : UQueue) : Nat := u.cfg.toNat / 2 ^ 40 % 4096
/-- The HOME field. -/
def UQueue.home (u : UQueue) : Nat := u.cfg.toNat / 2 ^ 36 % 16
/-- The AGE field in ms: 0 means 10. -/
def UQueue.age (u : UQueue) : Nat := if u.cfg.toNat / 2 ^ 28 % 256 = 0 then 10 else u.cfg.toNat / 2 ^ 28 % 256
/-- The WEIGHT field. -/
def UQueue.weight (u : UQueue) : Nat := u.cfg.toNat / 2 ^ 20 % 256
/-- The PRIO field. -/
def UQueue.prio (u : UQueue) : Nat := u.cfg.toNat / 2 ^ 18 % 4
/-- The DEVENQ field. -/
def UQueue.devenq (u : UQueue) : Bool := u.cfg.getLsbD 17
/-- The ENABLE field. -/
def UQueue.enabled (u : UQueue) : Bool := u.cfg.getLsbD 16
/-- The SIZE field. -/
def UQueue.size (u : UQueue) : Nat := u.cfg.toNat % 32
/-- The number of slots. -/
def UQueue.slots (u : UQueue) : Nat := 2 ^ u.size
/-- The home die, as a die (HOME above 11 keeps a queue from running). -/
def UQueue.die (u : UQueue) : DieId := ⟨u.home % 12, Nat.mod_lt _ (by decide)⟩

/-- A queue that runs no more: what it has begun to read of its ring is forgotten (R248, R250), but not a packet whose read index is being
written (R252). -/
def endRun (s : State) (q : Nat) : State :=
  let u := s.uq q
  let s := farForget s farNotify (u.farId q)
  let s := { s with disp := { s.disp with
    far := s.disp.far.filter fun e => !(e.1.kind == farTake && e.1.id == u.farId q) || landingKey s e.1 } }
  s.setUq q { u with notified := false, reading := false, upto := none, gen := u.gen + 1 }

/-- A queue enters ERROR (R250). -/
def queueError (s : State) (q : Nat) (err : BitVec 16) : State :=
  let s := endRun s q
  s.setUq q { s.uq q with state := 2, err := err }

/-- ENABLE set on a stopped queue (R250): RUNNING, or ERROR with CONFIG. -/
def startQueue (s : State) (q : Nat) : State :=
  let u := { s.uq q with cfg := (s.uq q).cfg ||| 0x10000 }
  if u.state ≠ 0 then s.setUq q u
  else if 11 < u.home ∨ u.weight = 0 ∨ u.size < 4 ∨ 16 < u.size then s.setUq q { u with state := 2, err := 1 }
  else s.setUq q { u with state := 1, err := 0 }

/-- ENABLE cleared: STOPPED (R250); a new ring address takes effect when the queue next runs (R248). -/
def stopQueue (s : State) (q : Nat) : State :=
  let s := endRun s q
  let u := s.uq q
  s.setUq q { u with cfg := u.cfg &&& ~~~0x10000, state := 0 }

/-- The bits of qcfg that hold something (R249). -/
def qcfgMask : Word64 := 0x000FFFFFFFFF001F

/-- A write of qcfg (R249): while the queue is not STOPPED it changes only ENABLE. -/
def writeQcfg (s : State) (q : Nat) (v : Word64) : State :=
  let u := s.uq q
  let s := if u.state = 0 then s.setUq q { u with cfg := v &&& qcfgMask &&& ~~~0x10000 } else s
  if v.getLsbD 16 then startQueue s q else stopQueue s q

/-- A feed. -/
def State.feedReg (s : State) (f : Nat) : Word64 :=
  let x := smGet Feed.reset f s.disp.feeds
  BitVec.ofNat 64 (x.job.toNat * 65536 + x.cap.toNat)

/-- The FEEDNO and KIND of a packet. -/
def Pkt.kind (p : Pkt) : Nat := fieldAt p.bytes 2 1
/-- FLAGS.REL (R246). -/
def Pkt.rel (p : Pkt) : Bool := fieldAt p.bytes 3 1 / 2 % 2 == 1
/-- The number of a FEED packet's feed (R246). -/
def Pkt.feedno (p : Pkt) : Nat := fieldAt p.bytes 0x14 4

/-- Whether a feed is in use (R266): it holds records, a task on a tile names it (log entry 60), or a FEED packet waits on it.
-/
def feedInUse (s : State) (f : Nat) : Bool :=
  !(smGet Feed.reset f s.disp.feeds).recs.isEmpty ||
  s.tiles.any (fun x => match x.task with | some k => k.feed == some f | none => false) ||
  s.disp.pkts.any fun p => p.kind == 1 && p.feedno == f && p.recs != [] && !p.fin

/-- A write of a feed's register (R266); its sequence count starts at 0 (R259). -/
def writeFeed (s : State) (f : Nat) (v : Word64) : State :=
  if feedInUse s f then s
  else
    let x : Feed := { job := (v >>> 16).setWidth 12, cap := v.setWidth 4, recs := [], seq := 0, waiters := [] }
    { s with disp := { s.disp with feeds := smSet Feed.reset f x s.disp.feeds } }

/-- A job register (R242, R278, R379). -/
def jobReg (s : State) (j n : Nat) : Word64 :=
  let x := s.job j
  match n with
  | 0 => x.jdone
  | 1 => x.jphase
  | 2 => x.xpt
  | 3 => x.xrt
  | 4 => x.xat
  | 5 => if x.invBusy then 1 else 0
  | 6 => BitVec.ofNat 64 (x.pre.toNat * 65536)
  | _ => x.jsave

/-- COUNT above 1,024 stores 1,024 (R278). -/
def capCount (v : Word64) : Word64 :=
  BitVec.ofNat 64 (min (v.toNat / 2 ^ 53) 1024 * 2 ^ 53) ||| (v &&& 0x000FFFFFFFFFFFE0)

/-- A write of a job register: `v` the whole new value, `m` the bits written. -/
def writeJob (s : State) (j n : Nat) (m v : Word64) : State :=
  let x := s.job j
  match n with
  | 2 => s.setJob j { x with xpt := v &&& 0x000FFFFFFFFFF001 }
  | 3 => s.setJob j { x with xrt := capCount v }
  | 4 => s.setJob j { x with xat := v &&& 0x000FFFFFFFFFFE00 }
  | 5 => if m.getLsbD 0 ∧ v.getLsbD 0 then s.soon (.jxinv (jobIdOf j)) else s
  | 6 =>
    if m.getLsbD 0 then
      (match v.toNat % 4 with
       | 1 => s.soon (.jobPreempt (jobIdOf j))
       | 2 => s.soon (.jobResume (jobIdOf j))
       | _ => s)
    else s
  | 7 => s.setJob j { x with jsave := v &&& 0x01FFFFFFFE000001 }
  | _ => s

/-- A queue register (R248). -/
def queueReg (s : State) (q n : Nat) : Word64 :=
  let u := s.uq q
  match n with
  | 0 => u.base
  | 1 => u.cfg
  | 2 => 0
  | _ => BitVec.ofNat 64 (u.err.toNat * 2 ^ 32 + u.state.toNat)

/-- A queue number. -/
def queueId (q : Nat) : QueueId := ⟨q % 1024, Nat.mod_lt _ (by decide)⟩

/-- A write of a queue register (R248, R249, R251). -/
def writeQueue (s : State) (q n : Nat) (v : Word64) : State :=
  let u := s.uq q
  match n with
  | 0 => if u.state = 0 then s.setUq q { u with base := v &&& 0x01FFFFFFFFFFFFC0 } else s
  | 1 => writeQcfg s q v
  | 2 => (s.setUq q { u with notified := true }).soon (.qnotify (queueId q))
  | _ => s

/-! ### Reset, security, power and counters -/

/-- rststat.STATE (R459). -/
def rstState (h : Hk) : Nat := if h.recovery then 1 else if h.bring ≤ 2 then 0 else if h.bring ≤ 5 then 2 else 3

/-- Whether the alarm is latched (R465). -/
def alarmOn (x : Sec) : Bool := x.tamper || x.glitch || x.tree

/-- secstat (R462). -/
def secstat (s : State) : Word64 :=
  BitVec.ofNat 64
    ((match s.hk.fw with | some f => fwSvn f | none => 0) * 2 ^ 48 + ofBool s.sec.tamper * 64 + ofBool s.sec.glitch * 32 +
      ofBool s.sec.tree * 16 + ofBool (alarmOn s.sec) * 8 + ofBool (s.sec.enc && s.sec.encOn))

/-- kstat (R464). -/
def kstat (k : KeySlot) : Word64 := BitVec.ofNat 64 (ofBool k.err * 4 + ofBool k.busy * 2 + ofBool k.keys.isSome)

/-- A key slot's register (R464). -/
def keyReg (s : State) (k n : Nat) : Word64 :=
  let x := smGet KeySlot.reset k s.sec.keys
  match n with
  | 0 => kstat x
  | 1 => x.bind
  | _ => 0

/-- A write of a key slot's register (R464). -/
def writeKey (s : State) (k n : Nat) (v : Word64) : State :=
  let x := smGet KeySlot.reset k s.sec.keys
  let id : Fin 64 := ⟨k % 64, Nat.mod_lt _ (by decide)⟩
  match n with
  | 1 => { s with sec := { s.sec with keys := smSet KeySlot.reset k { x with bind := v &&& 0xF000FFFFFFFFFFFF } s.sec.keys } }
  | 2 => if v = 0 then s.soon (.keyClear id) else s.soon (.keyLoad id v)
  | _ => s

/-- A register of Reset, Security, Power and Counters, by its offset in 8-byte units from 0x40_0000. -/
def houseReg (s : State) (n : Nat) : Word64 :=
  match n with
  | 0 => if s.hk.retain then 4 else 0
  | 1 => BitVec.ofNat 64 (s.hk.warms.toNat * 2 ^ 32 + s.hk.last.toNat * 256 + rstState s.hk)
  | 2 => if s.sec.enc then 1 else 0
  | 3 => secstat s
  | 5 => BitVec.ofNat 64 (ofBool s.sec.attBusy + ofBool s.sec.attDone * 2)
  | 6 => s.sec.cap.setWidth 64
  | 7 => BitVec.ofNat 64 (s.sec.temp.toNat * 2 ^ 32 + s.sec.power.toNat * 2 ^ 16 + s.sec.step.toNat)
  | _ => 0

/-- pwrcap stores the nearer limit (R467). -/
def capLimit (v : Nat) : BitVec 8 := BitVec.ofNat 8 (max 80 (min 145 v))

/-- A write of a register of Reset, Security, Power and Counters; `m` the bits written. -/
def writeHouse (s : State) (n : Nat) (m v : Word64) : State :=
  match n with
  | 0 =>
    let s := if m.getLsbD 2 then { s with hk := { s.hk with retain := v.getLsbD 2 } } else s
    if m.getLsbD 0 then
      (match v.toNat % 4 with
       | 1 => s.soon .warmReset
       | 2 => s.soon .coldReset
       | _ => s)
    else s
  | 2 =>
    if !m.getLsbD 0 || s.sec.touched then s
    else if v.getLsbD 0 then s.soon .encInit
    else { s with sec := { s.sec with enc := false, encOn := false } }
  | 4 => s.soon (.attestRequest v)
  | 6 => if m.getLsbD 0 then { s with sec := { s.sec with cap := capLimit (v.toNat % 256) } } else s
  | _ => s

/-- An event counter's register: counter `k` of 8 x die + n (R468). -/
def ctrReg (s : State) (k n : Nat) : Word64 := if n = 0 then smGet evselReset k s.ctrs.sel else smGet 0 k s.ctrs.cnt

/-- A write of an event counter's register (R468): one of the count replaces it, and the other events of the clock are lost. -/
def writeCtr (s : State) (k n : Nat) (v : Word64) : State :=
  if n = 0 then { s with ctrs := { s.ctrs with sel := smSet evselReset k (v &&& 0x8000FFFF) s.ctrs.sel } }
  else { s with ctrs := { s.ctrs with cnt := smSet 0 k v s.ctrs.cnt, wrote := k :: s.ctrs.wrote } }

/-! ### The space -/

/-- What a register of the space is. -/
inductive DevReg where
  | modnum | fabcfg | portup | tmctl | tmstat | tmnow
  | hang (k : Nat)
  | bell (t : Nat)
  | queue (q n : Nat)
  | job (j n : Nat)
  | feed (f : Nat)
  | house (n : Nat)
  | key (k n : Nat)
  | ctr (k n : Nat)
  | absent
  deriving DecidableEq, Repr

/-- The register at an offset that is a multiple of 8 (R418, R422, R462-R468); a hang log holds 25 doublewords (R381). -/
def devReg (o : Nat) : DevReg :=
  if o = 0 then .modnum
  else if o = 8 then .fabcfg
  else if o = 0x10 then .portup
  else if o = 0x100 then .tmctl
  else if o = 0x108 then .tmstat
  else if o = 0x110 then .tmnow
  else if 0x10000 ≤ o ∧ o < 0x10000 + 256 * 192 then (if o % 256 < 200 then .hang ((o - 0x10000) / 8) else .absent)
  else if 0x20000 ≤ o ∧ o < 0x20000 + 8 * 192 then .bell ((o - 0x20000) / 8)
  else if 0x100000 ≤ o ∧ o < 0x100000 + 32 * 1024 then .queue ((o - 0x100000) / 32) (o / 8 % 4)
  else if 0x200000 ≤ o ∧ o < 0x200000 + 64 * 4096 then .job ((o - 0x200000) / 64) (o / 8 % 8)
  else if 0x300000 ≤ o ∧ o < 0x300000 + 16 * 384 then (if o % 16 = 0 then .feed ((o - 0x300000) / 16) else .absent)
  else if 0x400000 ≤ o ∧ o < 0x400040 then .house ((o - 0x400000) / 8)
  else if 0x401040 ≤ o ∧ o < 0x402000 then .key ((o - 0x401000) / 64) (o / 8 % 8)
  else if 0x402000 ≤ o ∧ o < 0x402C00 then
    (if o % 256 < 128 then .ctr (8 * ((o - 0x402000) / 256) + o % 256 / 16) (o / 8 % 2) else .absent)
  else .absent

/-- What an 8-byte register reads. -/
def devRead (s : State) (o : Nat) : Word64 :=
  match devReg o with
  | .modnum => s.fab.modnum.setWidth 64
  | .fabcfg => s.fab.fabcfg
  | .portup => s.fab.portup.setWidth 64
  | .tmctl => s.time.tmctl.setWidth 64
  | .tmstat => BitVec.ofNat 64 (s.time.unc.toNat * 2 ^ 32 + s.time.state.toNat)
  | .tmnow => s.ns64
  | .hang k => smGet 0 k s.disp.hangLog
  | .bell _ => 0
  | .queue q n => queueReg s q n
  | .job j n => jobReg s j n
  | .feed f => s.feedReg f
  | .house n => houseReg s n
  | .key k n => keyReg s k n
  | .ctr k n => ctrReg s k n
  | .absent => 0

/-- A write of modnum (R419): ignored while a port is up. -/
def writeModnum (s : State) (v : Word64) : State :=
  if s.fab.portup ≠ 0 then s else { s with fab := { s.fab with modnum := v.setWidth 12, modset := true } }

/-- tmctl as a write leaves it (R422): a DOMAIN of 128-255 is ignored. -/
def tmctlNew (old v : Word64) : Word64 :=
  if v.toNat / 2 ^ 16 % 256 < 128 then v &&& 0xFF000F else (old &&& 0xFF0000) ||| (v &&& 0xF)

/-- A tile number. -/
def tileId (t : Nat) : TileId := ⟨t % 192, Nat.mod_lt _ (by decide)⟩

/-- A write of bits `m` of an 8-byte register (R415): the other bits keep their value, and what only the written bits command happens. -/
def devWrite (s : State) (o : Nat) (m w : Word64) : State :=
  let v := (devRead s o &&& ~~~m) ||| (w &&& m)
  match devReg o with
  | .modnum => if m.getLsbD 0 then writeModnum s v else s
  | .fabcfg => { s with fab := { s.fab with fabcfg := v &&& 0xFF0F } }
  | .tmctl => s.soon (.tmctlWrite v)
  | .hang k => { s with disp := { s.disp with hangLog := smSet 0 k v s.disp.hangLog } }
  | .bell t => s.soon (.serviceDoorbell (tileId t))
  | .queue q n => writeQueue s q n v
  | .job j n => writeJob s j n m v
  | .feed f => writeFeed s f v
  | .house n => writeHouse s n m v
  | .key k n => writeKey s k n v
  | .ctr k n => writeCtr s k n v
  | _ => s

/-- The bits that an access of `n` bytes at offset `o` reaches of its register. -/
def devMask (o n : Nat) : Word64 := if 8 ≤ n then BitVec.allOnes 64 else (0xFFFFFFFF : Word64) <<< (o % 8 * 8)

/-- A task's access to the space (R276, R415): an aligned load or store of 4 or 8 bytes. -/
def devAccess (s : State) (o : Nat) (g : GOp) : List Byte × State :=
  let b := o / 8 * 8
  match g with
  | .read n => (leBytes n ((devRead s b).toNat / 2 ^ (o % 8 * 8)), s)
  | .write bs => ([], devWrite s b (devMask o bs.length) (BitVec.ofNat 64 (leNat bs * 2 ^ (o % 8 * 8))))
  | .atom _ _ _ _ => ([], s)

/-- REGISTER_WRITE: the host writes BAR0 once it answers (R415, R418, R459). -/
def execRegisterWrite (off : BitVec 32) (four : Bool) (v : BitVec 64) (s : State) : Out :=
  let n := if four then 4 else 8
  if s.hk.bring < 6 then .next s
  else if off.toNat % n ≠ 0 then .next (s.sendHost (.unsupported off.toNat))
  else .next (devAccess s off.toNat (.write (leBytes n v.toNat))).2

/-- QUEUE_ENABLE: a write of qcfg with ENABLE set (R249, R250). -/
def execQueueEnable (q : QueueId) (v : BitVec 64) (s : State) : Out := .next (writeQcfg s q.val (v ||| 0x10000))

/-- QUEUE_DISABLE: ENABLE written 0 (R250). -/
def execQueueDisable (q : QueueId) (s : State) : Out := .next (stopQueue s q.val)

end Sys2Proof.Machine
end

