-- ==== Sys2Proof/Machine/Gang.lean ====
section
/-! DEFINITION. Requests to a tile from outside its streams (R367, R371, R379, R438), IDLE's wake events (R378), and the parts of gang time that
other events meet: the fields of a timed-launch record (R425), GANG messages (R430), the gang count (R429), READY and VERDICT (R432-R434), and
the end of a record (R425, R436). -/

namespace Sys2Proof.Machine

/-! ### Requests to a tile -/

/-- Every IDLE of a tile wakes with a code (R378). -/
def wakeTile (x : Tile) (code : Word64) : Tile :=
  let w := fun (c : Core) => { c with v := wakeIdle c.v code }
  { x with ld := w x.ld, cp := w x.cp, st := w x.st }

/-- What ctl.svstat bits 7:2 show of a drain (R362). -/
def statusBits (d : Drain) : List Bool := [d.preq, d.restore, d.drained || d.restore, d.draining, d.spend.isSome]

/-- A tile's drain changed: IDLEs of contexts entered for a drain or a restore wake when ctl.svstat bits 7:2 change (R378). -/
def statusWake (x : Tile) (d : Drain) : Tile :=
  let w := fun (c : Core) => if c.v.mode = .entered ∧ statusBits d ≠ statusBits x.drain then { c with v := wakeIdle c.v 2 } else c
  { x with ld := w x.ld, cp := w x.cp, st := w x.st, drain := d }

/-- PREEMPT's information word (R359). -/
def preemptInfo (ridge restore : Bool) : BitVec 32 := BitVec.ofNat 32 (ofBool ridge + ofBool restore * 256)

/-- A tile's drain with fields changed. -/
def setDrain (s : State) (t : TileId) (d : Drain) : State := s.setTile t { s.tile t with drain := d }

/-- PREEMPT is raised in a tile (R379, R432): in a drain it sets PREQ (R367); before the streams are released it waits for them. -/
def requestPreempt (s : State) (t : TileId) (ridge : Bool) : State :=
  let x := s.tile t
  match x.task with
  | none => s
  | some k =>
    if inDrain x || k.tstart.isNone then
      s.setTile t (statusWake x { x.drain with preq := true, ridge := x.drain.ridge || ridge })
    else
      let s := tileDrain s t 0x38 fun _ => preemptInfo ridge false
      setDrain s t { (s.tile t).drain with ridge := ridge }

/-- STRAGGLER is raised in a tile (R438): in a drain it sets SPEND. -/
def raiseStraggler (s : State) (t : TileId) (info : BitVec 32) : State :=
  let x := s.tile t
  match x.task with
  | none => s
  | some k =>
    if inDrain x || k.tstart.isNone then s.setTile t (statusWake x { x.drain with spend := some info })
    else tileDrain s t 0x31 fun _ => info

/-- Every tile that satisfies a test, in ascending order, given to a function. -/
def eachTile (s : State) (p : Tile → Bool) (f : State → TileId → State) : State :=
  (List.finRange 192).foldl (fun s t => if p (s.tile t) then f s t else s) s

/-! ### Timed-launch records (R425) -/

/-- ACTION. -/
def tlrAction (bs : List Byte) : Nat := fieldAt bs 2 1
/-- POLICY.BARRIER. -/
def tlrBarrier (bs : List Byte) : Bool := fieldAt bs 3 1 % 2 == 1
/-- POLICY.FAULT. -/
def tlrFault (bs : List Byte) : Bool := fieldAt bs 3 1 / 2 % 2 == 1
/-- PART. -/
def tlrPart (bs : List Byte) : Nat := fieldAt bs 4 2
/-- LEAD. -/
def tlrLead (bs : List Byte) : Nat := fieldAt bs 6 2
/-- GANG. -/
def tlrGang (bs : List Byte) : Nat := fieldAt bs 8 8
/-- T. -/
def tlrT (bs : List Byte) : Nat := fieldAt bs 0x10 8
/-- DELTA. -/
def tlrDelta (bs : List Byte) : Nat := fieldAt bs 0x18 4
/-- GRACE. -/
def tlrGrace (bs : List Byte) : Nat := fieldAt bs 0x1C 4
/-- LPKT. -/
def tlrLpkt (bs : List Byte) : Nat := fieldAt bs 0x20 8

/-- Whether the record's job pre-empts or cancels: the actions that drain (R432). -/
def drains (bs : List Byte) : Bool := tlrAction bs == 1 || tlrAction bs == 3

/-- Whether U exceeds half of DELTA (R428). -/
def clockBad (s : State) (bs : List Byte) : Bool := tlrDelta bs / 2 < s.time.unc.toNat

/-- The armed record of a gang. -/
def State.ridge (s : State) (g : Word64) : Option Ridge := s.gang.ridges.find? fun r => r.gang == g
/-- The armed record of a gang changed. -/
def updRidge (s : State) (g : Word64) (f : Ridge → Ridge) : State :=
  { s with gang := { s.gang with ridges := s.gang.ridges.map fun r => if r.gang = g then f r else r } }

/-! ### Messages (R430) -/

/-- A GANG packet. -/
def gangPacket (s : State) (sub dmod : Nat) (g t : Word64) (cmpv delta : Nat) : Packet :=
  sealPacket { blankPacket with
    ty := 13, ctl := 6, dmod := BitVec.ofNat 12 dmod, smod := s.fab.modnum, sch := schModule, addr := t, opnd := g,
    cmpv := BitVec.ofNat 64 cmpv, opc := BitVec.ofNat 16 sub, delta := BitVec.ofNat 32 delta }

/-- The event in which a GANG message arrives. -/
def gangEvent (p : Packet) : Instr :=
  match p.opc.toNat % 16 with
  | 1 => .gangArm p
  | 2 => .gangDecide p
  | 3 => .gangVerdict p
  | 4 => .gangFallback p
  | 5 => .gangReady p
  | 6 => .gangGo p
  | _ => .gangQuery p

/-- The die whose gateway sends a module-level message: the lowest with a port up (log entry 22). -/
def gangDie (s : State) : DieId := ((List.finRange 12).find? fun d => portsUp s d.val).getD 0

/-- A GANG message leaves, or arrives next when it is for this module. -/
def sendGang (s : State) (p : Packet) : State :=
  if p.dmod = s.fab.modnum then s.soon (gangEvent p)
  else emit s (gangDie s) p

/-- A message of a participant to its lead. -/
def toLead (s : State) (r : Ridge) (sub cmpv delta : Nat) : State :=
  sendGang s (gangPacket s sub (tlrLead r.bytes) r.gang (BitVec.ofNat 64 (tlrT r.bytes)) cmpv delta)

/-- The job's requests that have left the module through the fabric and are not answered (R429), those of the dispatchers for it included. -/
def gangCount (s : State) (j : Nat) : Nat := (s.fab.reqs.filter fun r => r.pkt.job.val == j).length

/-- VERDICT's CMPV (R430). -/
def verdictCmpv (r : Ridge) (clock : Bool) : Nat := r.inflight.toNat + ofBool clock * 2 ^ 32 + ofBool (r.rflags.getLsbD 1) * 2 ^ 33

/-- VERDICT is sent (R432). -/
def sendVerdict (s : State) (r : Ridge) (clock : Bool) : State :=
  updRidge (toLead s r 3 (verdictCmpv r clock) 0) r.gang fun r => { r with verdictSent := true }

/-- Whether a tile of a job is still draining for an action. -/
def stillDrains (j : Nat) (x : Tile) : Bool := holdsJob j x && x.drain.ridge && !x.drain.drained

/-- What a participant now has to tell its lead: READY once its count is 0 under FALLBACK (R434), VERDICT once its drains are complete
(R432). -/
def ridgeReport (s : State) (r : Ridge) : State :=
  let code := match r.dec with | some d => d.code.toNat | none => 0
  if r.fin then s
  else if code = 2 ∧ !r.readySent ∧ gangCount s r.job.val = 0 then
    updRidge (toLead s r 5 0 0) r.gang fun r => { r with readySent := true }
  else if code = 1 ∧ r.acted.isSome ∧ drains r.bytes ∧ !r.verdictSent ∧ !s.tiles.any (stillDrains r.job.val) then sendVerdict s r false
  else s

/-- Every armed record's report. -/
def gangProgress (s : State) : State := s.gang.ridges.foldl (fun s r => match s.ridge r.gang with | some r => ridgeReport s r | none => s) s

/-! ### The end of a record -/

/-- The quiesce of a job ends (R429). -/
def endQuiesce (s : State) (r : Ridge) : State :=
  let s := updRidge s r.gang fun r => { r with quiesced := false }
  { s with gang := { s.gang with stuck := s.gang.stuck.filter (· != r.job) } }

/-- RFLAGS (R425). -/
def ridgeFlags (s : State) (bs : List Byte) (f : BitVec 8) : Nat := f.toNat % 4 + ofBool (tlrLead bs == s.fab.modnum.toNat) * 4

/-- The result half of a record (R425). -/
def ridgeResult (s : State) (r : Ridge) (status reason smod heard : Nat) : List Byte :=
  leBytes 2 status ++ leBytes 1 (ridgeFlags s r.bytes r.rflags) ++ leBytes 1 reason ++
  leBytes 2 (if reason = 2 ∨ reason = 4 then smod else 0xFFFF) ++
  leBytes 2 (if tlrLead r.bytes = s.fab.modnum.toNat then heard else 0) ++ leBytes 8 (r.acted.getD 0) ++ leBytes 8 r.armedAt ++
  leBytes 4 r.drained.toNat ++ leBytes 4 r.inflight.toNat ++ leBytes 4 r.unc.toNat ++ leBytes 2 r.tiles.toNat ++ zeros 26

/-- A packet changed. -/
def updPkt (s : State) (id : Nat) (f : Pkt → Pkt) : State :=
  { s with disp := { s.disp with pkts := s.disp.pkts.map fun p => if p.id = id then f p else p } }

/-- A record ends with a STATUS (R424, R425): its packet has its status and the result to write. -/
def finishRidge (s : State) (r : Ridge) (status reason smod heard : Nat) : State :=
  let res := ridgeResult s r status reason smod heard
  let s := updRidge s r.gang fun r => { r with fin := true }
  updPkt s r.pkt fun p => { p with status := some (if status = 1 then 0 else 8), recs := res }

/-- ctl.svridge of every core of the tiles that a record drains (R437): a DEC that is not 0 writes the doorbell. -/
def setRidgeBits (s : State) (r : Ridge) (dec : Nat) : State :=
  let v := BitVec.ofNat 5 (dec + tlrAction r.bytes * 4 + ofBool (r.rflags.getLsbD 0) * 16)
  eachTile s (fun x => holdsJob r.job.val x && x.drain.ridge) fun s t =>
    let x := s.tile t
    let c := fun (c : Core) => { c with v := { c.v with ridge := v } }
    let x := { x with ld := c x.ld, cp := c x.cp, st := c x.st }
    s.setTile t (if dec = 0 then x else wakeTile x 3)

/-- FALLBACK is sent when U exceeds half of DELTA for the first time after a participant's ARM and before T - DELTA (R428). -/
def fallbackCheck (s : State) : State :=
  s.gang.ridges.foldl
    (fun s r =>
      if !r.fin && !r.late && !r.sentFb && r.dec.isNone && clockBad s r.bytes && s.ns + tlrDelta r.bytes < tlrT r.bytes then
        updRidge (toLead s r 4 0 0) r.gang fun r => { r with sentFb := true }
      else s) s

end Sys2Proof.Machine
end

