-- ==== Sys2Proof/Machine/Drain.lean ====
section
/-! DEFINITION. The drain after its trigger (chapter 17): the detectors that trigger it (R158, R382, R383), its completion with the in-flight
table (R365-R368), and what SVRET decides: completion, leaving, re-entry, or resumption from the table (R369-R375). -/

namespace Sys2Proof.Machine

/-! ### Detectors -/

/-- The live streams of a tile, as bits 6:4 of an information word (R156). -/
def liveBits (x : Tile) : Nat :=
  ofBool (x.ld.u.life == .live) * 16 + ofBool (x.cp.u.life == .live) * 32 + ofBool (x.st.u.life == .live) * 64

/-- Reason and queue code of a stream's stop (R156, R319). -/
def stallCode (c : Core) : Nat :=
  match c.stall with
  | some (.wait q) => q.toNat
  | some (.post q) => 4 + q.toNat
  | _ => 8

/-- Whether a tile has been blocked for 4,096 clocks (R158). -/
def deadlockDue (x : Tile) : Bool := x.task.isSome && !inDrain x && anyLive x && 4096 ≤ x.blocked
/-- Whether the watchdog count of a tile has reached its limit (R383). -/
def hangDue (x : Tile) : Bool := x.task.isSome && !inDrain x && anyLive x && 2 ^ wdogExp x ≤ x.wcount

/-- TOKEN_DEADLOCK (R156, R158). -/
def execTokenDeadlock (t : TileId) (s : State) : Out :=
  let x := s.tile t
  if deadlockDue x then
    .next (tileDrain s t 0x0A fun st => BitVec.ofNat 32 (liveBits x + stallCode (x.core st)))
  else .next s

/-- HANG (R382, R383). -/
def execHang (t : TileId) (s : State) : Out :=
  let x := s.tile t
  if hangDue x then
    .next (tileDrain s t 0x30 fun _ => BitVec.ofNat 32 (liveBits x + wdogExp x * 256))
  else .next s

/-! ### The in-flight table (R368) -/

/-- The POST doubleword of an entry. -/
def postWord : Option PendPost → Nat
  | none => 0
  | some p => (selCode p.q).toNat + p.ty.val * 16 + p.val.toNat * 256

/-- The common first 64 bytes of an entry and its REGS. -/
def entryHead (kind chan progress regs : Nat) (started : Bool) (o : OpInfo) : List Byte :=
  leBytes 1 kind ++ leBytes 1 (streamCode o.stream) ++ leBytes 1 chan ++ leBytes 1 (ofBool o.fault.isSome + ofBool started * 2) ++
  leBytes 4 o.order ++ leBytes 8 progress ++ leBytes 16 o.word.toNat ++ leBytes 8 (postWord o.post) ++ leBytes 8 o.seed.toNat ++
  leBytes 8 o.ctr.toNat ++ leBytes 1 o.mode.toNat ++ leBytes 1 (match o.fault with | some f => f.cause.toNat | none => 0) ++
  leBytes 1 o.flags.toNat ++ zeros 5 ++ leBytes 32 regs

/-- The four registers read at issue. -/
def entryRegs (o : OpInfo) : Nat := o.ra.toNat + o.rb.toNat * 2 ^ 64 + o.rc.toNat * 2 ^ 128 + o.rf.toNat * 2 ^ 192

/-- A transfer's entry. -/
def xferEntry (st : Store) (o : XferOp) : List Byte :=
  entryHead 1 o.ch.val (o.progress st) (entryRegs o.info) o.started o.info ++
  (if o.layout = [] then zeros 64 else o.layout.take 64) ++
  (match o.maqId with | some (v, q) => leBytes 2 v.toNat ++ zeros 2 ++ leBytes 4 q.toNat ++ zeros 88 | none => zeros 96)

/-- The doublewords of the nest registers, 5-7 reading 0. -/
def nestDwords (r : Vector Word64 20) : List Byte := r.toList.zipIdx.flatMap fun p => leBytes 8 (if 5 ≤ p.2 ∧ p.2 ≤ 7 then 0 else p.1.toNat)

/-- A nest's entry. -/
def nestEntry (running : Bool) (n : NestOp) : List Byte :=
  entryHead 2 0xFF n.steps (leNat ((nestIndex (nestLevs n.regs) n.steps).flatMap (leBytes 2))) running n.info ++ nestDwords n.regs

/-- A MOUT's entry. -/
def moutEntry (m : MoutOp) : List Byte := entryHead 3 0xFF m.rows (entryRegs m.info) true m.info ++ zeros 160

/-- A CFENCE's entry. -/
def cfEntry (c : CfOp) : List Byte := entryHead 4 0xFF 0 0 false c.info ++ zeros 160

/-- An entry with its acceptance number, put in order. -/
def insertEntry (e : Nat × List Byte) : List (Nat × List Byte) → List (Nat × List Byte)
  | [] => [e]
  | a :: r => if e.1 < a.1 then e :: a :: r else a :: insertEntry e r

/-- Whether an operation was accepted before the drain's trigger (R365). -/
def beforeMark (x : Tile) (o : OpInfo) : Bool := o.order < x.drain.mark

/-- The entries of the operations that the drain stopped, in acceptance order. -/
def drainEntries (x : Tile) : List (Nat × List Byte) :=
  let xs := (x.xfers.filter fun o => beforeMark x o.info).map fun o => (o.info.order, xferEntry x.store o)
  let rs := (x.eng.running.toList.filter fun n => beforeMark x n.info).map fun n => (n.info.order, nestEntry true n)
  let ps := (x.eng.pending.toList.filter fun n => beforeMark x n.info).map fun n => (n.info.order, nestEntry false n)
  let ms := (x.eng.mout.toList.filter fun m => beforeMark x m.info).map fun m => (m.info.order, moutEntry m)
  let cs := (x.eng.cf.filter fun c => beforeMark x c.info).map fun c => (c.info.order, cfEntry c)
  (xs ++ rs ++ ps ++ ms ++ cs).foldr insertEntry []

/-- The table's doublewords from byte strings of 256 bytes. -/
def tableOf (es : List (List Byte)) : SMap Word64 :=
  (es.zipIdx).foldl
    (fun m p => (List.range 32).foldl (fun m w => smSet 0 (32 * p.2 + w) (BitVec.ofNat 64 (fieldAt p.1 (8 * w) 8)) m) m) []

/-- An entry's 256 bytes. -/
def tableEntry (m : SMap Word64) (e : Nat) : List Byte := (List.range 32).flatMap fun w => leBytes 8 (smGet 0 (32 * e + w) m).toNat

/-- The posts whose reserved slots the drain releases (R365). -/
def drainPosts (x : Tile) : List OpInfo :=
  (x.xfers.map (·.info) ++ x.nests.map (·.info) ++ x.eng.mout.toList.map (·.info) ++ x.eng.cf.map (·.info)).filter (beforeMark x)

/-- A channel without the operations the drain recorded. -/
def Chan.after (x : Tile) (c : Chan) : Chan := { c with ops := c.ops.filter fun o => !beforeMark x o.info }

/-- The engines once the stopped operations are recorded; their ranges and leases stay in force (R365). -/
def drainedEng (x : Tile) : Engines :=
  { x.eng with
    running := x.eng.running.filter fun n => !beforeMark x n.info, pending := x.eng.pending.filter fun n => !beforeMark x n.info,
    mout := x.eng.mout.filter fun m => !beforeMark x m.info, cf := x.eng.cf.filter fun c => !beforeMark x c.info,
    chLoad := x.eng.chLoad.map (Chan.after x), chStore := x.eng.chStore.map (Chan.after x),
    frozenX := x.xfers.filter fun o => beforeMark x o.info, kept := x.xfers.filter fun o => beforeMark x o.info, frozenN := x.nests.filter fun n => beforeMark x n.info,
    frozenM := x.eng.mout.toList.filter fun m => beforeMark x m.info }

/-- INFL of a core's record (R361): the number of the entry that holds its faulting operation. -/
def inflOf (es : List (Nat × List Byte)) (c : Core) : Core :=
  match c.v.trec.ford with
  | none => c
  | some k =>
    match es.findIdx? fun e => e.1 == k with
    | some n => { c with v := { c.v with trec := { c.v.trec with infl := BitVec.ofNat 8 n } } }
    | none => c

/-! ### Completion of the drain (R366) -/

/-- Whether only another operation's progress, or the end of a quiesce (R429), lets the flag write of an operation go on. -/
def flagHeld (s : State) (pl : Place) (o : XferOp) : Bool :=
  match flagPage s pl o with
  | some g => mustFollow s pl o.info.order [⟨g.pa, 8, g.ord⟩] || (jobQuiesced s (tileJob (s.tile pl.t)) && leaves s g)
  | none => false

/-- Whether a transfer has come to rest (R321, R365): nothing is outstanding, and nothing that it has still to complete, its flag after all its
data among it, can go on before operations that the drain has stopped, or a quiesce, let it. -/
def xferRests (s : State) (t : TileId) (o : XferOp) : Bool :=
  let x := s.tile t
  let pl : Place := ⟨t, o.info.stream == .store⟩
  !beforeMark x o.info ||
  (o.out == [] && o.flag != .sent &&
    (!o.started ||
      ((o.toFinish x.store).all (fun kp => (lockOf s (redOwner pl o kp.1)).isNone && pieceHeld s pl o kp.2) &&
        (o.info.fault.isSome || o.flag != .waiting || isRflag o.inst || o.dataLeft x.store || flagHeld s pl o))))

/-- Whether a stream has stopped, with its service context entered unless the drain enters none (R363, R366), or back from its SVRET.done
(R372). -/
def coreRests (quiet : Bool) (c : Core) : Bool :=
  c.pend.isNone && (c.u.life != .live || (c.stopped && (quiet || c.v.mode != .share || c.v.vote.isSome)))

/-- Whether nothing that a core of a tile stopped by R373 has sent is still under way (R366, R306). -/
def sentRests (s : State) (c : Core) : Bool :=
  match c.remote with
  | some r =>
    if r.kind == .enq then !(s.fab.reqs.any fun q => q.owner.ofEnq r.tag) && !(s.host.win.any fun q => q.owner.ofEnq r.tag)
    else !r.sent || r.resp.isSome
  | none => true

/-- Whether the drain of a tile can complete (R366). -/
def drainReady (s : State) (t : TileId) : Bool :=
  let x := s.tile t
  x.task.isSome && x.drain.draining && coreRests x.drain.quiet x.ld && coreRests x.drain.quiet x.cp && coreRests x.drain.quiet x.st &&
  (!x.drain.dead || (sentRests s x.ld && sentRests s x.cp && sentRests s x.st)) &&
  x.xfers.all (xferRests s t) && x.eng.running.all fun n => n.info.fault.isSome || !n.replay

/-- Entered contexts ended without their SVRET, at ctl.svvec (R263). -/
def endEntered (x : Tile) : Tile :=
  let e := fun (c : Core) => if c.v.mode = .share then c else { c with v := { c.v with idle := none, regs := { c.v.regs with pc := c.v.vec } } }
  { x with ld := e x.ld, cp := e x.cp, st := e x.st }

/-- A cancelled task completes once the drain is over (R263); one whose service context has trapped completes TRAP (R373). -/
def cancelNow (s : State) (t : TileId) : State :=
  if (s.tile t).drain.dead then completeTask s t 1 (s.tile t).drain.first 0
  else completeTask (s.setTile t (endEntered (s.tile t))) t 2 none 0

/-- The in-flight table is made, and DRAINED reads 1 (R366, R368). -/
def makeTable (s : State) (t : TileId) : State :=
  let x := s.tile t
  let es := drainEntries x
  let y := (drainPosts x).foldl (fun y o => releasePost y o.stream o.post) x
  let y := { y with
    eng := drainedEng x, store := { y.store with infl := tableOf (es.map (·.2)) },
    ld := inflOf es y.ld, cp := inflOf es y.cp, st := inflOf es y.st }
  let s := s.setTile t (statusWake y { y.drain with draining := false, drained := true })
  match x.task with
  | some k =>
    if x.drain.ridge then
      { s with gang := { s.gang with ridges := s.gang.ridges.map fun r =>
          if r.job = k.job ∧ !r.fin then { r with drained := r.drained + BitVec.ofNat 32 es.length } else r } }
    else s
  | none => s

/-! ### Re-entry (R371, R374) -/

/-- A core entered again in the drain of its tile: live streams with a new record, at once, or when the access with which their service context
holds the core has completed (R364); others leave their context. -/
def reenterCore (s : State) (t : TileId) (st : Stream) (ti : TrapInfo) (infl : BitVec 8) : Core :=
  let c := (s.tile t).core st
  let r := { trapRec s t st ti with infl := infl }
  if c.u.life = .live then
    if heldAccess c then { c with stopped := true, pend := some r, v := { c.v with vote := none } }
    else enterService { c with remote := none } .entered r
  else { c with v := { c.v with mode := .share, vote := none } }

/-- Every live stream is re-entered; the tile's state and table stay (R371, R374). -/
def reenter (s : State) (t : TileId) (ti : TrapInfo) (infl : BitVec 8) : State :=
  s.setTile t { s.tile t with
    ld := reenterCore s t .load ti infl, cp := reenterCore s t .compute ti infl, st := reenterCore s t .store ti infl }

/-! ### Resumption (R374) -/

/-- An operation read back from the table. -/
inductive ReOp where
  | xfer (o : XferOp)
  | nest (n : NestOp)
  | mout (m : MoutOp)
  | cf (c : CfOp)

/-- What is common to an operation read back. -/
def ReOp.info : ReOp → OpInfo
  | .xfer o => o.info
  | .nest n => n.info
  | .mout m => m.info
  | .cf c => c.info

/-- Whether the OP of an entry's word fits its KIND (R374). -/
def kindOk (kind op : Nat) : Bool :=
  match kind with
  | 1 => (0x40 ≤ op && op ≤ 0x44) || (0x60 ≤ op && op ≤ 0x64) || op == 0x66 || op == 0x67
  | 2 => op == 0xE1
  | 3 => op == 0xE3
  | 4 => op == 0x52
  | _ => false

/-- The stream an entry names. -/
def entryStream (n : Nat) : Option Stream :=
  match n with
  | 0 => some .load
  | 1 => some .compute
  | 2 => some .store
  | _ => none

/-- Whether a core's class issues an entry's OP (R374). -/
def streamOk (kind op : Nat) (st : Stream) : Bool :=
  match kind with
  | 1 => if op < 0x60 then st == .load else st == .store
  | 4 => st == .load || st == .store
  | _ => st == .compute

/-- The pending post of an entry; none of a type that no post has. -/
def entryPost (v : Nat) : Option (Option PendPost) :=
  let q : Option QSel := match v % 4 with | 1 => some .first | 2 => some .second | 3 => some .both | _ => none
  match q with
  | none => some none
  | some q => if h : v / 16 % 16 < 14 then some (some ⟨q, ⟨v / 16 % 16, h⟩, BitVec.ofNat 12 (v / 256)⟩) else none

/-- Whether the posts of an entry find room, counting what lower entries have reserved (R374). -/
def entryRoom (x : Tile) (st : Stream) : Option PendPost → Bool
  | none => true
  | some p =>
    (peersOf p.q).all fun b =>
      let q := x.queue (queueOut st b)
      !x.consumerLive st b || q.count.toNat + q.reserved < q.ceil.toNat

/-- The nest registers of an entry. -/
def entryNest (bs : List Byte) : Vector Word64 20 := Vector.ofFn fun i => BitVec.ofNat 64 (fieldAt bs (0x60 + 8 * i.val) 8)

/-- What an entry gives of an operation, with a fresh acceptance number. -/
def entryInfo (x : Tile) (bs : List Byte) (st : Stream) (post : Option PendPost) : OpInfo :=
  { stream := st, ctx := .user, order := x.eng.order, word := BitVec.ofNat 128 (fieldAt bs 0x10 16), post := post,
    seed := BitVec.ofNat 64 (fieldAt bs 0x28 8), ctr := BitVec.ofNat 64 (fieldAt bs 0x30 8), mode := BitVec.ofNat 3 (fieldAt bs 0x38 1),
    ra := BitVec.ofNat 64 (fieldAt bs 0x40 8), rb := BitVec.ofNat 64 (fieldAt bs 0x48 8), rc := BitVec.ofNat 64 (fieldAt bs 0x50 8),
    rf := BitVec.ofNat 64 (fieldAt bs 0x58 8), flags := BitVec.ofNat 5 (fieldAt bs 0x3A 1), fault := none }

/-- The transfer an entry records, not started (R374); a maquette is read again and must be the same (R351). -/
def entryXfer (bs : List Byte) (o : OpInfo) (i : Instr) (tag : Nat) : XferOp :=
  let ver := fieldAt bs 0xA0 2
  let x : XferOp := {
    info := o, ch := ⟨fieldAt bs 2 1 % 8, Nat.mod_lt _ (by decide)⟩, inst := i, layout := if hasRecord i then (bs.drop 0x60).take 64 else [],
    maq := [], maqId := if ver = 0 then none else some (BitVec.ofNat 16 ver, BitVec.ofNat 32 (fieldAt bs 0xA4 4)),
    prefixBytes := fieldAt bs 8 8, started := false, done := [], out := [], air := [], arrived := [], bad := [], came := [], flag := .none,
    stag := BitVec.ofNat 16 (1 + tag % 65535), maqTo := [], cancel := false, tag := tag }
  { x with flag := if (flagOf x).isSome then .waiting else .none }

/-- The operation of an entry, with its whole (R374). -/
def entryOp (bs : List Byte) (kind : Nat) (o : OpInfo) (i : Instr) (tag : Nat) : Option (ReOp × Nat) :=
  let n := fieldAt bs 8 8
  match kind with
  | 1 => let x := entryXfer bs o i tag; some (.xfer x, x.rangeLen)
  | 2 => let r := entryNest bs; some (.nest { info := o, regs := r, steps := n, ghost := false, replay := false }, nestTotal r)
  | 3 => some (.mout ⟨o, i, n⟩, 128)
  | 4 => (match i with | .cfence m _ => some (.cf ⟨o, m⟩, 0) | _ => none)
  | _ => none

/-- The checks of one entry (R374): the operation to reissue, or none. -/
def checkEntry (x : Tile) (bs : List Byte) (tag : Nat) : Option ReOp :=
  let kind := fieldAt bs 0 1
  let w : Word128 := BitVec.ofNat 128 (fieldAt bs 0x10 16)
  match decode w, entryStream (fieldAt bs 1 1), entryPost (fieldAt bs 0x20 8) with
  | .ok i, some st, some post =>
    if i.wf && kindOk kind (wordOp w) && streamOk kind (wordOp w) st && (x.core st).u.life == .live &&
        fieldAt bs 2 1 == (if kind = 1 then w.toNat / 2 ^ 80 % 8 else 0xFF) && entryRoom x st post then
      match entryOp bs kind (entryInfo x bs st post) i tag with
      | some (r, whole) => if fieldAt bs 8 8 ≤ whole then some r else none
      | none => none
    else none
  | _, _, _ => none

/-- A reissued operation joins its channel or the array, or there is no place for it. -/
def placeOp (x : Tile) : ReOp → Option Tile
  | .xfer o =>
    let store := o.info.stream == .store
    let c := x.chan store o.ch
    some (x.setChan store o.ch { c with ops := c.ops ++ [o] })
  | .nest n =>
    if x.eng.running.isNone then some { x with eng := { x.eng with running := some n } }
    else if x.eng.pending.isNone then some { x with eng := { x.eng with pending := some n } }
    else none
  | .mout m => if x.eng.mout.isNone then some { x with eng := { x.eng with mout := some m } } else none
  | .cf c => some { x with eng := { x.eng with cf := x.eng.cf ++ [c] } }

/-- A transfer read back goes on where the drain found it (R321, R375): what was performed above its prefix is not performed again, nor is what
homes of its pieces have written, or combined into a result word. -/
def XferOp.goesOn (k o : XferOp) : XferOp :=
  { o with done := k.done, tag := k.tag, arrived := if inbound o.inst && !k.reduces then [] else k.arrived.filter fun a => !isMaqPart a.2.1 }

/-- An operation read back from an entry, with what its tile keeps of it if the entry is the one that the drain wrote. -/
def ReOp.recall (x : Tile) (bs : List Byte) : ReOp → ReOp
  | .xfer o => .xfer (match x.eng.kept.find? fun k => xferEntry x.store k == bs with | some k => k.goesOn o | none => o)
  | r => r

/-- One entry checked and reissued (R374): the tile with it, or none. -/
def reissue (x : Tile) (bs : List Byte) (tag : Nat) : Option Tile :=
  match checkEntry x bs tag with
  | none => none
  | some r =>
    match placeOp x (r.recall x bs) with
    | none => none
    | some y =>
      let y := reservePost y r.info.stream r.info.post
      some { y with eng := { y.eng with order := y.eng.order + 1 } }

/-- The entries in ascending ORDER: the tile with all of them, or the number of the first that fails. -/
def reissueAll (x : Tile) (tag : Nat) : List (Nat × Nat) → Tile ⊕ Nat
  | [] => .inl x
  | (_, e) :: r =>
    match reissue x (tableEntry x.store.infl e) (tag + e) with
    | some y => reissueAll y tag r
    | none => .inr e

/-- A number with its key put before larger keys. -/
def insertKey (e : Nat × Nat) : List (Nat × Nat) → List (Nat × Nat)
  | [] => [e]
  | a :: r => if a.1 ≤ e.1 then a :: insertKey e r else e :: a :: r

/-- The non-empty entries of a table as (ORDER, number), in ascending ORDER. -/
def tableOrder (m : SMap Word64) : List (Nat × Nat) :=
  ((List.range 32).filterMap fun e =>
    let h := smGet 0 (32 * e) m
    if h.toNat % 256 = 0 then none else some (h.toNat / 2 ^ 32, e)).foldl (fun a p => insertKey p a) []

/-- The user PC of a core that skips its SVCALL (R370). -/
def skipCore (c : Core) : Core :=
  if c.v.vote = some .skip then { c with u := { c.u with regs := { c.u.regs with pc := c.v.trec.tpc + 16 } } } else c

/-- A core that restarts: its context in share mode, its instruction cache empty (R374). -/
def resumeCore (c : Core) : Core :=
  { c with v := { c.v with mode := .share, vote := none, ridge := 0 }, ic := [], word := none, codes := [], stopped := false, pend := none, stall := none,
           remote := c.ownRemote }

/-- The tile resumes (R374), or is re-entered with ILLEGAL. -/
def resumeTile (s : State) (t : TileId) : State :=
  let x := s.tile t
  let tag := s.fab.nextTag
  let s := { s with fab := { s.fab with nextTag := tag + 32 } }
  let x0 := { x with
    queues := x.queues.map fun q => { q with reserved := 0 },
    eng := { x.eng with frozenX := [], frozenN := [], frozenM := [] } }
  match reissueAll x0 tag (tableOrder x.store.infl) with
  | .inr e => reenter s t { cause := 0x01, info := BitVec.ofNat 32 e } (BitVec.ofNat 8 e)
  | .inl y =>
    let y := { y with
      ld := resumeCore (skipCore y.ld), cp := resumeCore (skipCore y.cp), st := resumeCore (skipCore y.st), store := { y.store with infl := [] }, eng := { y.eng with kept := [] },
      drain := Drain.none, blocked := 0, wcount := 0, sink := false }
    let s := s.setTile t y
    match x.task with
    | some k => settleJob (completeIfExited s t) k.job.val
    | none => s

/-! ### What SVRET decides (R370, R371) -/

/-- The cores of a tile whose context was entered for the drain, in ascending ctl.stream: those that still are, and those that have returned
with their decision (R369). -/
def enteredCores (x : Tile) : List Core := [x.ld, x.cp, x.st].filter fun c => c.v.mode == .entered || c.v.vote.isSome

/-- The status of the .done of lowest ctl.stream. -/
def doneVote (x : Tile) : Option (BitVec 16) :=
  (enteredCores x).findSome? fun c => match c.v.vote with | some (.done v) => some v | _ => none

/-- Whether a context has voted .leave. -/
def leaveVote (x : Tile) : Bool := (enteredCores x).any fun c => c.v.vote == some .leave

/-- What is kept of a tile's transfers for its saved task. -/
def savedEng (x : Tile) : SavedEng := ⟨x.eng.kept, x.eng.chLoad.map (·.retired), x.eng.chStore.map (·.retired)⟩

/-- The task leaves its tile with no record (R370, R379); its stalled FEEDPOPs leave their feeds (R268). -/
def leaveTile (s : State) (t : TileId) : State :=
  let s := dropWaiters s t
  let x := s.tile t
  match x.task with
  | none => s
  | some k =>
    let s := setTaskEnt s k.pkt k.index (.saved t.val)
    let s := { s with disp := { s.disp with
      saved := s.disp.saved ++ [(t.val, k, #v[x.ld.u.life, x.cp.u.life, x.st.u.life])], engs := ((k.pkt, k.index), savedEng x) :: s.disp.engs } }
    settleJob (s.setTile t (idleTile x)) k.job.val

/-- The decision of .resume and .skip (R370, R371, R374). -/
def resumeOrReenter (s : State) (t : TileId) : State :=
  let x := s.tile t
  match x.drain.spend with
  | some info => reenter (setDrain s t { x.drain with spend := none }) t { cause := 0x31, info := info } 0xFF
  | none =>
    if x.drain.preq then
      reenter (setDrain s t { x.drain with preq := false }) t { cause := 0x38, info := preemptInfo x.drain.ridge false } 0xFF
    else resumeTile s t

/-- What the tile does once its drain is complete and every entered context has voted (R370-R372); a drain with a FABRIC TIMEOUT ends as .done
with TRAP (R408). -/
def decideTile (s : State) (t : TileId) : State :=
  let x := s.tile t
  if !x.drain.drained || x.ld.pend.isSome || x.cp.pend.isSome || x.st.pend.isSome || (enteredCores x).isEmpty || (enteredCores x).any fun c => c.v.vote.isNone then s
  else if x.drain.timeout then completeTask s t 1 x.drain.first 0
  else
    match doneVote x with
    | some v => completeTask s t v x.drain.first 0
    | none => if leaveVote x then leaveTile s t else resumeOrReenter s t

/-- A context's decision recorded (R369): the SVRET retires, the context returns to share mode, and the tile decides if it was the last. -/
def castVote (s : State) (v : Vote) : Flow :=
  let s := retire (s.setRegs (loopNext s.regs s.pc))
  let c := s.myCore
  .raw (decideTile (s.setMyCore { c with v := { c.v with mode := .share, vote := some v } }) s.cur.tile)

/-- A context entered alone returns to share mode (R372): `skip` passes the SVCALL. -/
def leaveAlone (s : State) (skip : Bool) : Flow :=
  let s := retire (s.setRegs (loopNext s.regs s.pc))
  let c := s.myCore
  let pc := if skip then c.v.trec.tpc + 16 else c.u.regs.pc
  .raw (s.setMyCore { c with
    u := { c.u with regs := { c.u.regs with pc := pc } }, v := { c.v with mode := .share }, stopped := inDrain s.me, stall := none })

/-- .done after an SVCALL (R372): the context returns to share mode with its decision, and a drain with the SVCALL record as its first trap
starts. -/
def doneAlone (s : State) (v : BitVec 16) : Flow :=
  let s := retire (s.setRegs (loopNext s.regs s.pc))
  let t := s.cur.tile
  let st := s.cur.stream
  let c := s.myCore
  let s := s.setMyCore { c with stopped := true, v := { c.v with mode := .share, vote := some (.done v) } }
  .raw (startDrain s t false 0x3F (some c.v.trec) fun st' => peerRec s t st' (BitVec.ofNat 8 (streamCode st)))

/-- A .done status (R369). -/
def doneStatus (s : State) (a : GSrc) : BitVec 16 := (s.src a).setWidth 16

/-- The ILLEGAL uses of SVRET (R369, R372). -/
def svretIllegal (s : State) (v : SvretVar) : Bool :=
  let c := s.myCore
  c.v.mode == .share ||
  (match v with
   | .resume => false
   | .skip => c.v.trec.cause != 0x3F
   | .done a => doneStatus s a != 1 && doneStatus s a != 2
   | .leave => c.v.mode == .alone || (match s.me.task with | some k => !(s.job k.job.val).jsave.getLsbD 0 | none => true))

/-- Whether the core's own channels have unretired operations (R369). -/
def ownChannels (s : State) : Bool := chanBusy s.me s.cur.stream

/-- SVRET (R369-R372). -/
def execSvret (v : SvretVar) (sy : Sync) (s : State) : Out :=
  run (.svret v sy)
    (fun s =>
      let c := s.myCore
      if svretIllegal s v then illegal 0
      else if c.v.mode = .alone then
        (match v with
         | .resume => leaveAlone s false
         | .skip => leaveAlone s true
         | .done a => doneAlone s (doneStatus s a)
         | .leave => illegal 0)
      else if !s.me.drain.drained || ownChannels s then .stall .other
      else
        castVote s
          (match v with
           | .resume => .resume
           | .skip => .skip
           | .done a => .done (doneStatus s a)
           | .leave => .leave)) s

/-! ### The end of the drain -/

/-- DRAIN_COMPLETE (R366): a service context's trap completes the task TRAP (R373), a cancel's drain CANCELLED (R263); any other makes the
table, and the tile decides if every context has decided already (R372); then a record's verdict may be due (R432). -/
def execDrainComplete (t : TileId) (s : State) : Out :=
  let x := s.tile t
  if !drainReady s t then .next s
  else if x.drain.dead then .next (gangProgress (completeTask s t 1 x.drain.first 0))
  else if x.drain.cancel then .next (gangProgress (cancelNow s t))
  else .next (gangProgress (decideTile (makeTable s t) t))

end Sys2Proof.Machine
end

