-- ==== Sys2Proof/Machine/Dispatcher.lean ====
section
/-! DEFINITION. The dispatchers' work on tasks (chapter 10, R379): shares and ready tasks (R257), placement (R258), the start of a task (R162,
R245), the pre-emption and resumption of a job (R379), removal of cached translations (R283), and CANCEL (R263). -/

namespace Sys2Proof.Machine

/-! ### Packets and their tasks -/

/-- COUNT of a TASKS or FEED packet (R246). -/
def Pkt.count (p : Pkt) : Nat := fieldAt p.bytes 4 2
/-- DESC, SRC, TLR or TARGET. -/
def Pkt.addr (p : Pkt) : Nat := fieldAt p.bytes 8 8
/-- ARGSTRIDE, or the task index of a CANCEL. -/
def Pkt.stride (p : Pkt) : Nat := fieldAt p.bytes 0x10 4
/-- LEVEL of a CANCEL. -/
def Pkt.level (p : Pkt) : Nat := fieldAt p.bytes 0x14 4
/-- WAITCTR. -/
def Pkt.waitctr (p : Pkt) : Nat := fieldAt p.bytes 0x18 8
/-- WAITVAL. -/
def Pkt.waitval (p : Pkt) : Nat := fieldAt p.bytes 0x20 8
/-- DONECTR. -/
def Pkt.donectr (p : Pkt) : Nat := fieldAt p.bytes 0x28 8
/-- RECORD. -/
def Pkt.record (p : Pkt) : Nat := fieldAt p.bytes 0x30 8
/-- FLAGS.ACQ. -/
def Pkt.acq (p : Pkt) : Bool := fieldAt p.bytes 3 1 % 2 == 1
/-- FLAGS.IRQ. -/
def Pkt.irq (p : Pkt) : Bool := fieldAt p.bytes 3 1 / 4 % 2 == 1

/-- The dies of a DIEMASK in ascending order (R257). -/
def maskDies (m : Nat) : List Nat := (List.range 12).filter fun d => m / 2 ^ d % 2 == 1
/-- The dies of a TASKS packet. -/
def Pkt.dies (p : Pkt) : List Nat := maskDies (fieldAt p.bytes 6 2)
/-- What has become of a task. -/
def Pkt.ent (p : Pkt) (i : Nat) : TaskEnt := smGet .waiting i p.tasks
/-- Whether a task is complete. -/
def TaskEnt.isDone : TaskEnt → Bool
  | .done _ _ => true
  | _ => false

/-- The lowest unplaced task of a die's share (R257). -/
def Pkt.head (p : Pkt) (die : Nat) : Option Nat :=
  let ds := p.dies
  (List.range p.count).find? fun i => ds.getD (i % ds.length) 12 == die && p.ent i == .waiting

/-- A packet, by its identity. -/
def State.pkt (s : State) (id : Nat) : Option Pkt := s.disp.pkts.find? fun p => p.id == id

/-- The record of a task without streams to report (R255): its status, tile, information and times. -/
def bareRecord (status : Nat) (tile : Nat) (tstart tend : Nat) : List Byte :=
  leBytes 2 status ++ [0xFF, 0] ++ zeros 40 ++ leBytes 2 tile ++ zeros 2 ++ leBytes 8 tstart ++ leBytes 8 tend

/-! ### Placement (R257, R258) -/

/-- Whether a job's ready tasks stay where they are (R379). -/
def heldJob (s : State) (j : Nat) : Bool := let p := (s.job j).pre; p == 1 || p == 2

/-- A ready task: its packet, index, and the time since which it is ready. -/
structure ReadyTask where
  pkt : Pkt
  index : Nat
  since : Nat

/-- The ready tasks of a queue on a die, one of each of its launches. -/
def readyTasks (s : State) (die q : Nat) : List ReadyTask :=
  s.disp.pkts.filterMap fun p =>
    if p.kind = 0 ∧ p.q.val = q ∧ p.started.isSome ∧ p.status.isNone then
      (p.head die).map fun i => ⟨p, i, smGet 0 die p.ready⟩
    else none

/-- The oldest of the ready tasks. -/
def oldest : List ReadyTask → Option ReadyTask
  | [] => none
  | r :: rs =>
    match oldest rs with
    | none => some r
    | some o => some (if r.since ≤ o.since then r else o)

/-- The queues with a ready task on a die, in ascending number. -/
def readyQueues (s : State) (die : Nat) : List Nat :=
  (List.range 1024).filter fun q => s.disp.pkts.any (fun p => p.q.val == q) && !(readyTasks s die q).isEmpty

/-- The oldest ready task that may be placed. -/
def placeable (s : State) (die q : Nat) : Option ReadyTask := oldest ((readyTasks s die q).filter fun r => !heldJob s r.pkt.job.val)

/-- One millisecond in clock units. -/
def msUnits : Nat := 1000000 * unitsPerNs

/-- A queue's current level on a die (R258). -/
def queueLevel (s : State) (q : Nat) (r : ReadyTask) : Nat := (s.uq q).prio - (s.time.clk - r.since) / ((s.uq q).age * msUnits)

/-- The key of a deficit: die, level and queue. -/
def deficitKey (die lvl q : Nat) : Nat := (die * 4 + lvl) * 1024 + q
/-- A deficit. -/
def deficit (s : State) (die lvl q : Nat) : Nat := smGet 0 (deficitKey die lvl q) s.disp.deficit
/-- A deficit replaced. -/
def setDeficit (s : State) (die lvl q n : Nat) : State :=
  { s with disp := { s.disp with deficit := smSet 0 (deficitKey die lvl q) n s.disp.deficit } }

/-- A WEIGHT of 0 acts as 1 (R258). -/
def weight1 (s : State) (q : Nat) : Nat := max 1 (s.uq q).weight

/-- The queues of a die that have no ready task have deficit 0 (R258). -/
def dropDeficits (s : State) (die : Nat) (live : List Nat) : State :=
  { s with disp := { s.disp with deficit := s.disp.deficit.filter fun kv => kv.1 / 4096 != die || live.contains (kv.1 % 1024) } }

/-- Every die's deficits of queues that have no ready task are 0 (R258). -/
def dropAllDeficits (s : State) : State := (List.range 12).foldl (fun s die => dropDeficits s die (readyQueues s die)) s

/-- The candidates of one level, ascending from the round-robin pointer. -/
def fromPointer (ptr : Nat) (qs : List Nat) : List Nat := qs.filter (ptr ≤ ·) ++ qs.filter (· < ptr)

/-- The queue that one level chooses, with the deficits after the search (R258). -/
def chooseQueue (s : State) (die lvl : Nat) (c : List Nat) : Option (Nat × State) :=
  let ring := fromPointer (smGet 0 (die * 4 + lvl) s.disp.pointer) c
  match ring.find? fun q => 1 ≤ deficit s die lvl q with
  | some q => some (q, s)
  | none =>
    let s := c.foldl (fun s q => setDeficit s die lvl q (min (deficit s die lvl q + weight1 s q) (weight1 s q))) s
    ring.head?.map fun q => (q, s)

/-- The first level with candidates, and its choice: level, queue, task (R258). -/
def decide258 (s : State) (die : Nat) (cs : List (Nat × ReadyTask)) : Option (Nat × Nat × ReadyTask × State) :=
  [0, 1, 2, 3].findSome? fun lvl =>
    let c := cs.filter fun e => queueLevel s e.1 e.2 == lvl
    match chooseQueue s die lvl (c.map (·.1)) with
    | some (q, s) => (c.find? fun e => e.1 == q).map fun e => (lvl, q, e.2, s)
    | none => none

/-- The task of a packet as a tile holds it (R243, R245). -/
def taskOf (p : Pkt) (i : Nat) : TaskSt :=
  let d := p.desc
  let f := fieldAt d 0x38 2
  { pkt := p.id, index := i, job := p.job, desc := BitVec.ofNat 64 p.addr, recAddr := BitVec.ofNat 64 p.record,
    argptr := BitVec.ofNat 64 (fieldAt d 0x30 8 + i * p.stride), hangpol := fieldAt d 2 1 % 2 == 1,
    feed := if 2 ^ 15 ≤ f then some (f % 512) else none,
    tagbase := BitVec.ofNat 32 (fieldAt d 0x3C 4), tagslot := BitVec.ofNat 8 (fieldAt d 0x40 1),
    entries := Vector.ofFn fun k => BitVec.ofNat 64 (fieldAt d (8 + 8 * k.val) 8),
    ceils := Vector.ofFn fun k => BitVec.ofNat 5 (fieldAt d (0x20 + k.val) 1),
    wdog := BitVec.ofNat 6 (fieldAt d 0x28 1), preloads := (d.drop 0x60).take 128, tstart := none }

/-- Whether a saved task of a resuming job waits for a tile (R379). -/
def savedFor (s : State) (t : Nat) : Option (TaskSt × Vector Life 3) :=
  (s.disp.saved.find? fun e => e.1 == t && (s.job e.2.1.job.val).pre == 3).map (·.2)

/-- Whether a tile takes a new task: it holds none, no saved task waits for it (R379), and no service trap has stopped it (R373). -/
def freeTile (s : State) (t : TileId) : Bool :=
  (s.tile t).task.isNone && (savedFor s t.val).isNone && !s.disp.nofit.contains t.val

/-- The lowest-numbered idle tile of a die (R257). -/
def idleTileOf (s : State) (die : DieId) : Option TileId := (List.finRange 192).find? fun t => dieOf t == die && freeTile s t

/-- A core of a tile that has a task whose streams are not released: nothing of an earlier task is left. -/
def emptyCore (c : Core) : Core := { idleCore c with u := Core.reset.u, ic := [] }

/-- A task placed on a tile: its streams wait for TASK_START. -/
def putTask (s : State) (t : TileId) (k : TaskSt) : State :=
  let x := s.tile t
  setTaskEnt (s.setTile t { idleTile x with ld := emptyCore x.ld, cp := emptyCore x.cp, st := emptyCore x.st, task := some k })
    k.pkt k.index (.placed t.val)

/-- The next task of a die's share becomes ready now. -/
def readyNow (s : State) (id die : Nat) : State := updPkt s id fun p => { p with ready := smSet 0 die s.time.clk p.ready }

/-- One placement: the task, the deficit, and the pointer (R258). -/
def placeChosen (s : State) (die : DieId) (t : TileId) (lvl q : Nat) (r : ReadyTask) : State :=
  let s := putTask s t (taskOf r.pkt r.index)
  let s := readyNow s r.pkt.id die.val
  let n := deficit s die.val lvl q - 1
  let more := !(readyTasks s die.val q).isEmpty
  let s := setDeficit s die.val lvl q n
  if n = 0 ∨ !more then
    { s with disp := { s.disp with
        pointer := smSet 0 (die.val * 4 + lvl) (q + 1) s.disp.pointer,
        deficit := if more then s.disp.deficit else s.disp.deficit.filter fun kv => kv.1 / 4096 != die.val || kv.1 % 1024 != q } }
  else s

/-- One decision of a die. -/
def placeDie (s : State) (die : DieId) : State :=
  match idleTileOf s die with
  | none => s
  | some t =>
    let qs := readyQueues s die.val
    let s := dropDeficits s die.val qs
    match decide258 s die.val (qs.filterMap fun q => (placeable s die.val q).map fun r => (q, r)) with
    | none => s
    | some (lvl, q, r, s) => placeChosen s die t lvl q r

/-- TASK_PLACE (R257, R258). -/
def execTaskPlace (die : DieId) (s : State) : Out := .next (placeDie s die)

/-! ### The start of a task (R30, R162, R245) -/

/-- The kind of a task start's accesses. -/
def farStart : Nat := 6

/-- What the reads of a task start come to: the store with the preloads copied, a fault, or a wait. -/
inductive StartRes where
  | ok (st : Store) (s : State)
  | fault (status : BitVec 16) (va : Nat) (st : Store) (s : State)
  | wait (s : State)

/-- The preload entries in ascending number (R245). -/
def preload (a : Asker) (t : TileId) (pre : List Byte) : List Nat → Store → State → StartRes
  | [], st, s => .ok st s
  | e :: r, st, s =>
    let len := fieldAt pre (16 * e + 12) 4
    if len = 0 then preload a t pre r st s
    else
      match farKeepRead s a farStart t.val e .dispRead (fieldAt pre (16 * e) 8) len with
      | .ok bs s => preload a t pre r (spadWrite st (fieldAt pre (16 * e + 8) 4) bs) s
      | .fault _ va s => .fault 5 va st s
      | .wait s => .wait s

/-- A core at the release of its stream (R30, R151): `entry` 0 leaves it absent; `args` for g1-g8. ctl.svridge stays as a ridge point that found
the task placed has set it (R437). -/
def startCore (c : Core) (entry : Word64) (wdog : BitVec 6) (args : List Byte) : Core :=
  let g : Vector Word64 32 := Vector.ofFn fun i =>
    if 1 ≤ i.val ∧ i.val ≤ 8 then BitVec.ofNat 64 (fieldAt args (8 * (i.val - 1)) 8) else 0
  let present := entry != 0
  { idleCore c with
    u := { regs := if present then { Regs.zero with g := g, pc := entry } else Regs.zero, lost := 0, wdog := wdog,
           life := if present then .live else .absent, exitVal := 0 },
    v := { (idleCore c).v with ridge := c.v.ridge }, ic := [], tried := false }

/-- The stream that posts to a queue, in the order of R377. -/
def producerOf (q : Nat) : Nat := q / 2

/-- The queues of a task at its start (R144, R151). -/
def startQueues (k : TaskSt) : Vector TokQ 6 :=
  Vector.ofFn fun q => { TokQ.reset with ceil := k.ceils[q.val]'q.isLt, closed := k.entries.toList.getD (producerOf q.val) 0 == 0 }

/-- The stores at task start (R166, R217, R219, R293): the scratchpad stays, with what the preloads wrote. -/
def startStore (st : Store) : Store := { Store.reset with spad := st.spad, spadBad := st.spadBad, spadSoft := st.spadSoft }

/-- What was asked of a task before its streams were released comes now: STRAGGLER before PREEMPT (R371, R379, R438). -/
def raisePending (s : State) (t : TileId) : State :=
  let d := (s.tile t).drain
  match d.spend with
  | some info => tileDrain (setDrain s t { d with spend := none }) t 0x31 fun _ => info
  | none =>
    if d.preq then tileDrain (setDrain s t { d with preq := false }) t 0x38 fun _ => preemptInfo d.ridge false else s

/-- A task that ends with nothing to drain: a record that waits for the drains of its job may be due its verdict (R432). -/
def endTask (s : State) (t : TileId) (status info : Nat) : State := gangProgress (completeTask s t (BitVec.ofNat 16 status) none (BitVec.ofNat 32 info))

/-- Every present stream is released (R162). -/
def releaseTask (s : State) (t : TileId) (k : TaskSt) (st : Store) (args : List Byte) : State :=
  let x := s.tile t
  let e := fun (n : Nat) => k.entries.toList.getD n 0
  let x := { x with
    ld := startCore x.ld (e 0) k.wdog args, cp := startCore x.cp (e 1) k.wdog args, st := startCore x.st (e 2) k.wdog args,
    queues := startQueues k, store := startStore st, eng := { Engines.reset with order := x.eng.order },
    task := some { k with tstart := some s.ns }, blocked := 0, wcount := 0, sink := false, residues := 0 }
  let s := s.setTile t x
  if anyLive x then raisePending s t else endTask s t 0 0

/-- The reads of a task start, and the release (R245). -/
def startTask (s : State) (t : TileId) (k : TaskSt) : State :=
  let a := dispAsker (dieOf t) k.job.val
  let fail := fun (status : BitVec 16) (va : Nat) (st : Store) (s : State) =>
    let s := farForget s farStart t.val
    endTask (s.setTile t { s.tile t with store := st }) t status.toNat va
  match preload a t k.preloads (List.range 8) (s.tile t).store s with
  | .wait s => s
  | .fault status va st s => fail status va st s
  | .ok st s =>
    if k.argptr = 0 then releaseTask (farForget s farStart t.val) t k st []
    else
      match farKeepRead s a farStart t.val 8 .dispRead k.argptr.toNat 64 with
      | .wait s => s
      | .fault _ va s => fail 6 va st s
      | .ok args s => releaseTask (farForget s farStart t.val) t k st args

/-- TASK_START (R162). -/
def execTaskStart (t : TileId) (s : State) : Out :=
  match (s.tile t).task with
  | some k => .next (if k.tstart.isNone then startTask s t k else s)
  | none => .next s

/-! ### Pre-emption and resumption of a job (R379) -/

/-- Whether a record of the job is armed (R427). -/
def jobArmed (s : State) (j : Nat) : Bool := s.gang.ridges.any fun r => r.job.val == j

/-- PREEMPT is raised in every tile that holds a task of the job, from jpre or a ridge point. -/
def preemptTiles (s : State) (j : Nat) (ridge : Bool) : State := eachTile s (holdsJob j) fun s t => requestPreempt s t ridge

/-- A job begins to be pre-empted. -/
def preemptJob (s : State) (j : Nat) (ridge : Bool) : State :=
  settleJob (preemptTiles (s.setJob j { s.job j with pre := 1 }) j ridge) j

/-- JOB_PREEMPT: jpre.CMD 1, while RUNNING and with no record armed (R379, R427). -/
def execJobPreempt (j : JobId) (s : State) : Out :=
  .next (if (s.job j.val).pre = 0 ∧ !jobArmed s j.val then preemptJob s j.val false else s)

/-- A job begins to resume. -/
def resumeJob (s : State) (j : Nat) : State := settleJob (s.setJob j { s.job j with pre := 3 }) j

/-- JOB_RESUME: jpre.CMD 2, while SAVED and with no record armed. -/
def execJobResume (j : JobId) (s : State) : Out :=
  .next (if (s.job j.val).pre = 2 ∧ !jobArmed s j.val then resumeJob s j.val else s)

/-- The record of a restore entry (R360, R379). -/
def restoreRec (s : State) (t : TileId) (st : Stream) (slot : Word64) : TrapRec :=
  { trapRec s t st { cause := 0x38, info := preemptInfo false true, akind := 1, addr := slot } with restore := true }

/-- What is kept of the transfers of a saved task. -/
def engsOf (s : State) (pkt index : Nat) : Option SavedEng := (s.disp.engs.find? fun e => e.1 == (pkt, index)).map (·.2)
/-- The module without it. -/
def dropEngs (s : State) (pkt index : Nat) : State := { s with disp := { s.disp with engs := s.disp.engs.filter fun e => e.1 != (pkt, index) } }

/-- The channels of a task that comes back: the counts of operations retired since its start (R329). -/
def SavedEng.back (v : SavedEng) (e : Engines) : Engines :=
  { e with kept := v.xs, chLoad := Vector.ofFn fun i => { ops := [], retired := v.load[i] },
           chStore := Vector.ofFn fun i => { ops := [], retired := v.store[i] } }

/-- A saved task back on its tile, its contexts entered (R379); DRAINED is 1 throughout (R362). -/
def restoreTask (s : State) (t : TileId) (k : TaskSt) (lives : Vector Life 3) : State :=
  let kept := engsOf s k.pkt k.index
  let s := dropEngs { s with disp := { s.disp with saved := s.disp.saved.filter fun e => !(e.1 == t.val && e.2.1 == k) } } k.pkt k.index
  let s := putTask s t k
  let slot := saveSlot s k.job.val t.val
  let x := s.tile t
  let enter := fun (c : Core) (st : Stream) (n : Fin 3) =>
    enterService { c with u := { c.u with life := lives[n] } } .entered (restoreRec s t st slot)
  s.setTile t { x with
    ld := enter x.ld .load 0, cp := enter x.cp .compute 1, st := enter x.st .store 2,
    eng := match kept with | some v => v.back x.eng | none => x.eng,
    drain := { Drain.none with drained := true, restore := true, trig := 0x38, first := some (restoreRec s t .load slot),
                               mark := x.eng.order } }

/-- SAVED_TASK_PLACE (R379). -/
def execSavedTaskPlace (t : TileId) (s : State) : Out :=
  match savedFor s t.val with
  | some (k, lives) => .next (if (s.tile t).task.isNone && !s.disp.nofit.contains t.val then restoreTask s t k lives else s)
  | none => .next s

/-! ### Cached translations (R283) -/

/-- JXINV: BUSY is set, and the job's entries are on their way out. -/
def execJxinv (j : JobId) (s : State) : Out := .next (s.setJob j.val { s.job j.val with invBusy := true })

/-- JXINV_DONE: the job's entries are removed on every die, once every access that used them is performed. -/
def execJxinvDone (j : JobId) (s : State) : Out :=
  if !(s.job j.val).invBusy || s.fab.reqs.any (fun r => r.pkt.job == j) || !s.host.win.isEmpty then .next s
  else
    let s := s.setJob j.val { s.job j.val with invBusy := false }
    .next { s with disp := { s.disp with tlb := s.disp.tlb.filter fun e => e.job != j.val } }

/-! ### CANCEL (R263) -/

/-- A placed task is cancelled: at once before its streams are released or when its drain is complete, else by a drain. -/
def cancelTile (s : State) (t : TileId) : State :=
  let x := s.tile t
  match x.task with
  | none => s
  | some k =>
    if k.tstart.isNone then endTask (farForget s farStart t.val) t 2 0
    else if x.drain.drained then gangProgress (cancelNow s t)
    else if x.drain.draining then (if x.drain.quiet then s else setDrain s t { x.drain with cancel := true })
    else startDrain s t true 0 none fun st => peerRec s t st 0xFF

/-- A saved task completes CANCELLED. -/
def cancelSaved (s : State) (p : Pkt) (i t : Nat) : State :=
  match s.disp.saved.find? fun e => e.1 == t && e.2.1.pkt == p.id && e.2.1.index == i with
  | none => s
  | some e =>
    let s := dropEngs { s with disp := { s.disp with saved := s.disp.saved.filter (· != e) } } p.id i
    settleJob (setTaskEnt s p.id i (.done 2 (bareRecord 2 t (e.2.1.tstart.getD s.ns) s.ns))) p.job.val

/-- One selected task (R263). -/
def cancelTask (s : State) (id i : Nat) : State :=
  match s.pkt id with
  | none => s
  | some p =>
    match p.ent i with
    | .waiting =>
      let ds := p.dies
      let die := ds.getD (i % ds.length) 0
      let s' := setTaskEnt s id i (.done 2 (bareRecord 2 0xFFFF s.ns s.ns))
      if p.head die = some i then readyNow s' id die else s'
    | .placed t => cancelTile s (tileId t)
    | .saved t => cancelSaved s p i t
    | .done _ _ => s

/-- The tasks selected of a launch; a held packet selected at every task completes CANCELLED. -/
def cancelTasks (s : State) (p : Pkt) (is : List Nat) : State :=
  let s := is.foldl (fun s i => cancelTask s p.id i) s
  if p.started.isSome then s
  else
    match s.pkt p.id with
    | some q => if (List.range q.count).all (fun i => (q.ent i).isDone) then updPkt s p.id fun q => { q with status := some 2 } else s
    | none => s

/-- Whether a packet is an unfinished launch of a job. -/
def isLaunch (j : JobId) (p : Pkt) : Bool := p.kind == 0 && p.job == j && p.status.isNone

/-- Whether a CANCEL's LEVEL and TARGET select a launch (R263). -/
def selects (s : State) (c p : Pkt) : Bool :=
  isLaunch c.job p &&
  (match c.level with
   | 0 | 1 => c.addr != 0 && p.record == c.addr
   | 2 => c.addr != 0 && p.donectr == c.addr
   | 3 => (s.job c.job.val).lastPhase ≤ p.id
   | _ => true)

/-- The tasks of a launch that a CANCEL selects. -/
def selectedTasks (c p : Pkt) : List Nat := if c.level = 0 then (if c.stride < p.count then [c.stride] else []) else List.range p.count

/-- Whether a packet other than a launch has not started, or is a FEED that waits for room (R263). -/
def otherOpen (p : Pkt) : Bool := (p.kind == 1 && (p.started.isNone || (p.stage == 2 && !p.fin))) || (p.kind == 3 && p.started.isNone)

/-- Whether a packet other than a launch is selected (R263). -/
def selectsOther (s : State) (c p : Pkt) : Bool :=
  3 ≤ c.level && p.job == c.job && p.status.isNone && (c.level != 3 || (s.job c.job.val).lastPhase ≤ p.id) && otherOpen p

/-- Every queue of a job becomes STOPPED. -/
def stopJobQueues (s : State) (j : JobId) : State :=
  s.disp.queues.foldl (fun s kv => if kv.2.job = j.val then stopQueue s kv.1 else s) s

/-- The effect of a CANCEL packet, and what it waits for; queues left without ready tasks lose their deficits (R258). -/
def cancelPkt (s : State) (c : Pkt) : State :=
  let ls := s.disp.pkts.filter (selects s c)
  let os := s.disp.pkts.filter (selectsOther s c)
  let s := ls.foldl (fun s p => cancelTasks s p (selectedTasks c p)) s
  let s := os.foldl (fun s p => updPkt s p.id fun p => { p with status := some 2, recs := [] }) s
  let s := if c.level = 4 then stopJobQueues s c.job else s
  let ended := fun (p : Pkt) => (s.pkt p.id).any (·.status.isSome)
  let ws := ls.flatMap (fun p => if p.started.isSome then (selectedTasks c p).map fun i => (p.id, i)
                                 else if ended p then [(p.id, 4096)] else []) ++ os.map fun p => (p.id, 4096)
  updPkt (dropAllDeficits s) c.id fun p => { p with waits := ws }

/-- Whether something a CANCEL waits for is complete. -/
def waitDone (s : State) (w : Nat × Nat) : Bool :=
  match s.pkt w.1 with
  | none => true
  | some p => w.2 != 4096 && (p.ent w.2).isDone

end Sys2Proof.Machine
end

