-- ==== Sys2Proof/Machine/Feed.lean ====
section
/-! DEFINITION. Load-core instructions over the tag table (R293, R294) and over feeds (R266-R268). -/

namespace Sys2Proof.Machine

/-! ### Tag table -/

/-- The set of a key: the exclusive or of its six bytes (R293). -/
def tagSet (k : Nat) : Nat := ((leBytes 6 k).foldl (· ^^^ ·) (0 : Byte)).toNat

/-- The slot count of a table (R293). -/
def nslot (tagbase tagslot : Nat) : Nat := if spadBytes ≤ tagbase then 0 else min 4096 ((spadBytes - tagbase) / 2 ^ tagslot)

/-- A held way as stored: bit 63, slot, key (R294). -/
def tagEntry (key slot : Nat) : Word64 := BitVec.ofNat 64 (2 ^ 63 + slot * 2 ^ 48 + key)

/-- The way of a set that holds a key (R294). -/
def tagWay (m : SMap Word64) (k : Nat) : Option Nat :=
  (List.range 16).find? fun w => let e := smGet 0 (16 * tagSet k + w) m; e.toNat / 2 ^ 63 == 1 && e.toNat % 2 ^ 48 == k

/-- The task's tag table: base and slot size, if it has one (R243). -/
def tagTable (x : Tile) : Option (Nat × Nat) :=
  match x.task with
  | some k => if k.tagslot = 0 then none else some (k.tagbase.toNat, k.tagslot.toNat)
  | none => none

/-- The acting tile with its tag table replaced. -/
def State.setTags (s : State) (m : SMap Word64) : State := s.setMe { s.me with store := { s.me.store with tags := m } }

/-- TLOOK and TDEL (R294): `del` empties the way found. -/
def tagFind (del : Bool) (d : Fin 32) (p : Fin 8) (a : GSrc) (s : State) : Flow :=
  match tagTable s.me with
  | none => illegal 0
  | some _ =>
    let k := (s.src a).toNat % 2 ^ 48
    let m := s.me.store.tags
    match tagWay m k with
    | none => ok ((s.writeG d 0xFFFFFFFF).writeP p false)
    | some w =>
      let e := smGet 0 (16 * tagSet k + w) m
      let s := if del then s.setTags (smErase (16 * tagSet k + w) m) else s
      ok ((s.writeG d (BitVec.ofNat 64 (e.toNat / 2 ^ 48 % 2 ^ 15 + w * 2 ^ 32))).writeP p true)

/-- TLOOK (R294). -/
def execTlook (d : Fin 32) (p : Fin 8) (a : GSrc) (sy : Sync) (s : State) : Out := run (.tlook d p a sy) (tagFind false d p a) s

/-- TDEL (R294). -/
def execTdel (d : Fin 32) (p : Fin 8) (a : GSrc) (sy : Sync) (s : State) : Out := run (.tdel d p a sy) (tagFind true d p a) s

/-- The table after every way of the key's set that holds it is emptied. -/
def tagClear (m : SMap Word64) (k : Nat) : SMap Word64 :=
  m.filter fun kv => !(kv.1 / 16 == tagSet k && kv.2.toNat % 2 ^ 48 == k)

/-- TINS (R294). -/
def execTins (d : Fin 32) (a : GSrc) (b : SrcLit) (c : GSrc) (sy : Sync) (s : State) : Out :=
  run (.tins d a b c sy)
    (fun s =>
      match tagTable s.me with
      | none => illegal 0
      | some (base, lg) =>
        let k := (s.src a).toNat % 2 ^ 48
        let sl := s.srcZ b
        let w := (s.src c).toNat % 16
        if nslot base lg ≤ sl.toNat then illegal (sl.setWidth 32)
        else
          let m := s.me.store.tags
          let i := 16 * tagSet k + w
          let s := s.setTags (smSet 0 i (tagEntry k sl.toNat) (tagClear m k))
          ok (s.writeG d (smGet 0 i m))) s

/-! ### Feeds -/

/-- A feed of the module. -/
def State.feed (s : State) (f : Nat) : Feed := smGet Feed.reset f s.disp.feeds
/-- The module with a feed replaced. -/
def State.setFeed (s : State) (f : Nat) (x : Feed) : State :=
  { s with disp := { s.disp with feeds := smSet Feed.reset f x s.disp.feeds } }

/-- The feed of the acting tile's task (R266). -/
def myFeed (s : State) : Option Nat := s.me.task.bind (·.feed)

/-- The first record that no stalled FEEDPOP has been assigned (R268). -/
def Feed.unassigned (f : Feed) : Option (Word64 × List Byte) :=
  f.recs.find? fun r => !f.waiters.any fun w => w.got == some r.1

/-- The stalled FEEDPOP of the acting context. -/
def Feed.mine (f : Feed) (t : Nat) (k : CtxKind) : Option Waiter := f.waiters.find? fun w => w.tile == t && w.ctx == k

/-- The feed without one record and without one context's wait. -/
def Feed.take (f : Feed) (q : Word64) (t : Nat) (k : CtxKind) : Feed :=
  { f with recs := f.recs.filter fun r => r.1 != q, waiters := f.waiters.filter fun w => !(w.tile == t && w.ctx == k) }

/-- A FEEDPOP that begins to stall: behind those that began earlier, and in the same clock by ascending tile (R268). -/
def addWaiter (w : Waiter) : List Waiter → List Waiter
  | [] => [w]
  | v :: r => if v.clk = w.clk ∧ w.tile < v.tile then w :: v :: r else v :: addWaiter w r

/-- The checks FEEDPOP and FEEDPEEK share (R267): the feed and the offset, or the trap. -/
def feedStart (s : State) (a : GSrc) : Except Flow (Nat × Nat) :=
  match myFeed s with
  | none => .error (illegal 0)
  | some f =>
    let off := s.src a
    if off.toNat % 64 ≠ 0 then .error (alignTrap off 2)
    else if spadBytes < off.toNat + 64 then .error (rangeTrap off)
    else .ok (f, off.toNat)

/-- A record delivered to the scratchpad with its sequence number to a register, unless its range is held (R268). -/
def feedDeliver (s : State) (d : Fin 32) (off : Nat) (r : Word64 × List Byte) (after : State → State) : Flow :=
  if spadHeld s off 64 true then .stall .spad else ok (after ((s.spadPut off r.2).writeG d r.1))

/-- A FEEDPOP stalled on its feed (R157, R268). -/
def feedWait (s : State) (f : Nat) : Flow :=
  let x := s.feed f
  let t := s.cur.tile.val
  let s := if (x.mine t s.cur.ctx).isSome then s
    else s.setFeed f { x with waiters := addWaiter ⟨t, s.cur.ctx, s.time.clk, none⟩ x.waiters }
  let s := markStall s .feed
  .raw { s with cur := { s.cur with tv := 0 } }

/-- FEEDPOP (R267, R268). -/
def execFeedpop (try_ : Bool) (d : Fin 32) (a : GSrc) (sy : Sync) (s : State) : Out :=
  run (.feedpop try_ d a sy)
    (fun s =>
      match feedStart s a with
      | .error f => f
      | .ok (f, off) =>
        let x := s.feed f
        let t := s.cur.tile.val
        let got := fun (r : Word64 × List Byte) => feedDeliver s d off r fun s => s.setFeed f (x.take r.1 t s.cur.ctx)
        match x.mine t s.cur.ctx with
        | some w =>
          (match w.got.bind fun q => x.recs.find? fun r => r.1 == q with
           | some r => got r
           | none => feedWait s f)
        | none =>
          match x.unassigned with
          | some r => got r
          | none => if try_ then ok (s.writeG d 0xFFFFFFFFFFFFFFFF) else feedWait s f) s

/-- FEEDPEEK (R267, R268). -/
def execFeedpeek (d : Fin 32) (a : GSrc) (b : SrcLit) (sy : Sync) (s : State) : Out :=
  run (.feedpeek d a b sy)
    (fun s =>
      match feedStart s a with
      | .error f => f
      | .ok (f, off) =>
        match (s.feed f).recs[(s.srcZ b).toNat]? with
        | some r => feedDeliver s d off r id
        | none => ok (s.writeG d 0xFFFFFFFFFFFFFFFF)) s

end Sys2Proof.Machine
end

