-- ==== Sys2Proof/Machine/Packets.lean ====
section
/-! DEFINITION. Launch packets (chapter 10): how a queue's packets are taken and checked (R246, R247, R251, R252), a timed-launch record is
armed (R424-R428), packets start (R253, R259, R262) and complete (R254-R256). -/

namespace Sys2Proof.Machine

/-! ### Checks (R244, R246, R247, R259, R424) -/

/-- Whether a feed can serve a job: enabled and the job's (R259, R266). -/
def feedOk (s : State) (f job : Nat) : Bool :=
  let x := smGet Feed.reset f s.disp.feeds
  4 ≤ x.cap.toNat && x.cap.toNat ≤ 9 && x.job.toNat == job

/-- The columns of R246 for one KIND; `devenq` of the queue. -/
def kindFieldsOk (s : State) (job : Nat) (devenq : Bool) (bs : List Byte) : Bool :=
  let count := fieldAt bs 4 2
  let mask := fieldAt bs 6 2
  let a8 := fieldAt bs 8 8
  let a10 := fieldAt bs 0x10 4
  let a14 := fieldAt bs 0x14 4
  match fieldAt bs 2 1 with
  | 0 => 1 ≤ count && count ≤ 4096 && mask != 0 && mask < 4096 && a10 % 8 == 0 && a14 == 0
  | 1 => 1 ≤ count && count ≤ 64 && mask == 0 && a8 % 64 == 0 && a10 == 0 && a14 < 384 && feedOk s a14 job &&
      count ≤ 2 ^ (smGet Feed.reset a14 s.disp.feeds).cap.toNat
  | 2 => count == 0 && mask == 0 && a8 % 128 == 0 && a10 == 0 && a14 == 0 && fieldAt bs 3 1 % 2 == 0 && !devenq &&
      zeroAt bs 0x18 16
  | 3 => count == 0 && mask == 0 && a8 == 0 && a10 == 0 && a14 == 0
  | 4 => count == 0 && mask == 0 && a14 ≤ 4 && (a14 == 0 || a10 == 0) && zeroAt bs 0x18 16
  | _ => false

/-- The fields common to every KIND. -/
def commonFieldsOk (bs : List Byte) : Bool :=
  fieldAt bs 0 2 != 0 && fieldAt bs 3 1 < 8 && fieldAt bs 0x18 8 % 8 == 0 && fieldAt bs 0x28 8 % 8 == 0 && fieldAt bs 0x30 8 % 64 == 0 &&
  zeroAt bs 0x38 4

/-- The status a packet is rejected with (R247), if it is. -/
def rejects (s : State) (job : Nat) (devenq : Bool) (bs : List Byte) : Option (BitVec 16) :=
  if !sealOk bs 64 then some 3
  else if !commonFieldsOk bs || !kindFieldsOk s job devenq bs then some 7
  else none

/-- The reserved bytes of a descriptor (R243). -/
def descReserved (d : List Byte) : Bool :=
  fieldAt d 2 1 < 2 && zeroAt d 3 5 && zeroAt d 0x26 2 && zeroAt d 0x29 7 && zeroAt d 0x3A 2 && zeroAt d 0x41 31 && zeroAt d 0xE0 28

/-- The preload entries of a descriptor (R244). -/
def preloadOk (d : List Byte) (e : Nat) : Bool :=
  let len := fieldAt d (0x6C + 16 * e) 4
  let off := fieldAt d (0x68 + 16 * e) 4
  len == 0 || (fieldAt d (0x60 + 16 * e) 8 % 64 == 0 && off % 64 == 0 && len % 64 == 0 && off + len ≤ spadBytes)

/-- The feed field of a descriptor (R244). -/
def descFeedOk (s : State) (p : Pkt) (d : List Byte) : Bool :=
  let v := fieldAt d 0x38 2
  let n := v % 512
  v / 512 % 64 == 0 && n < 384 && (v < 2 ^ 15 || (fieldAt p.bytes 6 2 == 2 ^ (n / 32) && feedOk s n p.job.val))

/-- Whether a descriptor passes R244 but for its seal. -/
def descOk (s : State) (p : Pkt) (d : List Byte) : Bool :=
  let slot := fieldAt d 0x40 1
  fieldAt d 0 2 != 0 && descReserved d &&
  (List.range 6).all (fun k => let c := fieldAt d (0x20 + k) 1; 1 ≤ c && c ≤ 16) &&
  16 ≤ fieldAt d 0x28 1 && fieldAt d 0x28 1 ≤ 40 && (List.range 8).all (preloadOk d) && descFeedOk s p d &&
  (slot == 0 || (12 ≤ slot && slot ≤ 20)) && (fieldAt d 0x3C 4 == 0 || slot != 0)

/-! ### Timed-launch records (R425-R428) -/

/-- The limits of a record's fields (R425). -/
def tlrFieldsOk (b : List Byte) : Bool :=
  sealOk b 64 && fieldAt b 0 2 != 0 && tlrAction b < 4 && fieldAt b 3 1 < 4 && 1 ≤ tlrPart b && tlrPart b ≤ 4096 && tlrLead b < 4096 &&
  tlrGang b != 0 && 50000 ≤ tlrDelta b && tlrDelta b ≤ 100000000 && 10000 ≤ tlrGrace b && tlrGrace b ≤ 100000000 && zeroAt b 0x28 20 &&
  (if tlrAction b = 0 then tlrLpkt b != 0 && tlrLpkt b % 64 == 0 else tlrLpkt b == 0)

/-- Whether a record is valid (R426, R459): `lp` the packet of a LAUNCH, as read. -/
def tlrOk (s : State) (p : Pkt) (devenq : Bool) (b lp : List Byte) : Bool :=
  tlrFieldsOk b && s.ns < tlrT b && s.time.everLocked && s.gang.ridges.length < 16 &&
  !s.gang.ridges.any (fun r => r.gang.toNat == tlrGang b) &&
  (match tlrAction b with
   | 0 => lp.length == 64 && fieldAt lp 2 1 == 0 && (rejects s p.job.val devenq lp).isNone && !s.tiles.any (holdsJob p.job.val)
   | 2 => (s.job p.job.val).pre == 2
   | _ => true)

/-- A record as it is armed (R427, R428). -/
def newRidge (s : State) (p : Pkt) (b lp : List Byte) : Ridge :=
  let late := decide (tlrT b < s.ns + tlrDelta b)
  { gang := BitVec.ofNat 64 (tlrGang b), pkt := p.id, job := p.job, tlr := BitVec.ofNat 64 p.addr, bytes := b ++ lp, armedAt := s.ns,
    late := late, sentFb := !late && clockBad s b, quiesced := late, dec := none, acted := none, rflags := 0, verdictSent := false,
    readySent := false, inflight := 0, unc := 0, drained := 0, tiles := 0, atT := false, fin := false }

/-- A participant that leads its own gang keeps the lead's view (R428, R430). -/
def openLead (s : State) (r : Ridge) : State :=
  let t : Word64 := BitVec.ofNat 64 (tlrT r.bytes)
  if tlrLead r.bytes ≠ s.fab.modnum.toNat then s
  else
    { s with gang := { s.gang with leads :=
        (s.gang.leads.filter fun l => !(l.gang == r.gang && l.t == t)) ++
          [{ gang := r.gang, t := t, bytes := r.bytes, reps := [], first := none, second := none, last := none, gos := [] }] } }

/-- ARM's CMPV (R430). -/
def armCmpv (s : State) (b : List Byte) : Nat :=
  s.time.unc.toNat + ofBool (clockBad s b) * 2 ^ 32 + tlrAction b * 2 ^ 40 + tlrPart b * 2 ^ 48

/-- A valid record is armed (R427, R428): ARM, or QUERY when late. -/
def armRidge (s : State) (p : Pkt) (b lp : List Byte) : State :=
  let r := newRidge s p b lp
  let s := openLead { s with gang := { s.gang with ridges := s.gang.ridges ++ [r] } } r
  if r.late then toLead s r 7 0 0 else toLead s r 1 (armCmpv s b) (tlrDelta b)

/-- A RIDGE packet's record: armed, or INVALID with REASON 5 (R426). -/
def takeRidge (s : State) (p : Pkt) (devenq : Bool) (b lp : List Byte) : State :=
  if tlrOk s p devenq b lp then armRidge s p b lp
  else
    let r := { newRidge s p b lp with armedAt := 0, sentFb := false, quiesced := false, late := false }
    updPkt s p.id fun p => { p with status := some 8, recs := ridgeResult s r 5 5 0xFFFF 0 }

/-! ### Taking packets (R251) -/

/-- The write index more than 2^SIZE above the read index (R251). -/
def overrun (u : UQueue) (wr rd : Nat) : Bool := u.slots < (wr + 2 ^ 64 - rd) % 2 ^ 64

/-- The header's write index as a running queue reads it (R251). -/
def readIndex (s : State) (q : QueueId) : State :=
  let u := s.uq q.val
  match farKeepRead s (dispAsker u.die u.job) farNotify (u.farId q.val) 0 .dispAny u.base.toNat 16 with
  | .wait s => s
  | .fault _ _ s => queueError s q.val 4
  | .ok h s =>
    let s := farForget s farNotify (u.farId q.val)
    if overrun u (fieldAt h 0 8) (fieldAt h 8 8) then queueError s q.val 2
    else s.setUq q.val { s.uq q.val with reading := false, upto := some (BitVec.ofNat 64 (fieldAt h 0 8)) }

/-- QNOTIFY (R251): the home dispatcher reads the header; a notification that comes while a read is under way has one of its own after it. -/
def execQnotify (q : QueueId) (s : State) : Out :=
  let u := s.uq q.val
  if u.state ≠ 1 then .next (s.setUq q.val { u with notified := false })
  else if u.reading then
    let s := readIndex s q
    .next (if (s.uq q.val).notified && !(s.uq q.val).reading then s.soon (.qnotify q) else s)
  else if u.notified then .next (readIndex (s.setUq q.val { u with notified := false, reading := true }) q)
  else .next s

/-- What was read with a packet: the status it is rejected with, its timed-launch record and the packet of a LAUNCH. -/
structure Taken where
  status : Option (BitVec 16)
  tlr : List Byte
  lp : List Byte

/-- The outcome of reading what a packet names. -/
inductive TakeRes where
  | ok (t : Taken) (s : State)
  | wait (s : State)

/-- A RIDGE packet's record of 128 bytes is read once (R426), its first half kept; a LAUNCH's packet that cannot be read fails R247. -/
def readTlr (s : State) (a : Asker) (id : Nat) (bs : List Byte) : TakeRes :=
  match farKeepRead s a farTake id 2 .dispRead (fieldAt bs 8 8) 128 with
  | .wait s => .wait s
  | .fault _ _ s => .ok ⟨some 9, [], []⟩ s
  | .ok b s =>
    let b := b.take 64
    if tlrAction b = 0 ∧ tlrLpkt b ≠ 0 ∧ tlrLpkt b % 64 = 0 then
      match farKeepRead s a farTake id 3 .dispRead (tlrLpkt b) 64 with
      | .wait s => .wait s
      | .fault _ _ s => .ok ⟨none, b, []⟩ s
      | .ok lp s => .ok ⟨none, b, lp⟩ s
    else .ok ⟨none, b, []⟩ s

/-- The check of a packet and what it reads at its taking. -/
def readTaken (s : State) (a : Asker) (id : Nat) (u : UQueue) (bs : List Byte) : TakeRes :=
  match rejects s u.job u.devenq bs with
  | some v => .ok ⟨some v, [], []⟩ s
  | none => if fieldAt bs 2 1 = 2 then readTlr s a id bs else .ok ⟨none, [], []⟩ s

/-- A packet as it is taken. -/
def newPkt (id : Nat) (q : QueueId) (job : JobId) (bs : List Byte) (status : Option (BitVec 16)) : Pkt :=
  { id := id, q := q, job := job, bytes := bs, started := none, desc := [], ready := [], tasks := [], status := status, recs := [], stage := 0,
    fin := false, waits := [], free := false }

/-- A packet joins the packets taken. -/
def addPkt (s : State) (p : Pkt) : State := { s with disp := { s.disp with pkts := s.disp.pkts ++ [p], nextPkt := s.disp.nextPkt + 1 } }

/-- A taken packet; CANCEL and RIDGE start at once (R253), a RIDGE also when its record cannot be read (R426). -/
def takePkt (s : State) (q : QueueId) (u : UQueue) (bs : List Byte) (t : Taken) : State :=
  let p := newPkt s.disp.nextPkt q (jobIdOf u.job) bs t.status
  if t.status.isSome then addPkt s (if p.kind = 2 ∧ t.status = some 9 then { p with started := some s.ns } else p)
  else
    match p.kind with
    | 2 => takeRidge (addPkt s { p with started := some s.ns }) p u.devenq t.tlr t.lp
    | 4 => cancelPkt (addPkt s { p with started := some s.ns }) p
    | _ => addPkt s p

/-- The packets whose read index is being written, without that of a run. -/
def dropLanding (s : State) (run : Nat) : State :=
  farForget { s with disp := { s.disp with landing := s.disp.landing.filter fun l => l.run != run } } farTake run

/-- A packet whose read index has left for its home: it is taken once the write is performed, whatever becomes of the queue (R251, R252). -/
def noteLanding (s : State) (q : QueueId) (u : UQueue) (bs : List Byte) (t : Taken) : State :=
  let run := u.farId q.val
  if farPending s ⟨farTake, run, 4, 0⟩ ∧ !s.disp.landing.any (fun l => l.run == run) then
    { s with disp := { s.disp with landing := s.disp.landing ++ [⟨q, run, u, bs, t.status, t.tlr, t.lp⟩] } }
  else s

/-- The slot's packet checked, the read index written, the packet taken (R251). -/
def takeSlot (s : State) (q : QueueId) (u : UQueue) (a : Asker) (rd : Nat) (bs : List Byte) : State :=
  let run := u.farId q.val
  match readTaken s a run u bs with
  | .wait s => s
  | .ok t s =>
    match farKeepWrite s a farTake run 4 .dispAny (u.base.toNat + 8) (leBytes 8 ((rd + 1) % 2 ^ 64)) with
    | .wait s => noteLanding s q u bs t
    | .fault _ _ s => queueError (dropLanding s run) q.val 4
    | .ok _ s => takePkt (dropLanding s run) q u bs t

/-- A packet whose read index was being written when its queue's run ended (R252): taken once the write is performed, never when it failed. -/
def lateTake (s : State) (l : Landing) : State :=
  match farGet s ⟨farTake, l.run, 4, 0⟩ with
  | none => s
  | some (.fault _ _) => dropLanding s l.run
  | some (.data _) => takePkt (dropLanding s l.run) l.q l.u l.bytes ⟨l.status, l.tlr, l.lp⟩

/-- PACKET_TAKE (R251): the next packet of a running queue, while the read index is below the write index; one of a run that is over comes
first. -/
def execPacketTake (q : QueueId) (s : State) : Out :=
  let u := s.uq q.val
  match s.disp.landing.find? (fun l => l.q == q && l.run != u.farId q.val), u.upto with
  | some l, _ => .next (lateTake s l)
  | none, none => .next s
  | none, some wr =>
    if u.state ≠ 1 then .next s
    else
      let a := dispAsker u.die u.job
      match farKeepRead s a farTake (u.farId q.val) 0 .dispAny (u.base.toNat + 8) 8 with
      | .wait s => .next s
      | .fault _ _ s => .next (queueError s q.val 4)
      | .ok h s =>
        let rd := leNat h
        if rd = wr.toNat then .next ((farForget s farTake (u.farId q.val)).setUq q.val { s.uq q.val with upto := none })
        else if overrun u wr.toNat rd then .next (queueError s q.val 2)
        else
          match farKeepRead s a farTake (u.farId q.val) 1 .dispAny (u.base.toNat + 64 + 64 * (rd % u.slots)) 64 with
          | .wait s => .next s
          | .fault _ _ s => .next (queueError s q.val 4)
          | .ok bs s => .next (takeSlot s q u a rd bs)

/-! ### Starting (R253) -/

/-- Whether an earlier packet of the queue holds a later one: held itself, or a FEED that waits for room (R253, R259). -/
def holdsLater (p : Pkt) : Bool :=
  p.status.isNone && ((p.kind != 2 && p.kind != 4 && p.started.isNone) || (p.kind == 1 && !p.fin))

/-- Whether a taken PHASE holds the later packets of its job (R262): until it has completed, its record and DONECTR included (R254); one that
was rejected or cancelled before it started has no effect. -/
def phaseHolds (o : Pkt) : Bool := o.kind == 3 && (o.status.isNone || o.started.isSome)

/-- What holds a packet apart from its own conditions (R253, R262, R379, R427). -/
def startHeld (s : State) (p : Pkt) : Bool :=
  !p.free &&
  (s.disp.pkts.any (fun o =>
      (o.q == p.q && ((o.id < p.id && holdsLater o) || o.kind == 2)) ||
      (o.job == p.job && o.id < p.id && phaseHolds o)) ||
    (s.job p.job.val).pre != 0 || jobArmed s p.job.val)

/-- Whether an earlier packet of the queue has not completed (R253). -/
def acqHeld (s : State) (p : Pkt) : Bool := p.acq && s.disp.pkts.any fun o => o.q == p.q && o.id < p.id && !(p.free && o.kind == 2)

/-- The kind of a packet's reads at its start. -/
def farPkt : Nat := 3

/-- The home dispatcher as the asker for a packet. -/
def pktAsker (s : State) (p : Pkt) : Asker := dispAsker (s.uq p.q.val).die p.job.val

/-- A packet gets its early status. -/
def endPkt (s : State) (id : Nat) (status : BitVec 16) : State :=
  updPkt (farForget s farPkt id) id fun p => { p with status := some status, recs := [] }

/-- A TASKS packet starts: its descriptor is read once and checked, its tasks become ready (R244, R257). -/
def startLaunch (s : State) (p : Pkt) : State :=
  match farKeepRead s (pktAsker s p) farPkt p.id 1 .dispRead p.addr 256 with
  | .wait s => s
  | .fault _ _ s => endPkt s p.id 9
  | .ok d s =>
    if !sealOk d 256 then endPkt s p.id 3
    else if !descOk s p d then endPkt s p.id 4
    else
      updPkt (farForget s farPkt p.id) p.id fun p =>
        { p with desc := d, started := some s.ns, stage := 2, ready := p.dies.foldl (fun m die => smSet 0 die s.time.clk m) [] }

/-- The records of a FEED packet, read once each in order (R259): a status when one fails. -/
inductive FeedRes where
  | ok (bs : List Byte) (s : State)
  | fail (status : BitVec 16) (s : State)
  | wait (s : State)

/-- Records `i` to `i + n - 1`. -/
def feedRecs (a : Asker) (id src : Nat) : Nat → Nat → State → FeedRes
  | _, 0, s => .ok [] s
  | i, n + 1, s =>
    match farKeepRead s a farPkt id (1 + i) .dispRead (src + 64 * i) 64 with
    | .wait s => .wait s
    | .fault _ _ s => .fail 9 s
    | .ok b s =>
      if !sealOk b 64 then .fail 3 s
      else
        match feedRecs a id src (i + 1) n s with
        | .ok bs s => .ok (b ++ bs) s
        | r => r

/-- A FEED packet reads its records, and then waits for room. -/
def startFeed (s : State) (p : Pkt) : State :=
  match feedRecs (pktAsker s p) p.id p.addr 0 p.count s with
  | .wait s => s
  | .fail v s => endPkt s p.id v
  | .ok bs s => updPkt (farForget s farPkt p.id) p.id fun p => { p with recs := bs, stage := 2 }

/-- A packet whose conditions hold starts its action. -/
def startPkt (s : State) (p : Pkt) : State :=
  let now := s.ns
  match p.kind with
  | 0 => startLaunch (updPkt s p.id fun p => { p with stage := 1 }) p
  | 1 => startFeed (updPkt s p.id fun p => { p with stage := 1, started := some now }) p
  | _ => updPkt (farForget s farPkt p.id) p.id fun p => { p with stage := 2, started := some now }

/-- A held packet: its conditions tested (R253). -/
def tryStart (s : State) (p : Pkt) : State :=
  if startHeld s p || acqHeld s p then s
  else if p.waitctr = 0 then startPkt s p
  else
    match farKeepRead s (pktAsker s p) farPkt p.id 0 .dispRead p.waitctr 8 with
    | .wait s => s
    | .fault _ _ s => endPkt s p.id 9
    | .ok b s => if p.waitval ≤ leNat b then startPkt (farForget s farPkt p.id) p else farForget s farPkt p.id

/-- A packet's start, or the rest of it. -/
def advancePkt (s : State) (p : Pkt) : State :=
  if p.status.isSome then s
  else
    match p.kind, p.stage with
    | 0, 0 | 1, 0 | 3, 0 => tryStart s p
    | 0, 1 => startLaunch s p
    | 1, 1 => startFeed s p
    | _, _ => s

/-- PACKET_START (R253). -/
def execPacketStart (id : Nat) (s : State) : Out :=
  match s.pkt id with
  | some p => .next (advancePkt s p)
  | none => .next s

/-- Records pushed in order, each with the next sequence number and, while one is stalled, assigned to a FEEDPOP (R259, R268). -/
def pushRecs (f : Feed) : Nat → List Byte → Feed
  | 0, _ => f
  | n + 1, bs =>
    pushRecs { f with recs := f.recs ++ [(f.seq, bs.take 64)], seq := f.seq + 1, waiters := passAssigned f.waiters f.seq } n (bs.drop 64)

/-- FEED_PUSH (R259). -/
def execFeedPush (id : Nat) (s : State) : Out :=
  match s.pkt id with
  | none => .next s
  | some p =>
    let f := s.feed p.feedno
    if p.kind = 1 ∧ p.stage = 2 ∧ !p.fin ∧ p.status.isNone ∧ f.recs.length + p.count ≤ 2 ^ f.cap.toNat then
      .next (updPkt (s.setFeed p.feedno (pushRecs f p.count p.recs)) id fun p => { p with fin := true, status := some 0, recs := [] })
    else .next s

/-- PHASE_COMPLETE (R262). -/
def execPhaseComplete (id : Nat) (s : State) : Out :=
  match s.pkt id with
  | none => .next s
  | some p =>
    if p.kind = 3 ∧ p.started.isSome ∧ p.status.isNone ∧ !s.disp.pkts.any (fun o => o.job == p.job && o.id < id) then
      let j := s.job p.job.val
      let s := s.setJob p.job.val { j with jphase := j.jphase + 1, lastPhase := id + 1 }
      .next (updPkt s id fun p => { p with status := some 0 })
    else .next s

/-! ### Completion (R254-R256) -/

/-- Whether every task of a launch is complete. -/
def allDone (p : Pkt) : Bool := (List.range p.count).all fun i => (p.ent i).isDone

/-- The task statuses of a launch, by index. -/
def failedTasks (p : Pkt) : List (Nat × BitVec 16) :=
  (List.range p.count).filterMap fun i => match p.ent i with | .done v _ => if v = 0 then none else some (i, v) | _ => none

/-- A RIDGE packet's record. -/
def ridgeOf (s : State) (p : Pkt) : Option Ridge := s.gang.ridges.find? fun r => r.pkt == p.id

/-- Whether a record has been committed and nothing of its action is left: every tile has left its task, and a PREEMPT's job is SAVED (R433). -/
def ridgeGone (s : State) (r : Ridge) : Bool :=
  !r.fin && drains r.bytes && (match r.dec with | some d => d.code == 4 | none => false) && !s.tiles.any (holdsJob r.job.val) &&
  (tlrAction r.bytes != 1 || (s.job r.job.val).pre == 2)

/-- Whether a packet has nothing left but its completion steps. -/
def canComplete (s : State) (p : Pkt) : Bool :=
  match p.kind with
  | 0 => p.status.isSome || (p.started.isSome && allDone p)
  | 2 => p.status.isSome || (match ridgeOf s p with | some r => ridgeGone s r | none => false)
  | 4 => p.status.isSome || p.waits.all (waitDone s)
  | _ => p.status.isSome

/-- A packet's status (R256). -/
def pktStatus (p : Pkt) : BitVec 16 :=
  match p.status with
  | some v => v
  | none => if p.kind = 0 then (match failedTasks p with | (_, v) :: _ => v | [] => 0) else 0

/-- Whether a packet's tasks have records: not those of a rejected one (R254). -/
def hasTaskRecords (p : Pkt) : Bool := p.kind == 0 && (p.status.isNone || p.status == some 2)

/-- A launch record (R255). -/
def launchRecord (s : State) (p : Pkt) : List Byte :=
  let fs := if hasTaskRecords p then failedTasks p else []
  let n := if hasTaskRecords p then p.count else 0
  leBytes 2 (pktStatus p).toNat ++ zeros 2 ++ leBytes 4 (n - fs.length) ++ leBytes 4 fs.length ++
  leBytes 4 (match fs with | (i, _) :: _ => i | [] => 0xFFFFFFFF) ++ leBytes 8 (p.started.getD s.ns) ++ leBytes 8 s.ns ++ zeros 32

/-- The writes of R254 step 1, in order: part, address, bytes. -/
def completionWrites (s : State) (p : Pkt) : List (Nat × Nat × List Byte) :=
  (if p.kind = 2 ∧ p.recs ≠ [] then [(0, p.addr + 0x40, p.recs)] else []) ++
  (if p.record = 0 then []
   else
     (if hasTaskRecords p then
        (List.range p.count).filterMap fun i =>
          match p.ent i with
          | .done _ b => some (10 + i, p.record + 64 * (i + 1), b)
          | _ => none
      else []) ++ [(1, p.record, launchRecord s p)])

/-- The kind of a completion's accesses. -/
def farEnd : Nat := 4

/-- The writes made in order; a record area that is not a multiple of 64 cannot be written. -/
def doWrites (a : Asker) (id : Nat) : List (Nat × Nat × List Byte) → State → FarRes
  | [], s => .ok [] s
  | (n, va, bs) :: r, s =>
    if va % 64 ≠ 0 then .fault 0x12 va s
    else
      match farKeepWrite s a farEnd id n .dispWrite va bs with
      | .ok _ s => doWrites a id r s
      | x => x

/-- DONECTR increased by 1 (R254): .rel, at .sys if REL = 1 and .mod otherwise. -/
def incDone (s : State) (a : Asker) (p : Pkt) : FarRes :=
  if p.donectr = 0 then .ok [] s
  else if p.donectr % 8 ≠ 0 then .fault 0x12 p.donectr s
  else farOne s a ⟨farEnd, p.id, 2, 0⟩ .rmw p.donectr (.atom 0 8 1 0)
    (orderCode .rel + 8 * scopeCode (if p.rel then .sys else .mod))

/-- A completed packet leaves, and with it its timed-launch record (R427). -/
def dropPkt (s : State) (p : Pkt) : State :=
  { farForget s farEnd p.id with
    disp := { (farForget s farEnd p.id).disp with pkts := s.disp.pkts.filter fun o => o.id != p.id },
    gang := { s.gang with ridges := s.gang.ridges.filter fun r => r.pkt != p.id } }

/-- Steps 3 and 4 of R254. -/
def lastSteps (s : State) (p : Pkt) : State :=
  let j := s.job p.job.val
  let s := if p.kind = 0 then s.setJob p.job.val { j with jdone := j.jdone + 1 } else s
  if p.irq then s.sendHost (.msix p.q.val) else s

/-- The completion steps of a packet (R254): a fault puts its queue in ERROR with RECORD_FAULT. -/
def completePkt (s : State) (p : Pkt) : State :=
  let a := pktAsker s p
  let failed := fun (s : State) => queueError (dropPkt s p) p.q.val 3
  match doWrites a p.id (completionWrites s p) s with
  | .wait s => s
  | .fault _ _ s => failed s
  | .ok _ s =>
    match incDone s a p with
    | .wait s => s
    | .fault _ _ s => failed s
    | .ok _ s => lastSteps (dropPkt s p) p

/-- The result of a committed record is known once its action is over (R436). -/
def settleRidge (s : State) (p : Pkt) : State :=
  match ridgeOf s p with
  | some r => if ridgeGone s r then finishRidge s r 1 0 0xFFFF (match r.dec with | some d => d.heard.toNat | none => 0) else s
  | none => s

/-- PACKET_COMPLETE (R254). -/
def execPacketComplete (id : Nat) (s : State) : Out :=
  match s.pkt id with
  | none => .next s
  | some p =>
    if !canComplete s p then .next s
    else
      let s := settleRidge s p
      match s.pkt id with
      | some p => .next (completePkt s p)
      | none => .next s

end Sys2Proof.Machine
end

