-- ==== Sys2Proof/Machine/Fabric.lean ====
section
/-! DEFINITION. The Purlin fabric as this module meets it (R400-R413): requests that arrive, their replay tables, order and performance at their
home (R402-R406), answers and retransmissions of its own requests (R405, R407), links and ports that go down (R398, R409), and the lending of
receive buffers (R411-R413). -/

namespace Sys2Proof.Machine

/-! ### Arrival -/

/-- The flits of a virtual channel that a port's buffer holds (R411): those of the requests that wait at a home. -/
def occupancy (s : State) (port : Nat) (v : Fin 8) : Nat :=
  (s.fab.homeq.map fun h => if h.port = port ∧ vcOf h.pkt = v ∧ h.held.isNone then flitsOf h.pkt else 0).foldl (· + ·) 0

/-- The up ports at which a packet can arrive: its flits are within what is committed to the peer (R413). -/
def openPorts (s : State) (p : Packet) : List Nat :=
  (List.range 48).filter fun q =>
    s.fab.portup.getLsbD q && occupancy s q (vcOf p) + flitsOf p ≤ ((lendAt s q).committed[(vcOf p).val]'(vcOf p).isLt).toNat

/-- Whether a packet of a type arrives at a gateway of this module with its CHECK right (R401, R403, R413). -/
def delivered (s : State) (p : Packet) (ty : Nat) : Bool :=
  packetOk p && p.ty.toNat == ty && p.dmod == s.fab.modnum && openPorts s p != []

/-- The port a packet arrives at: the switches' choice (R403), a free value. -/
def arrivalPort (s : State) (p : Packet) : Nat :=
  let ups := openPorts s p
  ups.getD ((Config.freeWord s.freeIdx).toNat % ups.length) 0

/-- Buffer lending after flits of a virtual channel were received (R412). -/
def Lend.count (l : Lend) (v : Nat) (n : Nat) : Lend := { l with used := Vector.ofFn fun i => if i.val = v then l.used[i.val]'i.isLt + n else l.used[i.val]'i.isLt }

/-- A packet is received at a port: its flits count for the interval. -/
def receive (s : State) (p : Packet) : State :=
  (updLend s (arrivalPort s p) fun l => l.count (vcOf p).val (flitsOf p)).bump

/-- A discarded packet, counted at its port (R468). -/
def discard (s : State) (port : Nat) : State :=
  let s := s.countEvent (port / 4) 0x09 (port % 4) 1
  { s with fab := { s.fab with discarded := s.fab.discarded + 1 } }

/-! ### Serial numbers (R404) -/

/-- Whether SEQ `a` is lower than `b`. -/
def seqLower (a b : BitVec 32) : Bool := 1 ≤ (b - a).toNat && (b - a).toNat < 2 ^ 31
/-- Whether SEQ `a` is lower than `b` by 256 or more: outside the window of R406. -/
def seqStale (a b : BitVec 32) : Bool := 256 ≤ (b - a).toNat && (b - a).toNat < 2 ^ 31

/-! ### Replay tables (R406) -/

/-- Whether a replay state is that of a request's source at its die. -/
def Replay.of (r : Replay) (p : Packet) : Bool := r.die == p.ddie && r.smod == p.smod && r.sch == p.sch
/-- The replay state of a request's source. -/
def replayOf (s : State) (p : Packet) : Option Replay := s.fab.replay.find? fun r => r.of p

/-- The replay states with a source's changed or made. -/
def putReplay (s : State) (p : Packet) (f : Replay → Replay) : State :=
  match replayOf s p with
  | some _ => { s with fab := { s.fab with replay := s.fab.replay.map fun r => if r.of p then f r else r } }
  | none =>
    let r : Replay := { die := p.ddie, smod := p.smod, sch := p.sch, high := none, done := [], last := s.time.clk }
    { s with fab := { s.fab with replay := f r :: s.fab.replay } }

/-- A request of the source has come. -/
def Replay.touch (r : Replay) (clk : Nat) : Replay := { r with last := clk }

/-- The key of a source's stream at this module. -/
def sourceKey (p : Packet) : Nat := streamKey p.sch p.smod
/-- The lowest SEQ of a source's stream that may still be unanswered (R404, R419): every lower one is resolved (log entry 40). -/
def floorOf (s : State) (smod : BitVec 12) (sch : BitVec 16) : BitVec 32 := BitVec.ofNat 32 (smGet 0 (streamKey sch smod) s.fab.floors)
/-- The module with a stream's floor moved. -/
def setFloor (s : State) (smod : BitVec 12) (sch : BitVec 16) (x : BitVec 32) : State :=
  { s with fab := { s.fab with floors := smSet 0 (streamKey sch smod) x.toNat s.fab.floors } }
/-- The floor of a stream follows the highest SEQ performed: every SEQ lower by 256 has been answered (R404). -/
def raiseFloor (s : State) (p : Packet) : State :=
  let low := p.seq - 255
  if seqLower (floorOf s p.smod p.sch) low then setFloor s p.smod p.sch low else s
/-- A request below its stream's floor comes from a source that has begun its stream anew. -/
def touchFloor (s : State) (p : Packet) : State := if seqLower p.seq (floorOf s p.smod p.sch) then setFloor s p.smod p.sch 0 else s

/-- A request of the source has been performed, with its response: H and its window of 256 move. -/
def Replay.perform (r : Replay) (seq : BitVec 32) (rsp : Packet) : Replay :=
  let h := match r.high with | none => seq | some h => if seqLower h seq then seq else h
  { r with high := some h, done := (seq, rsp) :: r.done.filter fun d => d.1 != seq && !seqStale d.1 h }

/-- Whether a SEQ of a stream has been performed at this module, as far as an ORDERED request must know (R404). -/
def performedAt (s : State) (p : Packet) (x : BitVec 32) : Bool :=
  s.fab.replay.any fun r =>
    r.smod == p.smod && r.sch == p.sch && (r.done.any (fun d => d.1 == x) || (match r.high with | some h => seqStale x h | none => false))

/-- Whether an ORDERED request still waits for a lower one of its stream (R404). -/
def orderedWaits (s : State) (p : Packet) : Bool :=
  p.ctl.getLsbD 3 &&
  (List.range 255).any fun d =>
    let x := p.seq - BitVec.ofNat 32 (d + 1)
    !seqLower x (floorOf s p.smod p.sch) && !performedAt s p x

/-! ### Maquette copies (R347, R402) -/

/-- The whole copy that a request's STAG names, with its number. -/
def maqCopy (s : State) (p : Packet) : Option (Nat × List Byte) :=
  match s.fab.maqs.find? fun m => m.smod == p.smod && m.stag == p.stag with
  | some ⟨_, _, t, some a, some b⟩ => some (t, a ++ b)
  | _ => none

/-- A copy with a half put in; a half for a whole copy begins a new one, of number `tag`. -/
def MaqCopy.put (m : MaqCopy) (tag : Nat) (second : Bool) (bs : List Byte) : MaqCopy :=
  let m := if m.half0.isSome && m.half1.isSome then { m with tag := tag, half0 := none, half1 := none } else m
  if second then { m with half1 := some bs } else { m with half0 := some bs }

/-- A half of a copy stored. -/
def putHalf (s : State) (p : Packet) : State :=
  let (t, s) := newTag s
  let old := (s.fab.maqs.find? fun m => m.smod == p.smod && m.stag == p.stag).getD ⟨p.smod, p.stag, t, none, none⟩
  { s with fab := { s.fab with
      maqs := old.put t (p.opc.getLsbD 0) p.payload :: s.fab.maqs.filter fun m => !(m.smod == p.smod && m.stag == p.stag) } }

/-- Whether a request is recorded in the replay table (R406). -/
def recorded (s : State) (p : Packet) : Bool := p.ty != 0 || (match maqCopy s p with | some m => p.stag != 0 && rstage m.2 != 0 | none => false)

/-! ### A request at its home -/

/-- The page a request carries (R401); its rights were checked at the source. -/
def reqPage (p : Packet) : Page :=
  let a := p.attr.toNat
  let ord := a % 4
  let tol := a / 8 % 2 == 1
  let sync := a / 128 % 2 == 1
  let tfmt := a / 16 % 8
  { pa := p.addr.toNat, r := true, w := true, x := false, ord := ord, sync := sync, tol := tol, tfmt := tfmt, key := a / 256 % 64,
    striped := a / 4 % 2 == 1, attrOk := ord != 3 && !(tol && 6 ≤ tfmt) && !(sync && (ord == 2 || tol)) }

/-- What a home gives a request: a STATUS with bytes, the bytes while a result ATOM is under way, or a wait. -/
inductive HomeAns where
  | done (status : Nat) (bs : List Byte) (s : State)
  | held (bs : List Byte) (s : State)
  | wait (s : State)

/-- The state of an answer. -/
def HomeAns.st : HomeAns → State
  | .done _ _ s => s
  | .held _ s => s
  | .wait s => s

/-- STATUS for a cause (R399, R401). -/
def statusOf (c : BitVec 8) : Nat := if c = 0x11 then 2 else if c = 0x20 then 3 else 1

/-- The checks of a request at the target (R399): unmapped and carved-out offsets ACCESS, a key slot PERMISSION; windows take READ and WRITE
only (R276). -/
def reqStatus (s : State) (p : Packet) : Option Nat :=
  match accessCause s p.job.val .dispAny p.len.toNat true (reqPage p) with
  | some c => some (statusOf c)
  | none =>
    match targetOf s p.addr.toNat with
    | .hbm _ => none
    | .window _ _ => if p.ty.toNat ≤ 1 && p.stag == 0 then none else some 1
    | _ => some 1

/-- Whether every sector of a request can be accessed at once, with the snoops that are still to be sent. -/
def homesReady (s : State) : List (Nat × Nat × Nat) → Option State
  | [] => none
  | (_, idx, _) :: r => match homeReady s (idx / 64) with | some s => some ((homesReady s r).getD s) | none => homesReady s r

/-- The answer a home's result gives; a failed access leaves memory as it stood. -/
def ansOf {α : Type} (before : State) (f : α → List Byte) : HomeRes α → HomeAns
  | .ok x s => .done 0 (f x) s
  | .fault c s => .done (statusOf c) [] (faultState before s)
  | .wait s => .wait s

/-- The width of an ATOMIC in bytes. -/
def atomWidth (p : Packet) : Nat := if p.opc.toNat / 16 % 4 = 3 then 8 else 4
/-- The operation of an ATOMIC, on the low bytes of its operands (R99). -/
def atomOf (p : Packet) : GOp :=
  let m := 2 ^ (8 * atomWidth p)
  .atom (p.opc.toNat % 16) (atomWidth p) (p.opnd.toNat % m) (p.cmpv.toNat % m)

/-- A READ, WRITE or ATOMIC without a maquette at its target (R274, R318). -/
def plainDo (s : State) (p : Packet) (ord : Nat) : HomeAns :=
  let pg := reqPage p
  match targetOf s p.addr.toNat with
  | .hbm h =>
    let idx := hbmIndex pg.striped h
    let n := if p.ty = 0 then p.len.toNat else if p.ty = 2 then atomWidth p else p.payload.length
    (match homesReady s (homeParts idx n) with
     | some s => .wait s
     | none =>
       if p.ty = 0 then ansOf s id (homeReadN s pg (homeParts idx n))
       else if p.ty = 2 then ansOf s id (homeDo s idx pg (atomOf p))
       else ansOf s (fun _ => []) (homeWriteN s pg p.payload (homeParts idx n)))
  | .window t off => if p.ty = 0 then ansOf s id (windowRead s t off p.len.toNat ord) else ansOf s (fun _ => []) (windowWrite s t off p.payload ord)
  | _ => .done 1 [] s

/-- The name of the result ATOM of a request at its home. -/
def redKey (p : Packet) : FarKey := ⟨8, (p.smod.toNat * 65536 + p.sch.toNat) * 2 ^ 32 + p.seq.toNat, p.ddie.val, 0⟩

/-- Widths of the memory and scratchpad formats of a maquette (R338). -/
def maqWidths (maq : List Byte) : Nat × Nat := ((typeOfCode (fieldAt maq 4 1)).width, (typeOfCode (fieldAt maq 5 1)).width)

/-- The elements of a request through a maquette: as many as LEN bytes of its stream's format hold (log entry 40). -/
def reqEls (p : Packet) (maq : List Byte) : List Elem :=
  let (mw, sw) := maqWidths maq
  (List.range (p.len.toNat * 8 / (if p.ty = 0 then mw else sw))).map fun i => ⟨p.addr.toNat * 8 + i * mw, i * sw, 0⟩

/-- What a packet with a maquette does not carry to its home: one value per copy, kind and place, and, of a COMBINE, whose passes go one by
one, per request. -/
def copyVal (tag : Nat) (p : Packet) (kind place : Nat) : Nat :=
  (Config.copyWord tag kind (if p.ty = 3 then place * 2 ^ 32 + p.seq.toNat else place)).toNat

/-- The elements a request carries, counted from address 0: the first, and how many. -/
def reqOwn (p : Packet) (maq : List Byte) : Nat × Nat := (p.addr.toNat * 8 / (maqWidths maq).1, (reqEls p maq).length)

/-- The box of element `n` of memory at a request's home (R337), given the memory's elements: what the packet carries; the logical number and the
scale of its block, and the operands at a permuting maquette's other positions, which it does not carry, are free. -/
def reqBox (tag : Nat) (p : Packet) (maq : List Byte) (mem : Nat → Nat) (n : Nat) : Box :=
  let sw := (maqWidths maq).2
  let (lo, k) := reqOwn p maq
  let free := copyVal tag p
  let mine := lo ≤ n && n < lo + k
  let perm := fieldAt maq 0x28 4 != 0 || fieldAt maq 0x2C 4 != 0
  if mine || (perm && free 7 n % 2 == 1) then
    let v := if mine then valAt sw (leNat p.payload) (n - lo) else free 8 n % 2 ^ sw
    { x := if p.ty = 1 then v else mem n, y := if p.ty = 3 then v else 0, act := true, l := free 5 n % 2 ^ 32, sc := free 4 (n / 32) % 256,
      pass := if p.ty = 3 then free 6 0 % 256 else 0 }
  else Box.idle

/-- How a maquette runs on window `w` of another module's home: the seed, counter and mode of .dyn stay with the source, and of the window's
number what the page hides (free). -/
def reqRun (tag : Nat) (p : Packet) (maq : List Byte) (w : Nat) : MdaRun :=
  let f := fun k => Config.copyWord tag k 0
  let size := 64 * (maqWidths maq).1
  let page := (Config.copyWord tag 3 (w * size / 4096)).toNat
  let (lo, k) := reqOwn p maq
  ⟨maq, f 0, f 1, (f 2).toNat % 6, (page * 4096 + w * size % 4096) / size, (lo - 512 * w, lo + k - 512 * w)⟩

/-- The windows of a request through the array of its home, by number. -/
def reqWins (tag : Nat) (p : Packet) (maq : List Byte) (mem : Nat → Nat) : List (Nat × Win) :=
  let (lo, k) := reqOwn p maq
  ((List.range k).map fun i => (lo + i) / 512).eraseDups.map fun w =>
    (w, runArray (reqRun tag p maq w) ((List.range 512).map fun q => reqBox tag p maq mem (512 * w + q)))

/-- What the windows give for an element. -/
def reqVal (ws : List (Nat × Win)) (mw : Nat) (e : Elem) : Nat :=
  match ws.find? fun w => w.1 == e.bit / mw / 512 with
  | some w => (w.2.bs.getD (e.bit / mw % 512) Box.idle).x
  | none => 0

/-- The total of RED over them. -/
def reqTotal (maq : List Byte) (ws : List (Nat × Win)) : Nat :=
  ws.foldl (fun a w => redOp (redCond maq) a w.2.total) (redId (redCond maq))

/-- Element `n` of memory of width `mw` at the home of a packet, whose first byte has index `idx`; 0 in an encrypted sector never written
(R463). -/
def homeEl (s : State) (p : Packet) (idx mw n : Nat) : Nat :=
  let b := idx + n * mw / 8 - p.addr.toNat
  if readsZero s (b / 64) (reqPage p) then 0 else leNat (memRead s.hbm b ((mw + 7) / 8)) / 2 ^ (n * mw % 8) % 2 ^ mw

/-- The asker of a result ATOM at a home. -/
def redAsker (p : Packet) : Asker := { die := p.ddie, sch := schModule, job := p.job.val, ofTile := false }

/-- The end of a request through a maquette, whose writes are `ps` and are in `s` (R346, R349): with its result ATOM, as one step; one whose ATOM
leaves the module writes nothing, and keeps its sectors, until the ATOM is answered (R350). -/
def redDo (before s : State) (p : Packet) (maq : List Byte) (idx total : Nat) (ps : List Put) (rsp : List Byte) : HomeAns :=
  if rstage maq = 0 then .done 0 rsp s
  else
    match farOne s (redAsker p) (redKey p) .rmw (raddr maq) (.atom (redAtom (redCond maq)) 4 total 0) (3 * 8) with
    | .ok _ s => .done 0 rsp (farForget s 8 (redKey p).id)
    | .fault c _ s => .done (statusOf c) [] (faultState before (farForget s 8 (redKey p).id))
    | .wait s =>
      let s := faultState before s
      if farPending s (redKey p) then .held rsp (hold s (.far (redKey p)) (reqPage p) idx p.addr.toNat ps) else .wait s

/-- A request whose result ATOM is answered: what it held is written, or nothing is (R350). -/
def redOver (s : State) (p : Packet) (rsp : List Byte) : HomeAns :=
  let ow := Owner.far (redKey p)
  let gone := fun (s : State) => farForget (unlock s ow) 8 (redKey p).id
  match farGet s (redKey p) with
  | none => .wait s
  | some (.fault c _) => .done (statusOf c) [] (gone s)
  | some (.data _) =>
    match lockOf s ow with
    | none => .done 0 rsp (gone s)
    | some l =>
      match commit s l with
      | .ok _ s => .done 0 rsp (gone s)
      | .fault c s => .done (statusOf c) [] (gone s)
      | .wait s => .wait s

/-- A copy takes a slot for a request of its operation (R335, R347). -/
def useCopySlot (s : State) (p : Packet) (maq : List Byte) (idx : Nat) : State :=
  let (v, q) := maqIdent maq
  takeSlotOf s (idx / stackBytes) ⟨some (p.smod, p.stag), p.job.val, 0, v, q⟩

/-- A READ, WRITE or COMBINE through the array of its home (R337, R349). -/
def maqDo (s : State) (p : Packet) (tag : Nat) (maq : List Byte) (idx : Nat) : HomeAns :=
  let pg := reqPage p
  let (mw, sw) := maqWidths maq
  let els := reqEls p maq
  let parts := homeParts idx ((els.length * mw + 7) / 8)
  match homesReady s parts with
  | some s => .wait s
  | none =>
    match (if p.ty = 1 then HomeRes.ok [] s else homeReadN s pg parts) with
    | .wait s => .wait s
    | .fault c s1 => .done (statusOf c) [] (faultState s s1)
    | .ok _ s1 =>
      let ws := reqWins tag p maq (homeEl s1 p idx mw)
      let val := reqVal ws mw
      let s1 := useCopySlot s1 p maq idx
      if p.ty = 0 then redDo s s1 p maq idx (reqTotal maq ws) [] (leBytes ((els.length * sw + 7) / 8) (packVals sw (els.map val)))
      else
        let ps := els.map fun e => (e.bit, mw, val e)
        match putEls s1 pg idx p.addr.toNat ps with
        | .ok _ s2 => redDo s s2 p maq idx (reqTotal maq ws) ps []
        | .fault c s2 => .done (statusOf c) [] (faultState s s2)
        | .wait s2 => .wait (faultState s s2)

/-- A request performed at its home, or what it waits for. -/
def homePerform (s : State) (hr : HomeReq) : HomeAns :=
  let p := hr.pkt
  match hr.held with
  | some bs => redOver s p bs
  | none =>
    if p.ty = 4 then .done 0 [] (putHalf s p)
    else
      match reqStatus s p with
      | some st => .done st [] s
      | none =>
        if p.stag = 0 then plainDo s p hr.ord
        else
          match maqCopy s p, targetOf s p.addr.toNat with
          | some (tag, m), .hbm h => maqDo s p tag m (hbmIndex (reqPage p).striped h)
          | _, _ => .wait s

/-- The response to a request (R402, R411). -/
def rspPacket (s : State) (p : Packet) (status : Nat) (bs : List Byte) : Packet :=
  let q := { blankPacket with
    dmod := p.smod, ddie := p.sdie, sdie := p.ddie, smod := s.fab.modnum, sch := p.sch, seq := p.seq, addr := p.addr, job := p.job,
    status := BitVec.ofNat 8 status }
  if p.ty = 0 then { q with ty := 8, ctl := 4, len := BitVec.ofNat 16 bs.length, payload := bs }
  else if p.ty = 2 then { q with ty := 10, ctl := 5, opnd := BitVec.ofNat 64 (leNat bs) }
  else { q with ty := 9, ctl := 5 }

/-- NACK BUSY (R402, R406): the request was not performed. -/
def sendNack (s : State) (p : Packet) : State :=
  let q := { rspPacket s p 4 [] with ty := 11, ctl := 5, len := 0 }
  (emit s p.ddie q).countEvent p.ddie.val 0x0A 256 1

/-- The queue of waiting requests with one changed. -/
def setHomeReq (s : State) (idx : Nat) (f : HomeReq → HomeReq) : State :=
  { s with fab := { s.fab with homeq := s.fab.homeq.modify idx f } }

/-- A performed request leaves the queue; its response is recorded and sent (R406). -/
def finishHome (s : State) (idx : Nat) (p : Packet) (status : Nat) (bs : List Byte) : State :=
  let rsp := rspPacket s p status bs
  let s := putReplay { s with fab := { s.fab with homeq := s.fab.homeq.eraseIdx idx } } p fun r => r.perform p.seq rsp
  emit (raiseFloor s p) p.ddie rsp

/-- Whether a waiting request is too old to begin (R403). -/
def tooOld (s : State) (hr : HomeReq) : Bool := nsUnits 10000 ≤ s.time.clk - hr.at_

/-- Whether a request reaches its die from the port that it came in at (R398, R403): one that does not is discarded with age. -/
def reachesDie (s : State) (hr : HomeReq) : Bool := rafterOk s (hr.port / 4) hr.pkt.ddie.val

/-- Whether a request that arrived earlier at the same die goes first (R404): all but an ORDERED one that waits for lower ones; window requests
never hold HBM traffic (R411). -/
def earlierFirst (s : State) (idx : Nat) (p : Packet) : Bool :=
  (s.fab.homeq.take idx).any fun e =>
    e.held.isNone && e.pkt.ddie == p.ddie && isWindowPa e.pkt.addr.toNat == isWindowPa p.addr.toNat && !tooOld s e && !orderedWaits s e.pkt && reachesDie s e

/-- A waiting request performed, if it may be (R274, R403, R404). -/
def homeAccess (s : State) (idx : Nat) : State :=
  match s.fab.homeq[idx]? with
  | none => s
  | some hr =>
    if hr.held.isNone && (tooOld s hr || orderedWaits s hr.pkt || earlierFirst s idx hr.pkt || !reachesDie s hr) then s
    else
      match homePerform s hr with
      | .done st bs s => finishHome s idx hr.pkt st bs
      | .held bs s => setHomeReq s idx fun h => { h with held := some bs }
      | .wait s => s

/-- HOME_ACCESS (R274). -/
def execHomeAccess (idx : Nat) (s : State) : Out := .next (homeAccess s idx)

/-- Whether a request must be answered with NACK BUSY at its arrival: its copy is not whole (R402). -/
def copyMissing (s : State) (p : Packet) : Bool :=
  (p.ty == 0 || p.ty == 1 || p.ty == 3) && (p.stag != 0 || p.ty == 3) && (p.stag == 0 || (maqCopy s p).isNone)

/-- The tile whose window a request names. -/
def windowTile (s : State) (p : Packet) : Option TileId := match targetOf s p.addr.toNat with | .window t _ => some (winTile t) | _ => none

/-- A request arrives at a scratchpad window: a sink event of its tile (R410). -/
def sinkReq (s : State) (p : Packet) : State := match windowTile s p with | some t => sinkAt s t | none => s

/-- A request as it waits at its die. -/
def homeReq (s : State) (port : Nat) (p : Packet) : HomeReq :=
  ⟨p, s.time.clk, port, (match windowTile s p with | some t => (s.tile t).eng.order | none => 0), none⟩

/-- A request to be performed waits at its die, and is performed at once when nothing holds it. -/
def enqueueReq (s : State) (port : Nat) (p : Packet) : State :=
  if copyMissing s p then sendNack s p
  else
    let n := s.fab.homeq.length
    let s := sinkReq s p
    homeAccess { s with fab := { s.fab with homeq := s.fab.homeq ++ [homeReq s port p] } } n

/-- Whether a request is waiting or being performed already. -/
def inHomeq (s : State) (p : Packet) : Bool :=
  s.fab.homeq.any fun e => e.pkt.ddie == p.ddie && e.pkt.smod == p.smod && e.pkt.sch == p.sch && e.pkt.seq == p.seq

/-- A request arrives: the table of R406. -/
def arrive (s : State) (port : Nat) (p : Packet) : State :=
  match replayOf s p with
  | none =>
    if 8192 ≤ (s.fab.replay.filter fun r => r.die == p.ddie).length then sendNack s p
    else enqueueReq (touchFloor (putReplay s p id) p) port p
  | some r =>
    let s := putReplay s p fun r => r.touch s.time.clk
    match r.done.find? fun d => d.1 == p.seq with
    | some d => if recorded s p then emit s p.ddie d.2 else enqueueReq s port p
    | none =>
      if (match r.high with | some h => seqStale p.seq h | none => false) || (recorded s p && inHomeq s p) then s
      else enqueueReq (touchFloor s p) port p

/-- A packet that this module's gateways take in, with the port it arrives at. -/
def takeIn (s : State) (p : Packet) (ty : Nat) (f : State → Nat → Packet → State) : State :=
  if delivered s p ty then f (receive s p) (arrivalPort s p) p else s

/-- PURLIN_READ (R406). -/
def execPurlinRead (p : Packet) (s : State) : Out := .next (takeIn s p 0 arrive)
/-- PURLIN_WRITE (R406). -/
def execPurlinWrite (p : Packet) (s : State) : Out := .next (takeIn s p 1 arrive)
/-- PURLIN_ATOMIC (R406). -/
def execPurlinAtomic (p : Packet) (s : State) : Out := .next (takeIn s p 2 arrive)
/-- PURLIN_COMBINE (R406). -/
def execPurlinCombine (p : Packet) (s : State) : Out := .next (takeIn s p 3 arrive)
/-- PURLIN_MAQUETTE (R402). -/
def execPurlinMaquette (p : Packet) (s : State) : Out := .next (takeIn s p 4 arrive)

/-- REQUEST_DISCARD: a request that could not begin within 10 µs is discarded (R403). -/
def execRequestDiscard (idx : Nat) (s : State) : Out :=
  match s.fab.homeq[idx]? with
  | none => .next s
  | some hr =>
    if hr.held.isNone && tooOld s hr then .next (discard { s with fab := { s.fab with homeq := s.fab.homeq.eraseIdx idx } } hr.port) else .next s

/-- Whether a replay state has had no request for 4 ms (R406). -/
def replayDue (s : State) (r : Replay) : Bool :=
  decide (nsUnits 4000000 ≤ s.time.clk - r.last) &&
  !s.fab.homeq.any fun e => e.pkt.ddie == r.die && e.pkt.smod == r.smod && e.pkt.sch == r.sch

/-- REPLAY_STATE_FREE: 4 ms pass with no request from a source (R406), so that all it had sent is resolved (R419). -/
def execReplayStateFree (die : DieId) (smod : BitVec 12) (sch : BitVec 16) (s : State) : Out :=
  let gone := fun (r : Replay) => r.die == die && r.smod == smod && r.sch == sch && replayDue s r
  let high := ((s.fab.replay.find? gone).bind (·.high)).map (· + 1)
  let t := { s with fab := { s.fab with replay := s.fab.replay.filter fun r => !gone r } }
  .next (match high with | some h => if seqLower (floorOf s smod sch) h then setFloor t smod sch h else t | none => t)

/-- PURLIN_PACKET_DISCARD: a packet that fails CHECK or has an unassigned TYPE (R401, R402). -/
def execPurlinPacketDiscard (p : Packet) (s : State) : Out :=
  if openPorts s p != [] && (!packetOk p || !([0, 1, 2, 3, 4, 8, 9, 10, 11, 13].contains p.ty.toNat)) then
    .next (discard (receive s p) (arrivalPort s p))
  else .next s

/-! ### Answers (R405) -/

/-- The TYPE that answers a request. -/
def rspType (r : FabReq) : Nat := if r.pkt.ty = 0 then 8 else if r.pkt.ty = 2 then 10 else 9

/-- What an answer says, as the same outcome at a local home would be reported (R399). -/
def respOf (r : FabReq) (p : Packet) : RemoteResp :=
  let lo := r.va.setWidth 32
  match p.status.toNat with
  | 0 => .data (if r.pkt.ty = 0 then p.payload else if r.pkt.ty = 2 then leBytes (atomWidth r.pkt) p.opnd.toNat else [])
  | 1 => .fault 0x10 lo
  | 2 => .fault 0x11 lo
  | _ => .fault 0x20 lo

/-- Whether a request is the one an answer names. -/
def FabReq.answeredBy (r : FabReq) (p : Packet) : Bool := r.pkt.sch == p.sch && r.pkt.dmod == p.smod && r.pkt.seq == p.seq

/-- The module without a request. -/
def dropReq (s : State) (r : FabReq) : State :=
  { s with fab := { s.fab with reqs := s.fab.reqs.filter fun q => !(q.pkt.sch == r.pkt.sch && q.pkt.dmod == r.pkt.dmod && q.pkt.seq == r.pkt.seq) } }

/-- The tile that an answer is for; a WAITF's polls are left out (R410). -/
def ownerTile (s : State) : Owner → Option TileId
  | .scalar t st tag =>
    let x := s.tile (tileId t)
    (match (x.core st).remote with
     | some r => if r.tag == tag && (match r.kind with | .waitf _ => true | _ => false) then none else some (tileId t)
     | none => some (tileId t))
  | .code t _ _ => some (tileId t)
  | .piece t _ _ _ _ _ => some (tileId t)
  | .flag t _ _ _ => some (tileId t)
  | .half t _ _ _ => some (tileId t)
  | .maq t _ _ _ _ => some (tileId t)
  | .red t _ _ _ _ => some (tileId t)
  | .far _ => none

/-- A fabric message arriving for a tile is a sink event of it (R382). -/
def sinkOwner (s : State) (o : Owner) : State := match ownerTile s o with | some t => sinkAt s t | none => s

/-- A response completes its request; later ones find nothing (R406). -/
def takeAnswer (s : State) (_ : Nat) (p : Packet) : State :=
  match s.fab.reqs.find? fun r => r.answeredBy p && rspType r == p.ty.toNat with
  | none => s
  | some r => gangProgress (deliver (dropReq (sinkOwner s r.owner) r) r.owner r.va (respOf r p))

/-- READ_RSP (R405). -/
def execReadRsp (p : Packet) (s : State) : Out := .next (takeIn s p 8 takeAnswer)
/-- ACK (R405). -/
def execAck (p : Packet) (s : State) : Out := .next (takeIn s p 9 takeAnswer)
/-- ATOMIC_RSP (R405). -/
def execAtomicRsp (p : Packet) (s : State) : Out := .next (takeIn s p 10 takeAnswer)

/-- The requests with those that satisfy a test changed. -/
def updReqs (s : State) (t : FabReq → Bool) (f : FabReq → FabReq) : State :=
  { s with fab := { s.fab with reqs := s.fab.reqs.map fun r => if t r then f r else r } }

/-- NACK: the attempt does not count (R405). -/
def execNack (p : Packet) (s : State) : Out :=
  .next (takeIn s p 11 fun s _ p =>
    let s := match s.fab.reqs.find? fun r => r.answeredBy p with | some r => sinkOwner s r.owner | none => s
    updReqs s (fun r => r.answeredBy p) fun r => { r with tries := r.tries - 1 })

/-! ### Retransmission and timeout -/

/-- The retransmit interval in units (R419). -/
def rtoUnits (s : State) : Nat := nsUnits (1000 * max 4 (s.fab.fabcfg.toNat / 256 % 256))
/-- Attempts per request (R419). -/
def maxTries (s : State) : Nat := max 1 (s.fab.fabcfg.toNat % 16)

/-- A request of this module by its stream and SEQ. -/
def findReq (s : State) (k : FabKey) (seq : BitVec 32) : Option FabReq :=
  s.fab.reqs.find? fun r => r.pkt.sch == k.sch && r.pkt.dmod == k.dmod && r.pkt.seq == seq

/-- Whether a request is to be sent again: RTO has passed without a response and attempts are left (R405). -/
def resendDue (s : State) (r : FabReq) : Bool := decide (r.tries < maxTries s) && decide (rtoUnits s ≤ s.time.clk - r.at_)
/-- Whether a request is resolved: 64 µs have passed since its last attempt (R407). -/
def timeoutDue (s : State) (r : FabReq) : Bool := decide (maxTries s ≤ r.tries) && decide (nsUnits 64000 ≤ s.time.clk - r.at_)

/-- RETRANSMIT (R405). -/
def execRetransmit (k : FabKey) (seq : BitVec 32) (s : State) : Out :=
  match findReq s k seq with
  | none => .next s
  | some r =>
    if resendDue s r then
      let s := updReqs s (fun q => q.pkt.sch == k.sch && q.pkt.dmod == k.dmod && q.pkt.seq == seq)
        fun q => { q with tries := q.tries + 1, at_ := s.time.clk }
      .next (emit s r.die { r.pkt with ctl := r.pkt.ctl ||| 16 })
    else .next s

/-- The low bits of FABRIC's information word for an owner (R409). -/
def ownerLow : Owner → Nat
  | .piece _ _ ch _ _ _ => ch
  | .flag _ _ ch _ => ch
  | .half _ _ ch _ => ch
  | .maq _ _ ch _ _ => ch
  | .red _ _ ch _ _ => ch
  | _ => fabScalar

/-- FABRIC_TIMEOUT: 64 µs after the last attempt (R407, R409). -/
def execFabricTimeout (k : FabKey) (seq : BitVec 32) (s : State) : Out :=
  match findReq s k seq with
  | none => .next s
  | some r =>
    if timeoutDue s r then
      .next (gangProgress (deliver (dropReq s r) r.owner r.va (.fault 0x28 (fabricInfo r.pkt.dmod.toNat 1 (ownerLow r.owner)))))
    else .next s

/-! ### Links and ports -/

/-- RAFTER_LINK_DOWN (R398). -/
def execRafterLinkDown (l : LinkId) (s : State) : Out :=
  .next { s with fab := { s.fab with linkdown := s.fab.linkdown ||| (1 : BitVec 66) <<< l.val } }

/-- PURLIN_PORT_DOWN (R409). -/
def execPurlinPortDown (p : PortId) (s : State) : Out :=
  .next { s with fab := { s.fab with portup := s.fab.portup &&& ~~~((1 : BitVec 48) <<< p.val) } }

/-! ### Buffer lending (R411-R413) -/

/-- The targets of an interval (R412). -/
def lendTargets (used : List Nat) : List Nat :=
  let u := used.foldl (· + ·) 0
  if u = 0 then List.replicate 8 512
  else
    let t := used.map fun x => 64 + 3584 * x / u
    let left := 4096 - t.foldl (· + ·) 0
    t.zipIdx.map fun xi => xi.1 + left / 8 + (if xi.2 < left % 8 then 1 else 0)

/-- Increases in ascending VC order as far as free room reaches: (limit, committed, target) per channel (R413). -/
def lendRaise : Nat → List (Nat × Nat × Nat) → List (Nat × Nat)
  | _, [] => []
  | free, (l, c, t) :: r =>
    let k := min (t - l) free
    (l + k, max c (l + k)) :: lendRaise (free - (max c (l + k) - c)) r

/-- Eight 16-bit limits. -/
def limits8 (l : List Nat) : Vector (BitVec 16) 8 := Vector.ofFn fun i => BitVec.ofNat 16 (l.getD i.val 0)
/-- Limits as numbers. -/
def limitNats (v : Vector (BitVec 16) 8) : List Nat := v.toList.map (·.toNat)

/-- Announces limits for the targets: decreases when `lower`, and increases that uncommitted room covers (R413). -/
def announce (s : State) (p : PortId) (l : Lend) (lower : Bool) : State :=
  let c := limitNats l.committed
  let l1 := (limitNats l.limits).zip (limitNats l.targets) |>.map fun xt => if lower then min xt.1 xt.2 else xt.1
  let res := lendRaise (4096 - c.foldl (· + ·) 0) ((l1.zip (c.zip (limitNats l.targets))))
  let lim := limits8 (res.map (·.1))
  let l2 := { l with limits := lim, committed := limits8 (res.map (·.2)) }
  if lim = l.limits then updLend s p.val fun _ => l2
  else
    let l3 := { l2 with epoch := l.epoch + 1, hist := (l.epoch + 1, lim) :: l.hist }
    let s := updLend s p.val fun _ => l3
    { s with fab := { s.fab with ctl := s.fab.ctl ++ [.limits p.val l3.epoch lim] } }

/-- Whether a port is up. -/
def portUp (s : State) (p : PortId) : Bool := s.fab.portup.getLsbD p.val

/-- Whether a port's interval of 1,024 tile clocks is over (R412). -/
def intervalDue (s : State) (p : PortId) : Bool :=
  portUp s p && 1024 ≤ ((s.tile 0).cycle - (s.fab.lend[p.val]'p.isLt).since).toNat

/-- CREDIT_INTERVAL: every 1,024 tile clocks a port sets its targets (R412). -/
def execCreditInterval (p : PortId) (s : State) : Out :=
  let l := s.fab.lend[p.val]'p.isLt
  let now := (s.tile 0).cycle
  if intervalDue s p then
    .next (announce s p { l with targets := limits8 (lendTargets l.used.toList), used := Vector.replicate 8 0, since := now } true)
  else .next s

/-- Whether the flits in flight of every channel are within limits of the peer's (R413). -/
def Lend.within (l : Lend) (m : Vector (BitVec 16) 8) : Bool := (List.finRange 8).all fun v => l.flying[v.val]'v.isLt ≤ (m[v.val]'v.isLt).toNat

/-- The acknowledgements that a port owes: of every epoch, a later one's limits in force or not, once its flits in flight are within the limits
of that epoch (R413). -/
def payAck (s : State) (p : PortId) : State :=
  let l := s.fab.lend[p.val]'p.isLt
  let met := l.owed.filter fun e => l.within e.2
  if met.isEmpty then s
  else
    let s := updLend s p.val fun l => { l with owed := l.owed.filter fun e => !l.within e.2 }
    { s with fab := { s.fab with ctl := s.fab.ctl ++ met.map fun e => .ack p.val e.1 } }

/-- The packets that wait for credit leave in their order as far as credit reaches; those of a die without a port are lost (R409, R413). -/
def flushStay (s : State) : State :=
  s.fab.stay.foldl
    (fun s e =>
      match s.fab.out[e.1]? with
      | none => s
      | some p =>
        if !portsUp s e.2.val then s
        else
          match sendPort s e.2 (vcOf p) (flitsOf p) with
          | some q => depart s q (vcOf p) (flitsOf p)
          | none => { s with fab := { s.fab with stay := s.fab.stay ++ [e] } }) { s with fab := { s.fab with stay := [] } }

/-- The peer of a port gives back room for flits of a channel (R413): the model's own turn, as the spec names no message for it. -/
def giveRoom (s : State) (p : PortId) (vc : Fin 8) (n : Nat) : State :=
  flushStay (payAck (updLend s p.val fun l => { l with flying := l.flying.set vc.val (l.flying[vc.val]'vc.isLt - n) vc.isLt }) p)

/-- LIMIT_FLIT: the peer's limits arrive, and are acknowledged once this port's flits in flight are within them (R413). -/
def execLimitFlit (p : PortId) (epoch : BitVec 16) (limits : Vector (BitVec 16) 8) (s : State) : Out :=
  if portUp s p then
    .next (flushStay (payAck (updLend s p.val fun l => { l with peer := limits, peerEpoch := epoch, owed := l.owed ++ [(epoch, limits)] }) p))
  else .next s

/-- What stays committed when the peer has acknowledged an epoch (R413): the largest limits announced from it on; none for an epoch that is
not one of these. -/
def Lend.ackedAt (l : Lend) (epoch : BitVec 16) : Option Lend :=
  if l.hist.any fun h => h.1 == epoch then
    let later := l.hist.takeWhile fun h => h.1 != epoch
    let kept := later ++ (l.hist.drop later.length).take 1
    some { l with hist := kept, acked := epoch,
                  committed := Vector.ofFn fun i => kept.foldl (fun m h => if m.toNat < (h.2[i.val]'i.isLt).toNat then h.2[i.val]'i.isLt else m) 0 }
  else none

/-- LIMIT_ACK: an acknowledged epoch frees what the decreases up to it gave up (R413). -/
def execLimitAck (p : PortId) (epoch : BitVec 16) (s : State) : Out :=
  if portUp s p then
    match (s.fab.lend[p.val]'p.isLt).ackedAt epoch with
    | some l => .next (announce s p l false)
    | none => .next s
  else .next s

end Sys2Proof.Machine
end

