-- ==== Sys2Proof/Machine/GangTime.lean ====
section
/-! DEFINITION. Ridge points (chapter 20): what a participant does at the times of its record and on the lead's messages, and what the lead
decides (R428-R438). -/

namespace Sys2Proof.Machine

/-- fabcfg.RTO in ns: below 4 µs acts as 4 (R419). -/
def rtoNs (s : State) : Nat := max 4 (s.fab.fabcfg.toNat / 256 % 256) * 1000

/-- Whether a GANG packet of a subtype has arrived at this module (R402, R430). -/
def gangIn (s : State) (p : Packet) (sub : Nat) : Bool :=
  packetOk p && p.ty == 13 && p.opc.toNat % 16 == sub && p.dmod == s.fab.modnum && (p.smod == s.fab.modnum || s.fab.portup != 0)

/-! ### The lead -/

/-- A lead's view, by gang and T. -/
def leadOf (s : State) (g t : Word64) : Option LeadSt := s.gang.leads.find? fun l => l.gang == g && l.t == t
/-- A lead's view changed. -/
def updLead (s : State) (l : LeadSt) : State :=
  { s with gang := { s.gang with leads := s.gang.leads.map fun o => if o.gang = l.gang ∧ o.t = l.t then l else o } }

/-- What the lead has heard of one participant, before it hears more. -/
def repOf (l : LeadSt) (m : BitVec 12) : PartRep :=
  (l.reps.find? fun r => r.smod == m).getD { smod := m, arm := false, agree := true, clock := false, query := false, verdict := none, ready := false }

/-- A participant's report put in its place, in ascending module number. -/
def setRep (l : LeadSt) (r : PartRep) : LeadSt :=
  let others := l.reps.filter fun o => o.smod != r.smod
  { l with reps := others.filter (fun o => o.smod.toNat < r.smod.toNat) ++ [r] ++ others.filter fun o => r.smod.toNat < o.smod.toNat }

/-- DECIDE's CMPV (R430). -/
def decCmpv (d : GDec) : Nat := d.code.toNat + d.reason.toNat * 2 ^ 8 + d.smod.toNat * 2 ^ 16 + d.heard.toNat * 2 ^ 32

/-- A decision sent to one participant, as DECIDE or GO. -/
def sendDec (s : State) (l : LeadSt) (d : GDec) (m : BitVec 12) : State :=
  sendGang s (gangPacket s (if d.go then 6 else 2) m.toNat l.gang l.t (decCmpv d) 0)

/-- A decision of the lead, sent to every participant it has heard from (R431). -/
def sendAll (s : State) (l : LeadSt) (d : GDec) : State :=
  let l := { l with last := some d }
  l.reps.foldl (fun s r => sendDec s l d r.smod) (updLead s l)

/-- A decision with its REASON and SMOD; HEARD counts the participants heard. -/
def mkDec (l : LeadSt) (code reason smod : Nat) : GDec :=
  { code := BitVec.ofNat 3 code, reason := BitVec.ofNat 8 reason, smod := BitVec.ofNat 16 smod, heard := BitVec.ofNat 16 l.reps.length,
    go := false }

/-- The lowest module of the reports that satisfy a test. -/
def lowestRep (l : LeadSt) (f : PartRep → Bool) : Option Nat := (l.reps.find? f).map fun r => r.smod.toNat

/-- CLOCK is met by the barrier, or abandons (R431, R433). -/
def clockDec (l : LeadSt) : GDec := if tlrBarrier l.bytes then mkDec l 2 0 0xFFFF else mkDec l 3 0 0xFFFF

/-- The first decision (R431). -/
def firstDec (s : State) (l : LeadSt) : GDec :=
  match lowestRep l fun r => r.arm && !r.agree with
  | some m => mkDec l 3 4 m
  | none =>
    if (l.reps.filter (·.arm)).length < tlrPart l.bytes then mkDec l 3 1 0xFFFF
    else if l.reps.any (fun r => r.arm && r.clock) || clockBad s l.bytes then clockDec l
    else mkDec l 1 0 0xFFFF

/-- The participants whose VERDICT is in. -/
def verdicts (l : LeadSt) : Nat := (l.reps.filter fun r => r.verdict.isSome).length

/-- The second decision (R433). -/
def secondDec (l : LeadSt) : GDec :=
  if verdicts l < tlrPart l.bytes then mkDec l 3 3 0xFFFF
  else
    match lowestRep l fun r => match r.verdict with | some (n, _) => n != 0 | none => false with
    | some m => mkDec l 3 2 m
    | none =>
      if l.reps.any fun r => match r.verdict with | some (_, c) => c | none => false then clockDec l
      else mkDec l 4 0 0xFFFF

/-- The second decision is made; a fallback then starts with nobody ready (R434). -/
def makeSecond (s : State) (l : LeadSt) : State :=
  let d := secondDec l
  sendAll s { l with second := some d, reps := l.reps.map fun r => { r with ready := false } } d

/-- Whether a second decision is still to be made (R433). -/
def secondDue (l : LeadSt) : Bool :=
  drains l.bytes && l.second.isNone && (match l.first with | some d => d.code == 1 | none => false)

/-- Whether the time of the first decision has come (R431). -/
def firstTime (s : State) (l : LeadSt) : Bool := tlrT l.bytes ≤ s.ns + tlrDelta l.bytes / 2

/-- Whether the time of the second decision has come (R433). -/
def secondTime (s : State) (l : LeadSt) : Bool := tlrT l.bytes + tlrGrace l.bytes ≤ s.ns

/-- FIRST_DECISION: at T - DELTA / 2 (R431). -/
def execFirstDecision (g : BitVec 64) (s : State) : Out :=
  match s.gang.leads.find? fun l => l.gang == g && l.first.isNone && firstTime s l with
  | none => .next s
  | some l => let d := firstDec s l; .next (sendAll s { l with first := some d } d)

/-- SECOND_DECISION: at T + GRACE (R433). -/
def execSecondDecision (g : BitVec 64) (s : State) : Out :=
  match s.gang.leads.find? fun l => l.gang == g && secondDue l && secondTime s l with
  | none => .next s
  | some l => .next (makeSecond s l)

/-- Whether an ARM agrees with the lead's record (R430, R431). -/
def armAgrees (l : LeadSt) (p : Packet) : Bool :=
  p.cmpv.toNat / 2 ^ 40 % 256 == tlrAction l.bytes && p.cmpv.toNat / 2 ^ 48 == tlrPart l.bytes && p.addr == l.t &&
  p.delta.toNat == tlrDelta l.bytes

/-- GANG_ARM: the lead hears an ARM, which counts as one until the time of the first decision (R431); one for a gang it does not hold armed is
discarded (R428). -/
def execGangArm (p : Packet) (s : State) : Out :=
  match s.ridge p.opnd with
  | none => .next s
  | some r =>
    match leadOf s p.opnd (BitVec.ofNat 64 (tlrT r.bytes)) with
    | none => .next s
    | some l =>
      let o := repOf l p.smod
      let rep := if firstTime s l then { o with query := true }
        else { o with arm := true, agree := armAgrees l p, clock := o.clock || p.cmpv.getLsbD 32 }
      .next (if gangIn s p 1 && !r.fin then updLead s (setRep l rep) else s)

/-- GANG_FALLBACK: before the first decision, a CLOCK bit (R430). -/
def execGangFallback (p : Packet) (s : State) : Out :=
  match leadOf s p.opnd p.addr with
  | none => .next s
  | some l =>
    let o := repOf l p.smod
    .next (if gangIn s p 4 then updLead s (setRep l { o with clock := o.clock || !firstTime s l }) else s)

/-- The GO that a clock VERDICT of a LAUNCH or RESUME is answered with (R432). -/
def clockGo (l : LeadSt) : GDec := { mkDec l 4 0 0xFFFF with go := true }

/-- The participants due a GO of their own. -/
def goDue (s : State) (l : LeadSt) : List PartRep :=
  if drains l.bytes || s.ns < tlrT l.bytes then []
  else l.reps.filter fun r => (match r.verdict with | some (_, c) => c | none => false) && !l.gos.contains r.smod

/-- Each is sent its GO, not before T (R432). -/
def flushGos (s : State) (l : LeadSt) : State :=
  let due := goDue s l
  due.foldl (fun s r => sendDec s l (clockGo l) r.smod) (updLead s { l with gos := l.gos ++ due.map (·.smod) })

/-- GANG_VERDICT (R432, R433); one that comes once the time of the second decision has come counts for nothing. -/
def execGangVerdict (p : Packet) (s : State) : Out :=
  match leadOf s p.opnd p.addr with
  | none => .next s
  | some l =>
    if !gangIn s p 3 || (secondDue l && secondTime s l) then .next s
    else
      let o := repOf l p.smod
      let l := setRep l { o with verdict := some (o.verdict.getD (p.cmpv.setWidth 32, p.cmpv.getLsbD 32)) }
      let s := flushGos (updLead s l) l
      .next (if secondDue l && tlrPart l.bytes ≤ verdicts l then makeSecond s l else s)

/-- Whether the lead's latest decision is a fallback under way. -/
def inFallback (l : LeadSt) : Bool := match l.last with | some d => d.code == 2 | none => false

/-- Whether a lead has waited too long for READY (R434): past T + GRACE after a first decision, T + 2 x GRACE after a second. -/
def fallbackLate (s : State) (l : LeadSt) : Bool :=
  inFallback l && tlrT l.bytes + (if l.second.isSome then 2 else 1) * tlrGrace l.bytes < s.ns

/-- GANG_READY: GO once PART are ready in time (R434). -/
def execGangReady (p : Packet) (s : State) : Out :=
  match leadOf s p.opnd p.addr with
  | none => .next s
  | some l =>
    if !gangIn s p 5 || fallbackLate s l then .next s
    else
      let l := setRep l { repOf l p.smod with ready := true }
      if inFallback l && tlrPart l.bytes ≤ (l.reps.filter (·.ready)).length then .next (sendAll s l (clockGo l)) else .next (updLead s l)

/-- GANG_QUERY: counted as heard, and answered with the latest decision, or the participant's own GO (R428, R430). -/
def execGangQuery (p : Packet) (s : State) : Out :=
  match leadOf s p.opnd p.addr with
  | none => .next s
  | some l =>
    if !gangIn s p 7 then .next s
    else
      let l := setRep l { repOf l p.smod with query := true }
      let s := updLead s l
      if l.gos.contains p.smod then .next (sendDec s l (clockGo l) p.smod)
      else
        match l.last with
        | some d => .next (sendDec s l d p.smod)
        | none => .next s

/-- FALLBACK_TIMEOUT (R434). -/
def execFallbackTimeout (g : BitVec 64) (s : State) : Out :=
  match s.gang.leads.find? fun l => l.gang == g && fallbackLate s l with
  | none => .next s
  | some l => .next (sendAll s l (mkDec l 3 3 0xFFFF))

/-- Whether a lead's decisions are kept no longer: 10 s after T (R430). -/
def leadOver (s : State) (l : LeadSt) : Bool := tlrT l.bytes + 10000000000 ≤ s.ns

/-- DECISION_EXPIRE (R430). -/
def execDecisionExpire (g : BitVec 64) (s : State) : Out :=
  .next { s with gang := { s.gang with leads := s.gang.leads.filter fun l => !(l.gang == g && leadOver s l) } }

/-! ### A participant -/

/-- The action of a LAUNCH: the packet at LPKT starts (R432), and what can be is placed at once on every die (R257). -/
def launchPkt (s : State) (r : Ridge) : State × Nat :=
  let q : QueueId := match s.pkt r.pkt with | some p => p.q | none => 0
  let p := { newPkt s.disp.nextPkt q r.job (r.bytes.drop 64) none with free := true }
  let s := advancePkt (addPkt s p) p
  let s := (List.finRange 12).foldl (fun s die => (List.range 16).foldl (fun s _ => placeDie s die) s) s
  (s, (s.tiles.toList.filter fun x => match x.task with | some k => k.pkt == p.id | none => false).length)

/-- The action of a RESUME: the job's RESUME begins (R379, R432). -/
def launchResume (s : State) (r : Ridge) : State × Nat :=
  (resumeJob s r.job.val, (s.disp.saved.filter fun e => e.2.1.job == r.job).length)

/-- A LAUNCH or RESUME is performed, the quiesce ends and the record is DONE (R432). -/
def finalAction (s : State) (r : Ridge) : State :=
  let (s, n) := if tlrAction r.bytes = 0 then launchPkt s r else launchResume s r
  let s := updRidge s r.gang fun r => { r with tiles := BitVec.ofNat 16 n }
  match s.ridge r.gang with
  | some r => finishRidge (endQuiesce s r) r 1 0 0xFFFF (match r.dec with | some d => d.heard.toNat | none => 0)
  | none => s

/-- The drain trigger of a PREEMPT or CANCEL in every tile that holds a task of the job (R432); a PREEMPT's job is DRAINING (R379). -/
def drainAction (s : State) (r : Ridge) : State :=
  let j := r.job.val
  let n := (s.tiles.toList.filter (holdsJob j)).length
  let s := if tlrAction r.bytes = 1 ∧ (s.job j).pre ≠ 2 then s.setJob j { s.job j with pre := 1 } else s
  let s := preemptTiles s j true
  let s := updRidge s r.gang fun r => { r with tiles := BitVec.ofNat 16 n }
  setRidgeBits s r 0

/-- The action taken at a time, late or not (R432, R434, R435). -/
def act (s : State) (g : Word64) (actual : Nat) (late : Bool) : State :=
  let s := updRidge s g fun r => { r with acted := some actual, rflags := if late then r.rflags ||| 2 else r.rflags }
  match s.ridge g with
  | none => s
  | some r => if drains r.bytes then drainAction s r else finalAction s r

/-- The values of T, or of GO, are taken (R425). -/
def takeCut (s : State) (g : Word64) : State :=
  updRidge s g fun r => { r with inflight := BitVec.ofNat 32 (gangCount s r.job.val), unc := s.time.unc, atT := true }

/-- QUERY is sent, and the next one is due an interval later (R435). -/
def query (s : State) (r : Ridge) : State :=
  let s := toLead s r 7 0 0
  { s with gang := { s.gang with nextQuery := smSet 0 r.gang.toNat (s.ns + rtoNs s) s.gang.nextQuery } }

/-- The code of the decision a participant holds, 0 for none. -/
def decCode (r : Ridge) : Nat := match r.dec with | some d => d.code.toNat | none => 0

/-- Whether a participant waits for a GO of its own (R432). -/
def waitsGo (r : Ridge) : Bool := decCode r == 1 && r.atT && r.acted.isNone && !drains r.bytes

/-- Whether a participant is due to quiesce: at T - DELTA (R429). -/
def quiesceDue (s : State) (r : Ridge) : Bool := !r.fin && !r.quiesced && tlrT r.bytes ≤ s.ns + tlrDelta r.bytes

/-- QUIESCE (R429). -/
def execQuiesce (g : BitVec 64) (s : State) : Out :=
  match s.ridge g with
  | some r => .next (if quiesceDue s r then updRidge s g fun r => { r with quiesced := true } else s)
  | none => .next s

/-- What happens at T (R432, R435). -/
def atRidge (s : State) (r : Ridge) : State :=
  let s := takeCut s r.gang
  match s.ridge r.gang with
  | none => s
  | some r =>
    match decCode r with
    | 0 => query s r
    | 1 =>
      if tlrDelta r.bytes / 2 < r.unc.toNat then
        let s := sendVerdict s r true
        if drains r.bytes then s else query s r
      else gangProgress (act s r.gang (tlrT r.bytes) false)
    | _ => s

/-- Whether T has come for a participant that has not met it (R432). -/
def ridgeDue (s : State) (r : Ridge) : Bool := !r.fin && !r.atT && tlrT r.bytes ≤ s.ns

/-- RIDGE_ACTION: at T (R432); a lead then sends the GOs that had to wait for T. -/
def execRidgeAction (g : BitVec 64) (s : State) : Out :=
  match s.ridge g with
  | none => .next s
  | some r =>
    if !ridgeDue s r then .next s
    else
      let s := atRidge s r
      match leadOf s g (BitVec.ofNat 64 (tlrT r.bytes)) with
      | some l => .next (flushGos s l)
      | none => .next s

/-- STATUS of an abandoned record, from its REASON (R431, R436). -/
def abandonStatus (reason : Nat) : Nat := if reason = 0 then 3 else if reason = 4 ∨ reason = 5 then 5 else 2

/-- STRAGGLER's information word (R438). -/
def stragglerInfo (r : Ridge) (status reason smod : Nat) : BitVec 32 :=
  BitVec.ofNat 32 (tlrAction r.bytes * 2 ^ 18 + (status - 2) * 2 ^ 16 + reason % 16 * 2 ^ 12 + smod % 4096)

/-- A job whose PREEMPT is abandoned is RUNNING again (R433). -/
def unpreempt (s : State) (r : Ridge) : State :=
  let j := r.job.val
  let x := s.job j
  if tlrAction r.bytes = 1 ∧ r.acted.isSome ∧ (x.pre = 1 ∨ (x.pre = 2 ∧ !s.disp.saved.any fun e => e.2.1.job == r.job)) then
    s.setJob j { x with pre := 0 }
  else s

/-- A tile's task whose streams are not released has nothing to drain for a record that is abandoned (R433). -/
def forgetRidge (s : State) (j : Nat) : State :=
  eachTile s (fun x => holdsJob j x && x.drain.ridge && !inDrain x) fun s t =>
    let x := s.tile t
    let c := fun (c : Core) => { c with v := { c.v with ridge := 0 } }
    s.setTile t { x with ld := c x.ld, cp := c x.cp, st := c x.st, drain := { x.drain with preq := false, ridge := false } }

/-- ABANDON (R431, R433, R438): STRAGGLER where the policy asks for it, the drained tiles learn the decision, the quiesce ends. -/
def abandonRidge (s : State) (r : Ridge) (d : GDec) : State :=
  let reason := d.reason.toNat
  let st := abandonStatus reason
  let s := if tlrFault r.bytes ∧ (st = 2 ∨ st = 3) then
      eachTile s (holdsJob r.job.val) fun s t => raiseStraggler s t (stragglerInfo r st reason d.smod.toNat)
    else s
  let s := unpreempt (setRidgeBits (forgetRidge s r.job.val) r 2) r
  finishRidge (endQuiesce s r) r st reason d.smod.toNat d.heard.toNat

/-- Whether a tile's task was drained by the record (its firmware completes or saves it). -/
def ridgeDrained (s : State) (p : Pkt) (i : Nat) : Bool :=
  match p.ent i with
  | .placed t => (s.tile (tileId t)).drain.ridge && inDrain (s.tile (tileId t))
  | _ => false

/-- A committed CANCEL acts as CANCEL level 4 (R263, R433); the drained tasks are completed by their firmware (R437). -/
def cancelJob (s : State) (j : JobId) : State :=
  let ls := s.disp.pkts.filter (isLaunch j)
  let os := s.disp.pkts.filter fun p => p.job == j && p.status.isNone && otherOpen p
  let s := ls.foldl (fun s p => cancelTasks s p ((List.range p.count).filter fun i => !ridgeDrained s p i)) s
  let s := os.foldl (fun s p => updPkt s p.id fun p => { p with status := some 2, recs := [] }) s
  stopJobQueues (dropAllDeficits s) j

/-- COMMIT (R433): the drained tiles learn it; a CANCEL takes the rest of the job. -/
def commitRidge (s : State) (r : Ridge) : State :=
  let s := setRidgeBits s r 1
  if tlrAction r.bytes = 3 then cancelJob s r.job else settleJob s r.job.val

/-- The rank of a decision: a repeated or older one changes nothing (R430). -/
def decRank (code : Nat) : Nat := if code = 3 ∨ code = 4 then 3 else code

/-- The decision a DECIDE or GO carries. -/
def packetDec (p : Packet) : GDec :=
  { code := p.cmpv.setWidth 3, reason := (p.cmpv >>> 8).setWidth 8, smod := (p.cmpv >>> 16).setWidth 16, heard := (p.cmpv >>> 32).setWidth 16,
    go := p.opc.toNat % 16 == 6 }

/-- What a decision makes a participant do (R431-R435). -/
def obey (s : State) (r : Ridge) (d : GDec) : State :=
  match d.code.toNat with
  | 1 =>
    if tlrT r.bytes < s.ns ∨ r.atT then act (if r.atT then s else takeCut s r.gang) r.gang s.ns true else s
  | 2 => updRidge s r.gang fun r => { r with quiesced := true }
  | 3 => abandonRidge s r d
  | _ => commitRidge (if r.acted.isNone then act s r.gang s.ns true else s) r

/-- The record that a message of the lead is for: that of its gang and T, from its LEAD. -/
def addressed (s : State) (p : Packet) : Option Ridge :=
  (s.ridge p.opnd).filter fun r => !r.fin && tlrT r.bytes == p.addr.toNat && tlrLead r.bytes == p.smod.toNat

/-- Whether a participant without an answer ends UNDECIDED: 1 s after T (R435). -/
def undecidedDue (s : State) (r : Ridge) : Bool :=
  !r.fin && decCode r != 3 && decCode r != 4 && tlrT r.bytes + 1000000000 ≤ s.ns

/-- GANG_DECIDE (R431-R435). -/
def execGangDecide (p : Packet) (s : State) : Out :=
  match addressed s p with
  | none => .next s
  | some r =>
    let d := packetDec p
    if !gangIn s p 2 || undecidedDue s r || d.code.toNat = 0 || 4 < d.code.toNat || decRank d.code.toNat ≤ decRank (decCode r) then .next s
    else
      let s := updRidge s r.gang fun r => { r with dec := some d }
      match s.ridge r.gang with
      | some r => .next (gangProgress (obey s r d))
      | none => .next s

/-- The action on GO in fallback (R434): INFLIGHT and UNC as they stand, FALLBACK set; what was drained at T is committed with its ACTUAL. -/
def goFallback (s : State) (r : Ridge) : State :=
  let s := updRidge s r.gang fun r =>
    { r with rflags := r.rflags ||| 1, inflight := BitVec.ofNat 32 (gangCount s r.job.val), unc := s.time.unc, atT := true }
  let s := if r.acted.isNone then act s r.gang s.ns false else s
  match s.ridge r.gang with
  | some r => if drains r.bytes then commitRidge s r else s
  | none => s

/-- GANG_GO (R432, R434). -/
def execGangGo (p : Packet) (s : State) : Out :=
  match addressed s p with
  | none => .next s
  | some r =>
    let d := packetDec p
    if !gangIn s p 6 || undecidedDue s r || decCode r == 3 || decCode r == 4 then .next s
    else
      let wait := waitsGo r
      let s := updRidge s r.gang fun r => { r with dec := some { d with code := 4 } }
      match s.ridge r.gang with
      | none => .next s
      | some r => .next (gangProgress (if wait then act s r.gang s.ns true else goFallback s r))

/-- Whether a participant is due to ask its lead again: each RTO interval after T until it is answered (R435). -/
def queryDue (s : State) (r : Ridge) : Bool :=
  !r.fin && r.atT && (decCode r == 0 || waitsGo r) && smGet 0 r.gang.toNat s.gang.nextQuery ≤ s.ns

/-- QUERY_RESEND (R435). -/
def execQueryResend (g : BitVec 64) (s : State) : Out :=
  match s.ridge g with
  | none => .next s
  | some r => .next (if queryDue s r then query s r else s)

/-- UNDECIDED (R435): the job stays quiesced. -/
def execUndecided (g : BitVec 64) (s : State) : Out :=
  match s.ridge g with
  | none => .next s
  | some r =>
    if !undecidedDue s r then .next s
    else
      let s := finishRidge s r 4 0 0xFFFF (match r.dec with | some d => d.heard.toNat | none => 0)
      .next (({ s with gang := { s.gang with stuck := s.gang.stuck.filter (· != r.job) ++ [r.job] } }).sendHost (.msix 1217))

/-- What the records and the leads' decisions make due (R429-R435), in the order in which it is done. -/
def gangTurns (s : State) : List Turn :=
  let rs := fun (f : Ridge → Bool) (e : BitVec 64 → Instr) => (s.gang.ridges.filter f).map fun r => Turn.event (e r.gang)
  let ls := fun (f : LeadSt → Bool) (e : BitVec 64 → Instr) => (s.gang.leads.filter f).map fun l => Turn.event (e l.gang)
  rs (quiesceDue s) .quiesce ++ ls (fun l => l.first.isNone && firstTime s l) .firstDecision ++ rs (ridgeDue s) .ridgeAction ++
  ls (fun l => secondDue l && secondTime s l) .secondDecision ++ ls (fallbackLate s) .fallbackTimeout ++
  rs (undecidedDue s) .undecided ++ rs (queryDue s) .queryResend ++ ls (leadOver s) .decisionExpire

end Sys2Proof.Machine
end

