-- ==== Sys2Proof/Machine/Global.lean ====
section
/-! DEFINITION. Global access (R95-R108): LDG, STG, ATOM, ACAS, WAITF with its polls (R410), the fences, and ENQ (R264, R265). -/

namespace Sys2Proof.Machine

/-- Order and scope as OPC carries them. -/
def orderScope (o : Order) (sc : Scope) : Nat := orderCode o + 8 * scopeCode sc

/-- The firmware's memory with an operation performed on it (R461). -/
def fwDo (s : State) (a : Nat) (g : GOp) : List Byte × State :=
  let put := fun bs => { s with hk := { s.hk with fwMem := memWrite s.hk.fwMem a bs } }
  match g with
  | .read n => (memRead s.hk.fwMem a n, s)
  | .write bs => ([], put bs)
  | .atom op n c e =>
    let m := leNat (memRead s.hk.fwMem a n)
    (leBytes n m, if atomWrites op e m then put (leBytes n (atomNew op n c e m)) else s)

/-- A service context's access to the firmware's address space (R461): its data region, or its code, which is read-only. -/
def fwAccess (s : State) (a : Nat) (g : GOp) : Option (Except (BitVec 8) (List Byte × State)) :=
  match s.cur.ctx, s.hk.fw with
  | .service, some f =>
    if inFwData f a g.bytes then some (.ok (fwDo s a g))
    else if f.codeBase.toNat ≤ a ∧ a + g.bytes ≤ f.codeBase.toNat + f.code.length then
      (match g with
       | .read n => some (.ok ((f.code.drop (a - f.codeBase.toNat)).take n, s))
       | _ => some (.error 0x11))
    else none
  | _, _ => none

/-- A global access of `n` bytes after its alignment check (R96, R115). -/
def globalAccess (s : State) (rk : RemoteKind) (k : AccKind) (va : Word64) (n : Nat) (g : GOp) (os : Nat) (fin : State → List Byte → Flow) :
    Flow :=
  if va.toNat % n ≠ 0 then alignTrap va 1
  else
    match fwAccess s va.toNat g with
    | some (.ok r) => fin r.2 r.1
    | some (.error c) => vaTrap s c (va.setWidth 32) va
    | none => scalarAccess s rk k va g os devAccess fin

/-- LDG (R95). -/
def execLdg (signed : Bool) (w : Width) (o : Order) (sc : Scope) (d : Fin 32) (m : MemOp) (sy : Sync) (s : State) : Out :=
  run (.ldg signed w o sc d m sy)
    (fun s =>
      globalAccess s .scalar .load (s.memAddr m) (widthBytes w) (.read (widthBytes w)) (orderScope o sc) fun s bs =>
        ok (s.writeG d (loadExt signed bs))) s

/-- STG (R95); its retirement is a sink event (R382). -/
def execStg (w : Width) (o : Order) (sc : Scope) (m : MemOp) (c : GSrc) (sy : Sync) (s : State) : Out :=
  run (.stg w o sc m c sy)
    (fun s =>
      let n := widthBytes w
      globalAccess s .scalar .store (s.memAddr m) n (.write (leBytes n (s.src c).toNat)) (orderScope o sc) fun s _ => ok s.sink) s

/-- The bytes of an atomic's width. -/
def atomBytes (dw : Bool) : Nat := if dw then 8 else 4

/-- ATOM (R98-R101, R103). -/
def execAtom (op : AtomOp) (dw : Bool) (o : Order) (sc : Scope) (d : Fin 32) (m : MemOp) (c : GSrc) (sy : Sync) (s : State) : Out :=
  run (.atom op dw o sc d m c sy)
    (fun s =>
      let n := atomBytes dw
      globalAccess s .scalar .rmw (s.memAddr m) n (.atom (AtomOp.code op) n (lowBits (s.src c) (8 * n)) 0) (orderScope o sc) fun s bs =>
        ok (s.writeG d (BitVec.ofNat 64 (leNat bs))).sink) s

/-- ACAS (R102, R103). -/
def execAcas (dw : Bool) (o : Order) (sc : Scope) (d : Fin 32) (a b c : GSrc) (imm : BitVec 32) (sy : Sync) (s : State) : Out :=
  run (.acas dw o sc d a b c imm sy)
    (fun s =>
      let n := atomBytes dw
      globalAccess s .scalar .rmw (s.baseOff a imm) n (.atom 15 n (lowBits (s.src c) (8 * n)) (lowBits (s.src b) (8 * n)))
        (orderScope o sc) fun s bs => ok (s.writeG d (BitVec.ofNat 64 (leNat bs))).sink) s

/-! ### WAITF (R106-R108, R410) -/

/-- WAITF's condition on the masked word and comparand (R106). -/
def flagHolds (c : FlagCond) (t k : Nat) : Bool :=
  match c with
  | .eq => t == k
  | .ne => t != k
  | .hs => k ≤ t
  | .lo => t < k

/-- WAITF's mask (R106): C = 0 means all ones. -/
def waitMask (s : State) (m : GSrc) (n : Nat) : Nat :=
  match m with
  | .g 0 => 2 ^ (8 * n) - 1
  | _ => lowBits (s.src m) (8 * n)

/-- The READ a WAITF polls another module with (R410). -/
def pollPacket (s : State) (va : Word64) (n : Nat) (os : Nat) : Packet :=
  let a := scalarAsker s
  match translate s a.die.val a.job va.toNat with
  | (.page p, _) => reqPacket a p (.read n) false os
  | _ => blankPacket

/-- A WAITF goes on waiting: held, in a declared idle wait when `idle` (R108). The room of its posts is checked only once its condition holds (R113;
log entry 18). -/
def waitMore (idle : Bool) (s : State) : Flow :=
  .raw (markStall { s with cur := { s.cur with tv := 0 } } (if idle then .idleWait else .held))

/-- A WAITF whose read has been answered: done, or waiting with its outstanding access, if it had one, open for the next poll. -/
def waitTest (c : FlagCond) (idle : Bool) (d : Fin 32) (mask k : Nat) (r : Option Remote) (s : State) (bs : List Byte) : Flow :=
  let m := leNat bs
  if flagHolds c (m &&& mask) (k &&& mask) then ok (s.writeG d (BitVec.ofNat 64 m))
  else waitMore idle (setRemote s (r.map fun x => { x with resp := none }))

/-- WAITF (R106-R108). -/
def execWaitf (c : FlagCond) (idle : Bool) (dw : Bool) (acq : Bool) (sc : Scope) (d : Fin 32) (a : GSrc) (b : SrcLit) (m : GSrc)
    (sy : Sync) (s : State) : Out :=
  run (.waitf c idle dw acq sc d a b m sy)
    (fun s =>
      let n := atomBytes dw
      let va := s.src a
      let os := orderScope (if acq then .acq else .rlx) sc
      let rk := RemoteKind.waitf (pollPacket s va n os)
      let r := s.myCore.remote.filter fun r => sameAccess s rk va r && r.sent
      match globalAccess s rk .waitf va n (.read n) os
          (waitTest c idle d (waitMask s m n) (lowBits (s.srcZ b) (8 * n)) r) with
      | .hold s => waitMore idle s
      | f => f) s

/-- One microsecond in clock units. -/
def usUnits : Nat := 1000 * unitsPerNs

/-- Whether a WAITF on another module is due to poll again (R410): it waits for no answer it has, and a microsecond has passed since its last
READ. -/
def pollDue (s : State) (t : TileId) (st : Stream) : Bool :=
  match ((s.tile t).core st).remote with
  | some r => (match r.kind with | .waitf _ => r.sent && r.resp.isNone && r.at_ + usUnits ≤ s.time.clk | _ => false)
  | none => false

/-- WAITF_POLL: each microsecond a WAITF on another module sends a READ (R410), if its gateway may (R404, R429); with no port of its die up
the poll ends it with FABRIC NOPORT (R409). -/
def execWaitfPoll (t : TileId) (st : Stream) (s : State) : Out :=
  let x := s.tile t
  let c := x.core st
  match c.remote with
  | some r =>
    match r.kind with
    | .waitf q =>
      let a : Asker := { die := dieOf t, sch := schScalar t st, job := tileJob x, ofTile := true }
      if !pollDue s t st then .next s
      else if !portsUp s a.die.val then
        .next (s.setTile t (x.setCore st { c with remote := some { r with resp := some (.fault 0x28 (fabricInfo 0 2 fabScalar)) } }))
      else if canSend s a q then
        let s := s.setTile t (x.setCore st { c with remote := some { r with at_ := s.time.clk } })
        .next (sendReq s (.scalar t.val st r.tag) r.va { q with sdie := a.die })
      else .next s
    | _ => .next s
  | none => .next s

/-! ### Fences (R104, R105) -/

/-- FENCE: every earlier access of the stream is performed when it issues (R97, R105). -/
def execFence (o : Order) (sc : Scope) (sy : Sync) (s : State) : Out := run (.fence o sc sy) ok s

/-- XFENCE: for the engine domain it is held until every earlier asynchronous operation of the context has retired (R105). -/
def execXfence (o : Order) (sc : Scope) (core engine : Bool) (sy : Sync) (s : State) : Out :=
  run (.xfence o sc core engine sy)
    (fun s => if engine && ctxBusy s.me s.cur.stream s.cur.ctx then .stall .held else ok s) s

/-! ### ENQ (R264, R265) -/

/-- The packet in g8-g15 (R264). -/
def enqPacket (s : State) (reseal : Bool) : List Byte :=
  let bs := (List.range 8).flatMap fun i => leBytes 8 (if h : i < 8 then s.readG ⟨8 + i, by omega⟩ else 0).toNat
  if reseal then withSeal bs 64 else bs

/-- The end of an ENQ: its predicate, and no outstanding access. -/
def enqEnd (s : State) (tag : Nat) (p : Fin 8) (v : Bool) : Flow := ok ((setRemote (farForget s farEnq tag) none).writeP p v).sink

/-- A ring that cannot be reached (R265): nothing is written, the queue is in ERROR with INDEX_FAULT. -/
def enqFault (before after : State) (q tag : Nat) (p : Fin 8) : Flow := enqEnd (queueError (faultState before after) q 4) tag p false

/-- Another core's ENQ to the queue is under way (R265). -/
def enqBusy (s : State) (q : Nat) : Bool :=
  s.tiles.any fun x => (match x.st.remote with | some r => r.kind == .enq && r.sent && r.va.toNat == q | none => false)

/-- An ENQ holds its core (R71): it waits for a ring access (`sent`), or for another core's ENQ to the queue. -/
def enqWait (s : State) (q tag : Nat) (sent : Bool) : Flow :=
  .hold (setRemote s (some { tag := tag, ctx := s.cur.ctx, kind := .enq, sent := sent, here := false, resp := none,
                             va := BitVec.ofNat 64 q, at_ := 0 }))

/-- An ENQ whose index is written: the dispatcher is notified (R265). -/
def enqDone (s : State) (q tag : Nat) (p : Fin 8) : Flow :=
  enqEnd ((s.setUq q { s.uq q with notified := true }).soon (.qnotify (queueId q))) tag p true

/-- The part of a ring access in its queue's present run. -/
def enqSub (u : UQueue) (n : Nat) : Nat := 4 * u.gen + n

/-- The slot and the index written (R265). -/
def enqPut (s0 s : State) (a : Asker) (q tag wr : Nat) (p : Fin 8) (bs : List Byte) : Flow :=
  let u := s.uq q
  match farKeepWrite s a farEnq tag (enqSub u 1) .dispAny (u.base.toNat + 64 + 64 * (wr % u.slots)) bs with
  | .fault _ _ s => enqFault s0 s q tag p
  | .wait s => enqWait s q tag true
  | .ok _ s =>
    match farKeepWrite s a farEnq tag (enqSub u 2) .dispAny u.base.toNat (leBytes 8 ((wr + 1) % 2 ^ 64)) with
    | .fault _ _ s => enqFault s0 s q tag p
    | .wait s => enqWait s q tag true
    | .ok _ s => enqDone s q tag p

/-- The index write of an ENQ that a run of its queue has begun: its answer, or that it is under way. -/
def enqIndex (s : State) (tag : Nat) : Option (Option RemoteResp) :=
  let mine := fun (k : FarKey) => k.kind == farEnq && k.id == tag && k.sub % 4 == 2
  match s.disp.far.find? fun e => mine e.1 with
  | some e => some (some e.2)
  | none =>
    if s.fab.reqs.any fun r => (match r.owner with | .far k => mine k | _ => false) then some none else none

/-- The ring as an ENQ finds it (R264, R265). -/
def enqRing (s : State) (q tag : Nat) (p : Fin 8) (bs : List Byte) : Flow :=
  let u := s.uq q
  let a := dispAsker u.die u.job
  match farKeepRead s a farEnq tag (enqSub u 0) .dispAny u.base.toNat 16 with
  | .fault _ _ s2 => enqFault s s2 q tag p
  | .wait s => enqWait s q tag true
  | .ok h s2 =>
    let wr := fieldAt h 0 8
    if (wr + 2 ^ 64 - fieldAt h 8 8) % 2 ^ 64 = u.slots then enqEnd s2 tag p false
    else enqPut s s2 a q tag wr p bs

/-- ENQ (R264, R265): one whose index write has left ends with it, even if the queue has stopped since; a home die that the tile's links do not
reach gives FABRIC (R398). -/
def execEnq (reseal : Bool) (p : Fin 8) (q : SrcLit) (sy : Sync) (s : State) : Out :=
  run (.enq reseal p q sy)
    (fun s =>
      let n := (s.srcZ q).toNat % 1024
      let u := s.uq n
      if !u.devenq || u.job ≠ tileJob s.me then .trap { cause := 0x11, info := BitVec.ofNat 32 n }
      else
        match s.myCore.remote.filter fun r => r.ctx == s.cur.ctx && r.kind == .enq with
        | some r =>
          (match enqIndex s r.tag with
           | some none => enqWait s n r.tag true
           | some (some (.data _)) => enqDone s n r.tag p
           | some (some (.fault _ _)) => if u.state = 1 then enqFault s s n r.tag p else enqEnd s r.tag p false
           | none =>
             if u.state ≠ 1 then enqEnd s r.tag p false
             else if !r.sent && enqBusy s n then enqWait s n r.tag false
             else enqRing s n r.tag p (enqPacket s reseal))
        | none =>
          let (tag, s1) := newTag s
          if !rafterOk s (dieOf s.cur.tile).val u.die.val then .trap { cause := 0x28, info := fabricInfo u.die.val 3 fabScalar }
          else if u.state ≠ 1 then enqEnd s1 tag p false
          else if enqBusy s n then enqWait s1 n tag false
          else enqRing s1 n tag p (enqPacket s reseal)) s

end Sys2Proof.Machine
end

