-- ==== Sys2Proof/Machine/HostPort.lean ====
section
/-! DEFINITION. The host port (R414-R417): host reads and writes of HDM memory and of the BARs, the answers to back-invalidate snoops, and the
completions of accesses to the host window. -/

namespace Sys2Proof.Machine

/-- The HBM offset and HOME bit that a host physical address has through a decoder (R415). -/
def Hdm.find (d : Hdm) (hpa : Nat) : Option (Nat × Bool) :=
  if d.base % 2 ^ 28 = 0 ∧ d.size % 2 ^ 28 = 0 ∧ d.base ≤ hpa ∧ hpa < d.base + d.size ∧ d.off + (hpa - d.base) < hbmBytes then
    some (d.off + (hpa - d.base), d.striped)
  else none

/-- The page of HDM memory: key 0 and the ordinary scheme (R415). -/
def hdmPage (h : Nat) (striped : Bool) : Page :=
  { pa := h, r := true, w := true, x := false, ord := 0, sync := false, tol := false, tfmt := 0, key := 0, striped := striped, attrOk := true }

/-- Where a host access lands, unless encryption carves the offset out (R288). -/
def hdmTarget (s : State) (hpa : Nat) : Option (Nat × Bool) :=
  match s.host.hdm.toList.findSome? fun d => d.find hpa with
  | some (h, b) => if carvedOut s b h then none else some (h, b)
  | none => none

/-- Whether `n` bytes from an address lie within one sector (R307). -/
def inSector (a n : Nat) : Bool := n != 0 && a / 64 == (a + n - 1) / 64

/-- Whether the host's path to HDM has trained (R459). -/
def hostReady (s : State) : Bool := 6 ≤ s.hk.bring && !(s.sec.enc && !s.sec.encOn)

/-- The host may hold a sector from now on (R416). -/
def track (s : State) (sec : Nat) : State :=
  if s.host.tracked.contains sec then s else { s with host := { s.host with tracked := sec :: s.host.tracked } }

/-- The bytes that poisoned data carries: free. -/
def poison (s : State) (n : Nat) : List Byte := (List.range n).map fun i => (Config.freeWord (s.freeIdx + i)).setWidth 8

/-- A host read of a sector (R307, R416): poisoned when the sector is bad or was written under another scheme. -/
def hostRead (s : State) (idx n tag : Nat) (p : Page) : State :=
  let s := { s with sec := { s.sec with touched := true } }
  if sectorOk s (idx / 64) p then
    (track (checkedSector s (idx / 64) p) (idx / 64)).sendHost (.readRsp tag (memRead s.hbm idx n) false)
  else
    let r := (s.sendHost (.readRsp tag (poison s n) true)).countEvent (dieOfIdx idx) 0x0B 256 1
    track { r with freeIdx := r.freeIdx + 64 } (idx / 64)

/-- HOST_MEM_READ (R307, R416); one that the anchor die's links cannot carry to its home completes as Unsupported Request (R398, log entry
20). -/
def execHostMemRead (hpa : BitVec 64) (len : Nat) (tag : Nat) (s : State) : Out :=
  if s.hk.bring ≤ 3 then .next (s.sendHost (.unsupported tag))
  else if !hostReady s || !inSector hpa.toNat len then .next s
  else
    match hdmTarget s hpa.toNat with
    | none => .next (s.sendHost (.unsupported tag))
    | some (h, b) =>
      if lockedSec s (hbmIndex b h / 64) then .next s
      else if !rafterOk s 0 (dieOfIdx (hbmIndex b h)) then .next (s.sendHost (.unsupported tag))
      else .next (hostRead s (hbmIndex b h) len tag (hdmPage h b))

/-- A host write within a sector (R307, R416): less than a sector is dropped when the sector is bad or of another scheme. -/
def hostWrite (s : State) (idx : Nat) (bs : List Byte) (p : Page) : State :=
  let s := { s with sec := { s.sec with touched := true } }
  if bs.length = 64 then storeSector s idx bs p
  else if sectorOk s (idx / 64) p then storeSector (checkedSector s (idx / 64) p) idx bs p
  else (s.countEvent (dieOfIdx idx) 0x0B 256 1).sendHost (.msix 1216)

/-- HOST_MEM_WRITE (R307, R398, R416). -/
def execHostMemWrite (hpa : BitVec 64) (data : List Byte) (s : State) : Out :=
  if s.hk.bring ≤ 3 then .next (s.sendHost (.unsupported hpa.toNat))
  else if !hostReady s || !inSector hpa.toNat data.length then .next s
  else
    match hdmTarget s hpa.toNat with
    | none => .next (s.sendHost (.unsupported hpa.toNat))
    | some (h, b) =>
      if lockedSec s (hbmIndex b h / 64) then .next s
      else if !rafterOk s 0 (dieOfIdx (hbmIndex b h)) then .next (s.sendHost (.unsupported hpa.toNat))
      else .next (hostWrite s (hbmIndex b h) data (hdmPage h b))

/-- BACK_INVALIDATE_RSP: the home stops tracking the sector, and what waits for it may be performed (R416). -/
def execBackInvalidateRsp (sector : Nat) (s : State) : Out :=
  if s.host.snooping.contains sector then
    .next { s with host := { s.host with tracked := s.host.tracked.filter (· != sector), snooping := s.host.snooping.filter (· != sector) } }
  else .next s

/-- HOST_WINDOW_RSP: the completion of a host-window access reaches whoever waits for it (R417). -/
def execHostWindowRsp (tag : Nat) (data : List Byte) (s : State) : Out :=
  match s.host.win.find? fun w => w.tag == tag with
  | none => .next s
  | some w =>
    let s := { s with host := { s.host with win := s.host.win.filter fun w => w.tag != tag } }
    .next (gangProgress (deliver s w.owner w.va (.data (if w.write then [] else data))))

/-! ### BAR0 and BAR2 (R415) -/

/-- Whether a BAR accepts an access: aligned, of 4 or 8 bytes, inside it. -/
def barOk (bar2 : Bool) (off n : Nat) : Bool := (n == 4 || n == 8) && off % n == 0 && off < (if bar2 then 0x10000 else 0x100000000)

/-- A byte of BAR2: the MSI-X table of 2,048 entries of 16 bytes, and the pending-bit array behind it at 0x8000 (log entry 20). -/
def bar2Byte (h : HostPort) (o : Nat) : Byte :=
  if o < 0x8000 then BitVec.ofNat 8 ((smGet msixReset (o / 16) h.msix).toNat / 2 ^ (8 * (o % 16)))
  else if o < 0x8100 then BitVec.ofNat 8 ((List.range 8).foldl (fun a i => a + (if h.pend.contains (8 * (o - 0x8000) + i) then 2 ^ i else 0)) 0)
  else 0

/-- A write of BAR2: table bytes change, the pending bits do not; a vector left unmasked with its pending bit set is signalled (R415). -/
def bar2Write (s : State) (off : Nat) (bs : List Byte) : State :=
  if 0x8000 ≤ off then s
  else
    let v := off / 16
    let old := leBytes 16 (smGet msixReset v s.host.msix).toNat
    let new : BitVec 128 := BitVec.ofNat 128 (leNat (putAt old (off % 16) bs))
    let s := { s with host := { s.host with msix := smSet msixReset v new s.host.msix } }
    if s.host.pend.contains v && !s.host.masked v then
      ({ s with host := { s.host with pend := s.host.pend.filter (· != v) } }).sendHost (.msix v)
    else s

/-- A host access to a BAR, once the link has trained (R415, R459): what a BAR does not accept completes as Unsupported Request. -/
def barAccess (s : State) : BarAcc → State
  | .read bar2 off len tag =>
    if s.hk.bring < 6 then s
    else if !barOk bar2 off len then s.sendHost (.unsupported tag)
    else if bar2 then s.sendHost (.readRsp tag ((List.range len).map fun i => bar2Byte s.host (off + i)) false)
    else
      let r := devAccess s off (.read len)
      r.2.sendHost (.readRsp tag r.1 false)
  | .write bar2 off bs =>
    if s.hk.bring < 6 then s
    else if !barOk bar2 off bs.length then s.sendHost (.unsupported off)
    else if bar2 then bar2Write s off bs
    else (devAccess s off (.write bs)).2

end Sys2Proof.Machine
end

