-- ==== Sys2Proof/Machine/Housekeeping.lean ====
section
/-! DEFINITION. Reset and what each kind keeps (R456-R458), bring-up and firmware (R459-R461), encryption and key slots (R463, R464), the security
alarm (R465), attestation (R466) and throttling (R467). -/

namespace Sys2Proof.Machine

/-! ### Reset -/

/-- What is outside the module already: messages sent before the reset. -/
def keepSent (old new : State) : State :=
  { new with
    fab := { new.fab with
      out := (old.fab.out.zipIdx.filter fun pi => !old.fab.stay.any fun e => e.1 == pi.2).map (·.1),
      ctl := old.fab.ctl, discarded := old.fab.discarded },
    host := { new.host with out := old.host.out }, freeIdx := old.freeIdx }

/-- A cold reset with LAST (R456, R457): every item of the table at its cold value. -/
def coldStart (s : State) (last : BitVec 2) : State :=
  keepSent s { State.reset with hk := { Hk.reset with last := last } }

/-- WARMS grown by one, saturating (R462). -/
def bumpWarms (w : BitVec 32) : BitVec 32 := if w = 0xFFFFFFFF then w else w + 1

/-- A warm reset (R456, R457): HBM with its sectors, counter blocks and trees stays under RETAIN; the spare-column map, the degraded marks (R230),
secctl.ENC, the alarm and the event counters stay; key slots are erased. -/
def warmStart (s : State) : State :=
  let keep := s.hk.retain
  keepSent s { State.reset with
    tiles := s.tiles.map fun x => { Tile.reset with columns := x.columns, degraded := x.degraded },
    hbm := if keep then s.hbm else [],
    sectors := if keep then s.sectors else [],
    pages := if keep then s.pages else [],
    sec := { Sec.reset with
      enc := s.sec.enc, encOn := s.sec.encOn && keep, touched := s.sec.touched, tamper := s.sec.tamper, glitch := s.sec.glitch,
      tree := s.sec.tree, roots := if keep then s.sec.roots else [] },
    ctrs := s.ctrs,
    hk := { Hk.reset with kept := keep, last := if keep then 2 else 1, warms := bumpWarms s.hk.warms, retain := keep } }

/-- POWER_ON: a cold reset (R456). -/
def execPowerOn (s : State) : Out := .next (coldStart s 0)
/-- COLD_RESET: rstctl CMD 2 (R456, R462). -/
def execColdReset (s : State) : Out := .next (coldStart s 0)
/-- WARM_RESET: rstctl CMD 1 (R456, R462). -/
def execWarmReset (s : State) : Out := .next (warmStart s)
/-- BOARD_RESET: the board controller's (R456). -/
def execBoardReset (warm : Bool) (s : State) : Out := .next (if warm then warmStart s else coldStart s 0)
/-- THERMAL_TRIP: at 115 °C, a cold reset with LAST 3 (R467). -/
def execThermalTrip (s : State) : Out := if 115 ≤ s.sec.temp.toNat then .next (coldStart s 3) else .next s

/-! ### Bring-up -/

/-- Whether the boot ROM accepts an image (R460): a whole header of version 1 and LEN bytes after it, the signature over the digest of header
bytes 0x00-0x7F, the digest of the code, and an SVN not below the fused minimum. The spec names no check of VERSION; a header of another one
has no layout (log entry 44). -/
def imageOk (f : FwImage) : Bool :=
  f.header.length == 256 && fwVersion f == 1 && fwLen f ≤ f.code.length && Config.sm2Verify (Config.sm3 (f.header.take 0x80)) (fwSig f) &&
  (Config.sm3 (fwCode f)).toNat == fwDigest f && Config.minSvn.toNat ≤ fwSvn f

/-- A core at the end of bring-up step 2 (R461): its service context starts in share mode at ENTRY, svvec holds ENTRY and svshare 0. -/
def bootCore (entry : Word64) (c : Core) : Core :=
  { c with v := { Core.reset.v with regs := { Regs.zero with pc := entry }, vec := entry } }

/-- Every service context of a tile started (R461). -/
def bootTile (entry : Word64) (x : Tile) : Tile :=
  { x with ld := bootCore entry x.ld, cp := bootCore entry x.cp, st := bootCore entry x.st }

/-- FIRMWARE_SUPPLY: in step 1 the boot ROM verifies the image; step 2 follows, or RECOVERY with a request for a new image (R459-R461). -/
def execFirmwareSupply (f : FwImage) (s : State) : Out :=
  if s.hk.bring ≠ 1 then .next s
  else if imageOk f then
    .next { s with
      tiles := s.tiles.map (bootTile (fwEntry f)),
      hk := { s.hk with bring := 3, recovery := false, fw := some { f with code := fwCode f }, fwMem := [] } }
  else .next (State.sendHost { s with hk := { s.hk with recovery := true } } .imageRequest)

/-- BRING_UP_STEP_COMPLETE: step 3, 4 or 5 finishes (R459); step 4 also ends the initialisation that a kept ENC needs (R463); with step 5 the
host programs its decoders (R415). -/
def execBringUpStepComplete (s : State) : Out :=
  match s.hk.bring with
  | 3 => .next { s with hk := { s.hk with bring := 4 } }
  | 4 => .next { s with hk := { s.hk with bring := 5 }, sec := { s.sec with encOn := s.sec.enc } }
  | 5 => .next (State.bump { s with hk := { s.hk with bring := 6 }, host := { s.host with hdm := Config.freeHdm s.freeIdx } })
  | _ => .next s

/-- PURLIN_TRAIN: a port trains once modnum is written and 4 ms have passed since the reset began (R458, R459). -/
def execPurlinTrain (p : PortId) (s : State) : Out :=
  if 6 ≤ s.hk.bring && s.fab.modset && nsUnits 4000000 ≤ s.time.clk - s.hk.resetAt && !portUp s p then
    let s := updLend s p.val fun _ => { Lend.reset with since := (s.tile 0).cycle }
    .next { s with fab := { s.fab with portup := s.fab.portup ||| (1 : BitVec 48) <<< p.val } }
  else .next s

/-! ### Encryption and keys -/

/-- ENC_INIT: a write of 1 to secctl.ENC starts the initialisation: every counter block 0 and in its tree (R462, R463). -/
def execEncInit (s : State) : Out :=
  if s.sec.touched then .next s
  else
    .next { s with sec := { s.sec with enc := true, encOn := false, roots := [], vouched := [] }, pages := [] }

/-- ENC_INIT_DONE: ENCON reads 1 (R463). -/
def execEncInitDone (s : State) : Out :=
  if s.sec.enc && 5 ≤ s.hk.bring then .next { s with sec := { s.sec with encOn := true } } else .next s

/-- The module with a key slot changed. -/
def updKey (s : State) (k : Fin 64) (f : KeySlot → KeySlot) : State :=
  { s with sec := { s.sec with keys := smSet KeySlot.reset k.val (f (smGet KeySlot.reset k.val s.sec.keys)) s.sec.keys } }

/-- A write of kload (R464): refused with ERR under ALARM or without ENC, else in progress. -/
def keyCommand (s : State) (k : Fin 64) (off : BitVec 64) : State :=
  if k.val = 0 then s
  else if alarmOn s.sec || !s.sec.enc then updKey s k fun x => { x with err := true }
  else updKey s k fun x => { x with busy := true, next := some off }

/-- KEY_LOAD (R464). -/
def execKeyLoad (k : Fin 64) (off : BitVec 64) (s : State) : Out := .next (keyCommand s k (off &&& ~~~63))
/-- KEY_CLEAR (R464). -/
def execKeyClear (k : Fin 64) (s : State) : Out := .next (keyCommand s k 0)

/-- Bytes at an HBM offset read by the module's own logic under the die-local policy (R278, R464, R466): beyond HBM and in the metadata of
encryption ACCESS, as for a walker (R288; log entry 44). -/
def ownRead (s : State) (off n : Nat) : HomeRes (List Byte) :=
  if hbmBytes < off + n ∨ carvedOut s false (off + n - 1) then .fault 0x10 s
  else
    let parts := homeParts off n
    match homesReady s parts with
    | some s => .wait s
    | none => homeReadN s (hdmPage off false) parts

/-- The end of a load or clear: the slot holds what was unwrapped, nothing, or what it held, with ERR (R464). -/
def keyEnd (s : State) (k : Fin 64) (r : Option (Option (BitVec 256))) : State :=
  updKey s k fun x =>
    match r with
    | some ks => { x with keys := ks, busy := false, err := if ks.isSome then false else x.err, next := none }
    | none => { x with busy := false, err := true, next := none }

/-- KEY_DONE: a load or clear takes effect (R464). -/
def execKeyDone (k : Fin 64) (s : State) : Out :=
  match (smGet KeySlot.reset k.val s.sec.keys).next with
  | none => .next s
  | some off =>
    if alarmOn s.sec then .next (keyEnd s k none)
    else if off = 0 then .next (keyEnd s k (some none))
    else
      match ownRead s off.toNat 128 with
      | .wait s => .next s
      | .fault _ s => .next (keyEnd s k none)
      | .ok bs s => .next (keyEnd s k ((Config.sm2Unwrap bs).map some))

/-- SECURITY_ALARM: an alarm input (R465). -/
def execSecurityAlarm (c : AlarmCause) (s : State) : Out := .next (raiseAlarm s c)

/-! ### Attestation -/

/-- ATTEST_REQUEST: a write of attreq, ignored while BUSY (R466). -/
def execAttestRequest (off : BitVec 64) (s : State) : Out :=
  if s.sec.attBusy then .next s
  else .next { s with sec := { s.sec with attBusy := true, attDone := false, attOff := off &&& ~~~63 } }

/-- The slots that are full, as bits (R466). -/
def fullSlots (s : State) : Nat :=
  (List.range 64).foldl (fun a k => a + (if (smGet KeySlot.reset k s.sec.keys).keys.isSome then 2 ^ k else 0)) 0

/-- Bytes 0x00-0xBF of the attestation buffer (R466). -/
def attestBody (s : State) (nonce : List Byte) : List Byte :=
  let f := s.hk.fw
  leBytes 2 1 ++ leBytes 2 s.fab.modnum.toNat ++ leBytes 2 ((f.map fwSvn).getD 0) ++
  leBytes 2 (ofBool (s.sec.enc && s.sec.encOn) + ofBool (alarmOn s.sec) * 2) ++ leBytes 8 s.ns ++ zeros 16 ++ nonce ++
  leBytes 32 ((f.map fwDigest).getD 0) ++ leBytes 8 (fullSlots s) ++ zeros 88

/-- The whole buffer, signed (R466). -/
def attestBuffer (s : State) (nonce : List Byte) : List Byte :=
  let b := attestBody s nonce
  b ++ leBytes 64 (Config.sm2Sign (Config.sm3 b)).toNat

/-- The end of an attestation: DONE when the buffer was filled. -/
def attestEnd (s : State) (done : Bool) : State := { s with sec := { s.sec with attBusy := false, attDone := done } }

/-- ATTEST_DONE: firmware fills and signs the buffer (R466). -/
def execAttestDone (s : State) : Out :=
  let off := s.sec.attOff.toNat
  if !s.sec.attBusy then .next s
  else
    match ownRead s off 256 with
    | .wait s => .next s
    | .fault _ s => .next (attestEnd s false)
    | .ok bs s1 =>
      match homeWriteN s1 (hdmPage off false) (attestBuffer s1 ((bs.drop 0x20).take 32)) (homeParts off 256) with
      | .ok _ s => .next (attestEnd s true)
      | .fault _ s => .next (attestEnd s false)
      | .wait s => .next s

/-! ### Power -/

/-- The throttle step after an interval (R467). -/
def nextStep (step : BitVec 4) (above : Bool) : BitVec 4 :=
  if above then (if step.toNat < 8 then step + 1 else 8) else if step = 0 then 0 else step - 1

/-- Whether a millisecond has passed since STEP was last decided (R467). -/
def throttleDue (s : State) : Bool := nsUnits 1000000 ≤ s.time.clk - s.sec.stepAt

/-- What the power logic makes due (R467): a decision on STEP each millisecond, with the readings of POWER and TEMP then (free), and the thermal
trip at 115 °C. -/
def powerTurns (s : State) : List Turn :=
  let r := Config.freeWord s.freeIdx
  (if throttleDue s then [.power (r.setWidth 16) ((r >>> 16).setWidth 16)] else []) ++
  (if 115 ≤ s.sec.temp.toNat then [.event .thermalTrip] else [])

/-- THROTTLE_TICK: each 1 ms, with the readings of POWER and TEMP (R467). -/
def execThrottleTick (power : BitVec 16) (temp : BitVec 16) (s : State) : Out :=
  if throttleDue s then
    .next { s with sec := { s.sec with
      power := power, temp := temp, stepAt := s.time.clk,
      step := nextStep s.sec.step (decide (s.sec.cap.toNat < power.toNat) || decide (105 ≤ temp.toNat)) } }
  else .next s

end Sys2Proof.Machine
end

