-- ==== Sys2Proof/Machine/Service.lean ====
section
/-! DEFINITION. The index spaces through which firmware reads and writes a stopped tile (R376, R377), and IDLE with its wake events (R378). -/

namespace Sys2Proof.Machine

/-- The index of a state access (R376). -/
def svIndex (s : State) (a : GSrc) (imm : BitVec 32) : Nat := (s.src a + imm.setWidth 64).toNat

/-- A state access (R376): ILLEGAL in share mode or alone, then for an index outside the space, then a stall until DRAINED. -/
def svAccess (s : State) (k : Nat) (inSpace : Bool) (f : Flow) : Flow :=
  if s.myCore.v.mode ≠ .entered then illegal 0
  else if !inSpace then illegal (BitVec.ofNat 32 k)
  else if !s.me.drain.drained then .stall .other
  else f

/-! ### Queues and tags -/

/-- Whether an index lies in SAVEQ's space (R377). -/
def queueSpace (k : Nat) : Bool := (k < 48 && k % 8 ≤ 4) || (0x100 ≤ k && k < 0x1100)

/-- A queue number of the space. -/
def queueNo (k : Nat) : Fin 6 := ⟨k / 8 % 6, Nat.mod_lt _ (by decide)⟩

/-- Four tokens of a queue, those beyond COUNT reading 0 (R377). -/
def tokenDword (q : TokQ) (w : Nat) : Word64 :=
  BitVec.ofNat 64 ((List.range 4).foldl
    (fun a j => a + (if 4 * w + j < q.count.toNat then (q.ents.toList.getD (4 * w + j) 0).toNat else 0) * 2 ^ (16 * j)) 0)

/-- The status doubleword of a queue (R377). -/
def queueStatus (q : TokQ) : Word64 :=
  BitVec.ofNat 64
    (q.count.toNat + q.ceil.toNat * 256 + q.reserved % 32 * 65536 + ofBool q.closed * 2 ^ 24 + ofBool q.endMark.isSome * 2 ^ 25 +
      (q.endMark.getD 0).toNat * 2 ^ 32)

/-- A doubleword of SAVEQ's space. -/
def saveqVal (x : Tile) (k : Nat) : Word64 :=
  if 0x100 ≤ k then smGet 0 (k - 0x100) x.store.tags
  else if k % 8 = 4 then queueStatus (x.queue (queueNo k))
  else tokenDword (x.queue (queueNo k)) (k % 8)

/-- SAVEQ (R376, R377). -/
def execSaveq (d : Fin 32) (a : GSrc) (imm : BitVec 32) (sy : Sync) (s : State) : Out :=
  run (.saveq d a imm sy)
    (fun s => let k := svIndex s a imm; svAccess s k (queueSpace k) (ok (s.writeG d (saveqVal s.me k)))) s

/-- Four entries of a queue written. -/
def putTokens (q : TokQ) (w : Nat) (v : Word64) : TokQ :=
  { q with ents := Vector.ofFn fun i => if i.val / 4 = w then BitVec.ofNat 16 (v.toNat / 2 ^ (16 * (i.val % 4))) else q.ents[i.val]'i.isLt }

/-- Whether a status doubleword may be written (R377). -/
def statusOk (v : Word64) : Bool := v.toNat % 32 ≤ 16 && v.toNat / 256 % 32 ≤ 16 && v.toNat % 32 ≤ v.toNat / 256 % 32

/-- A status doubleword written (R377). -/
def putStatus (q : TokQ) (v : Word64) : TokQ :=
  { q with
    count := v.setWidth 5, ceil := (v >>> 8).setWidth 5, closed := v.getLsbD 24, fresh := 0, freed := 0, ords := [], freshEnd := false,
    endMark := if v.getLsbD 25 then some ((v >>> 32).setWidth 12) else none }

/-- A doubleword of SAVEQ's space written. -/
def loadqPut (x : Tile) (k : Nat) (v : Word64) : Tile :=
  if 0x100 ≤ k then { x with store := { x.store with tags := smSet 0 (k - 0x100) (v &&& 0x8FFFFFFFFFFFFFFF) x.store.tags } }
  else
    let q := x.queue (queueNo k)
    x.setQueue (queueNo k) (if k % 8 = 4 then putStatus q v else putTokens q (k % 8) v)

/-- LOADQ (R376, R377). -/
def execLoadq (a : GSrc) (imm : BitVec 32) (c : GSrc) (sy : Sync) (s : State) : Out :=
  run (.loadq a imm c sy)
    (fun s =>
      let k := svIndex s a imm
      let v := s.src c
      svAccess s k (queueSpace k) (if k < 48 ∧ k % 8 = 4 ∧ !statusOk v then illegal 0 else ok (s.setMe (loadqPut s.me k v)))) s

/-! ### The in-flight table -/

/-- INFLRD (R376, R377). -/
def execInflrd (d : Fin 32) (a : GSrc) (imm : BitVec 32) (sy : Sync) (s : State) : Out :=
  run (.inflrd d a imm sy)
    (fun s => let k := svIndex s a imm; svAccess s k (k < 1024) (ok (s.writeG d (smGet 0 k s.me.store.infl)))) s

/-- The acting tile with its store replaced. -/
def State.setStore (s : State) (st : Store) : State := s.setMe { s.me with store := st }

/-- INFLWR (R376, R377). -/
def execInflwr (a : GSrc) (imm : BitVec 32) (c : GSrc) (sy : Sync) (s : State) : Out :=
  run (.inflwr a imm c sy)
    (fun s =>
      let k := svIndex s a imm
      let st := s.me.store
      svAccess s k (k < 1024) (ok (s.setStore { st with infl := smSet 0 k (s.src c) st.infl }))) s

/-! ### The mask stack -/

/-- A doubleword of STKSAVE's space. -/
def stkVal (st : Store) (k : Nat) : Word64 :=
  if k = 128 then st.depth.setWidth 64 else (st.mask.toList.getD (k / 8) 0 >>> (64 * (k % 8))).setWidth 64

/-- STKSAVE (R376, R377). -/
def execStksave (d : Fin 32) (a : GSrc) (imm : BitVec 32) (sy : Sync) (s : State) : Out :=
  run (.stksave d a imm sy)
    (fun s => let k := svIndex s a imm; svAccess s k (k ≤ 128) (ok (s.writeG d (stkVal s.me.store k)))) s

/-- A word of `w` bits with its doubleword `i` replaced. -/
def putDword (w : Nat) (x : BitVec w) (i : Nat) (v : Word64) : BitVec w :=
  (x &&& ~~~((BitVec.allOnes 64).setWidth w <<< (64 * i))) ||| (v.setWidth w <<< (64 * i))

/-- A doubleword of the mask stack written. -/
def stkPut (st : Store) (k : Nat) (v : Word64) : Store :=
  if k = 128 then { st with depth := v.setWidth 5 }
  else { st with mask := Vector.ofFn fun m => let x := st.mask[m.val]'m.isLt; if m.val = k / 8 then putDword 512 x (k % 8) v else x }

/-- STKLOAD (R376, R377); a depth above 16 is refused. -/
def execStkload (a : GSrc) (imm : BitVec 32) (c : GSrc) (sy : Sync) (s : State) : Out :=
  run (.stkload a imm c sy)
    (fun s =>
      let k := svIndex s a imm
      let v := s.src c
      svAccess s k (k ≤ 128) (if k = 128 ∧ 16 < v.toNat then illegal 0 else ok (s.setStore (stkPut s.me.store k v)))) s

/-! ### Nest registers, accumulators and vector registers -/

/-- Whether an index lies in NESTRD's space (R377). -/
def nestSpace (k : Nat) : Bool :=
  k ≤ 4 || (8 ≤ k && k ≤ 19) || (0x10000 ≤ k && k < 0x10000 + 131072) || (0x40000 ≤ k && k < 0x40000 + 4096)

/-- The tile and the first element number of an accumulator index (R377). -/
def accIndex (k : Nat) : Nat × Nat := ((k - 0x10000) / 16384, 2 * ((k - 0x10000) % 16384))

/-- Whether an index names an accumulator pair. -/
def isAccIndex (k : Nat) : Bool := 0x10000 ≤ k && k < 0x10000 + 131072

/-- A doubleword of NESTRD's space. -/
def nestVal (st : Store) (k : Nat) : Word64 :=
  if k < 20 then st.shadow.toList.getD k 0
  else if isAccIndex k then
    let (t, e) := accIndex k
    BitVec.ofNat 64 (st.accElem t e + st.accElem t (e + 1) * 2 ^ 32)
  else (st.v.toList.getD ((k - 0x40000) / 64) 0 >>> (64 * ((k - 0x40000) % 64))).setWidth 64

/-- MEM_UNCORRECTED of an accumulator row that NESTRD reads (R218, R384). -/
def nestReadTrap (st : Store) (k : Nat) : Option Flow :=
  if isAccIndex k then
    let (t, e) := accIndex k
    (st.badRow t [e / 256]).map fun r =>
      let f := accFault t r
      .trap { cause := f.cause, info := f.info, akind := f.akind, addr := f.addr }
  else none

/-- NESTRD (R376, R377). -/
def execNestrd (d : Fin 32) (a : GSrc) (imm : BitVec 32) (sy : Sync) (s : State) : Out :=
  run (.nestrd d a imm sy)
    (fun s =>
      let k := svIndex s a imm
      svAccess s k (nestSpace k) ((nestReadTrap s.me.store k).getD (ok (s.writeG d (nestVal s.me.store k))))) s

/-- A doubleword of NESTRD's space written. -/
def nestPut (st : Store) (k : Nat) (v : Word64) : Store :=
  if k < 20 then { st with shadow := Vector.ofFn fun i => if i.val = k then v else st.shadow[i.val]'i.isLt }
  else if isAccIndex k then
    let (t, e) := accIndex k
    (st.setAccElem t e (v.toNat % 2 ^ 32)).setAccElem t (e + 1) (v.toNat / 2 ^ 32)
  else
    { st with v := Vector.ofFn fun r =>
        let x := st.v[r.val]'r.isLt
        if r.val = (k - 0x40000) / 64 then putDword 4096 x ((k - 0x40000) % 64) v else x }

/-- NESTWR (R376, R377). -/
def execNestwr (a : GSrc) (imm : BitVec 32) (c : GSrc) (sy : Sync) (s : State) : Out :=
  run (.nestwr a imm c sy)
    (fun s => let k := svIndex s a imm; svAccess s k (nestSpace k) (ok (s.setStore (nestPut s.me.store k (s.src c))))) s

/-! ### IDLE (R378) -/

/-- IDLE: the context stops until an event wakes it, which writes its destination and moves it on. -/
def execIdle (d : Fin 32) (a : GSrc) (sy : Sync) (s : State) : Out :=
  run (.idle d a sy)
    (fun s =>
      let c := s.myCore
      if c.v.mode = .alone then illegal 0
      else .raw (retire (s.setMyCore { c with v := { c.v with idle := some (s.src a, d) } }))) s

/-- SERVICE_DOORBELL: a write to a tile's doorbell wakes its IDLEs with 3 (R378). -/
def execServiceDoorbell (t : TileId) (s : State) : Out := .next (s.setTile t (wakeTile (s.tile t) 3))

/-- Whether module time has reached the limit of an IDLE (R378). -/
def idleDue (s : State) (c : Core) : Bool := match c.v.idle with | some (lim, _) => lim != 0 && lim.toNat ≤ s.ns | none => false

/-- IDLE_TIME_WAKE: module time reaching an IDLE's limit wakes it with 1 (R378). -/
def execIdleTimeWake (t : TileId) (st : Stream) (s : State) : Out :=
  let x := s.tile t
  let c := x.core st
  if idleDue s c then .next (s.setTile t (x.setCore st { c with v := wakeIdle c.v 1 })) else .next s

end Sys2Proof.Machine
end

