-- ==== Sys2Proof/Machine/TimeUnit.lean ====
section
/-! DEFINITION. The time unit's events (R420-R422): offset measurements, the loss of lock, the growth of the uncertainty, tmctl, and the 1PPS
pulses. -/

namespace Sys2Proof.Machine

/-- The time unit replaced; a record whose half DELTA the uncertainty now exceeds asks for the fallback (R428). -/
def setTime (s : State) (u : TimeUnit) : State := fallbackCheck { s with time := u }

/-- tmctl.EN. -/
def timeEnabled (u : TimeUnit) : Bool := u.tmctl.getLsbD 0

/-- One second in clock units. -/
def secUnits : Nat := 1000000000 * unitsPerNs

/-- An offset within 50 ns (R421). -/
def near50 (o : Int) : Bool := decide (-50 ≤ o) && decide (o ≤ 50)

/-- U in HOLDOVER: 50 ns and 10 ns for each second started since LOCKED was left (R421). -/
def holdoverUnc (u : TimeUnit) : BitVec 32 := BitVec.ofNat 32 (min 0xFFFFFFFF (50 + 10 * ((u.clk - u.leftAt) / secUnits + 1)))

/-- LOCKED is left for HOLDOVER (R421). -/
def toHoldover (u : TimeUnit) : TimeUnit := let u := { u with state := 2, good := 0, leftAt := u.clk }; { u with unc := holdoverUnc u }

/-- FREERUN (R421, R422). -/
def toFreerun (u : TimeUnit) : TimeUnit := { u with state := 0, unc := 0xFFFFFFFF, good := 0, deferred := none, slew := 0, secs := none }

/-- A correction in ns is slewed (R421). -/
def slewBy (u : TimeUnit) (o : Int) : TimeUnit := { u with slew := -o * unitsPerNs }

/-- A lock (R421): the first after FREERUN steps module time to the grandmaster's, once no record is armed; any other slews. -/
def lock (u : TimeUnit) (armed : Bool) (master : Nat) (o : Int) : TimeUnit :=
  let v := { u with state := 1, unc := 50, good := 8, everLocked := true }
  if u.state ≠ 0 then slewBy v o
  else
    let d : Int := master - (u.now / unitsPerNs : Nat)
    if armed then { v with deferred := some d } else stepTime v d

/-- An offset measurement (R421). -/
def takeMeasure (u : TimeUnit) (armed : Bool) (master : Nat) (o : Int) : TimeUnit :=
  if u.state = 1 then slewBy (if near50 o then u else toHoldover u) o
  else
    let u := { u with good := if near50 o then u.good + 1 else 0 }
    if 8 ≤ u.good then lock u armed master o else if u.state = 2 then slewBy u o else u

/-- tmctl.PPSIN. -/
def ppsPhase (u : TimeUnit) : Bool := u.tmctl.getLsbD 2

/-- The whole seconds of an offset, to the nearest (R420). -/
def wholeSecs (o : Int) : Int := (o + 500000000) / 1000000000

/-- A valid Sync and Follow_Up pair (R420, R421): an offset measurement, or with PPSIN set only the second's number for the next pulse. -/
def takePair (u : TimeUnit) (armed : Bool) (master : Nat) (o : Int) : TimeUnit :=
  let u := { u with lastSync := u.clk }
  if ppsPhase u then { u with secs := some (wholeSecs o) } else takeMeasure u armed master o

/-- PTP_SYNC: a valid Sync and Follow_Up pair, with the grandmaster's time and the measured offset, both in ns. -/
def execPtpSync (master : Nat) (offset : Int) (s : State) : Out :=
  .next (if timeEnabled s.time then setTime s (takePair s.time (!s.gang.ridges.isEmpty) master offset) else s)

/-- Whether LOCKED is over: 4 s without a valid pair (R421). -/
def holdoverDue (u : TimeUnit) : Bool := u.state == 1 && u.lastSync + 4 * secUnits ≤ u.clk

/-- HOLDOVER_TIMEOUT (R421). -/
def execHoldoverTimeout (s : State) : Out := .next (if holdoverDue s.time then setTime s (toHoldover s.time) else s)

/-- Whether another second of HOLDOVER has started (R421). -/
def uncertaintyDue (u : TimeUnit) : Bool := u.state == 2 && u.unc != holdoverUnc u

/-- UNCERTAINTY_TICK: each second started in HOLDOVER (R421). -/
def execUncertaintyTick (s : State) : Out :=
  .next (if uncertaintyDue s.time then setTime s { s.time with unc := holdoverUnc s.time } else s)

/-- TMCTL_WRITE (R422): EN = 0 gives FREERUN. -/
def execTmctlWrite (v : BitVec 64) (s : State) : Out :=
  let u := { s.time with tmctl := (tmctlNew (s.time.tmctl.setWidth 64) v).setWidth 24 }
  .next (setTime s (if timeEnabled u then u else toFreerun u))

/-- PPS_IN: with PPSIN set, the pulse's offset from the whole second is the phase of an offset measurement whose seconds PTP has given (R420,
R421). -/
def execPpsIn (offset : Int) (s : State) : Out :=
  match s.time.secs with
  | some n =>
    let o := n * 1000000000 + offset
    .next (if timeEnabled s.time && ppsPhase s.time then
        setTime s (takeMeasure s.time (!s.gang.ridges.isEmpty) ((s.time.now / unitsPerNs : Nat) - o).toNat o)
      else s)
  | none => .next s

/-- The second and the nanosecond in it. -/
def inSecond (s : State) : Nat × Nat := (s.ns / 1000000000, s.ns % 1000000000)

/-- Whether the 1PPS output is due to rise: at a whole second, while PPSOUT is set (R420). -/
def ppsRise (s : State) : Bool :=
  let (sec, ns) := inSecond s
  s.time.tmctl.getLsbD 3 && !s.time.pps && s.time.ppsNext ≤ sec && ns < 100000000

/-- PPS_OUT (R420). -/
def execPpsOut (s : State) : Out :=
  if ppsRise s then
    .next ({ s with time := { s.time with pps := true, ppsNext := (inSecond s).1 + 1 } }.sendHost (.ptpLevel true))
  else .next s

/-- Whether the 1PPS output is due to fall: 100 ms after the whole second (R420). -/
def ppsFall (s : State) : Bool :=
  let (sec, ns) := inSecond s
  s.time.pps && (s.time.ppsNext ≤ sec || 100000000 ≤ ns)

/-- PPS_OUT_END (R420). -/
def execPpsOutEnd (s : State) : Out :=
  if ppsFall s then .next ({ s with time := { s.time with pps := false } }.sendHost (.ptpLevel false)) else .next s

/-- What the time unit makes due (R420, R421). -/
def timeTurns (s : State) : List Turn :=
  (if holdoverDue s.time then [Turn.event .holdoverTimeout] else []) ++ (if uncertaintyDue s.time then [Turn.event .uncertaintyTick] else []) ++
  (if ppsRise s then [Turn.event .ppsOut] else []) ++ (if ppsFall s then [Turn.event .ppsOutEnd] else [])

end Sys2Proof.Machine
end

