-- ==== Sys2Proof/Machine/Dispatch.lean ====
section
/-! DEFINITION. One arm per constructor of Instr: a direct call of its meaning, or its refusal by name. -/

namespace Sys2Proof.Machine

/-- What a step of the machine does (spec/opcode_table.json). -/
def exec (i : Instr) (s : State) : Host.Outcome State Fault Refusal :=
  match i with
  | .nop sy => Sys2Proof.Machine.execNop sy s
  | .add o sy => Sys2Proof.Machine.execAdd o sy s
  | .sub o sy => Sys2Proof.Machine.execSub o sy s
  | .mul o sy => Sys2Proof.Machine.execMul o sy s
  | .mulh v o sy => Sys2Proof.Machine.execMulh v o sy s
  | .div signed o sy => Sys2Proof.Machine.execDiv signed o sy s
  | .rem signed o sy => Sys2Proof.Machine.execRem signed o sy s
  | .and o sy => Sys2Proof.Machine.execAnd o sy s
  | .or o sy => Sys2Proof.Machine.execOr o sy s
  | .xor o sy => Sys2Proof.Machine.execXor o sy s
  | .andn o sy => Sys2Proof.Machine.execAndn o sy s
  | .shl o sy => Sys2Proof.Machine.execShl o sy s
  | .shr signed o sy => Sys2Proof.Machine.execShr signed o sy s
  | .rot o sy => Sys2Proof.Machine.execRot o sy s
  | .min signed o sy => Sys2Proof.Machine.execMin signed o sy s
  | .max signed o sy => Sys2Proof.Machine.execMax signed o sy s
  | .clz w d a sy => Sys2Proof.Machine.execClz w d a sy s
  | .popc w d a sy => Sys2Proof.Machine.execPopc w d a sy s
  | .bfx signed w d a pos len sy => Sys2Proof.Machine.execBfx signed w d a pos len sy s
  | .bfi w d a b pos len sy => Sys2Proof.Machine.execBfi w d a b pos len sy s
  | .movi v w d a imm sy => Sys2Proof.Machine.execMovi v w d a imm sy s
  | .sel p o sy => Sys2Proof.Machine.execSel p o sy s
  | .lea d f sy => Sys2Proof.Machine.execLea d f sy s
  | .cmp c w d a b sy => Sys2Proof.Machine.execCmp c w d a b sy s
  | .plog d a b c table sy => Sys2Proof.Machine.execPlog d a b c table sy s
  | .madd o c sy => Sys2Proof.Machine.execMadd o c sy s
  | .ctlrd d num sy => Sys2Proof.Machine.execCtlrd d num sy s
  | .ctlwr num b sy => Sys2Proof.Machine.execCtlwr num b sy s
  | .br neg p imm sy => Sys2Proof.Machine.execBr neg p imm sy s
  | .jmp a imm sy => Sys2Proof.Machine.execJmp a imm sy s
  | .call d f sy => Sys2Proof.Machine.execCall d f sy s
  | .ret a sy => Sys2Proof.Machine.execRet a sy s
  | .loop lc x n sy => Sys2Proof.Machine.execLoop lc x n sy s
  | .exit v sy => Sys2Proof.Machine.execExit v sy s
  | .svcall code sy => Sys2Proof.Machine.execSvcall code sy s
  | .waitf c idle dw acq sc d a b m sy => Sys2Proof.Machine.execWaitf c idle dw acq sc d a b m sy s
  | .tkget d sy => Sys2Proof.Machine.execTkget d sy s
  | .tkput q nb b sy => Sys2Proof.Machine.execTkput q nb b sy s
  | .tkprime q nb ty v count sy => Sys2Proof.Machine.execTkprime q nb ty v count sy s
  | .tklevel d out second sy => Sys2Proof.Machine.execTklevel d out second sy s
  | .ld signed w d m sy => Sys2Proof.Machine.execLd signed w d m sy s
  | .st w m c sy => Sys2Proof.Machine.execSt w m c sy s
  | .ldg signed w o sc d m sy => Sys2Proof.Machine.execLdg signed w o sc d m sy s
  | .stg w o sc m c sy => Sys2Proof.Machine.execStg w o sc m c sy s
  | .atom op dw o sc d m c sy => Sys2Proof.Machine.execAtom op dw o sc d m c sy s
  | .acas dw o sc d a b c imm sy => Sys2Proof.Machine.execAcas dw o sc d a b c imm sy s
  | .fence o sc sy => Sys2Proof.Machine.execFence o sc sy s
  | .xfence o sc core engine sy => Sys2Proof.Machine.execXfence o sc core engine sy s
  | .dld x sy => Sys2Proof.Machine.execDld x sy s
  | .dldx x sy => Sys2Proof.Machine.execDldx x sy s
  | .dcpy x sy => Sys2Proof.Machine.execDcpy x sy s
  | .rget x sy => Sys2Proof.Machine.execRget x sy s
  | .dpf ch base imm ver sy => Sys2Proof.Machine.execDpf ch base imm ver sy s
  | .tlook d p a sy => Sys2Proof.Machine.execTlook d p a sy s
  | .tins d a b c sy => Sys2Proof.Machine.execTins d a b c sy s
  | .tdel d p a sy => Sys2Proof.Machine.execTdel d p a sy s
  | .feedpop try_ d a sy => Sys2Proof.Machine.execFeedpop try_ d a sy s
  | .feedpeek d a b sy => Sys2Proof.Machine.execFeedpeek d a b sy s
  | .chwm d ch sy => Sys2Proof.Machine.execChwm d ch sy s
  | .chwait ch f sy => Sys2Proof.Machine.execChwait ch f sy s
  | .cfence mask sy => Sys2Proof.Machine.execCfence mask sy s
  | .chstat d ch sy => Sys2Proof.Machine.execChstat d ch sy s
  | .chcan d ch sy => Sys2Proof.Machine.execChcan d ch sy s
  | .dst x fl sy => Sys2Proof.Machine.execDst x fl sy s
  | .dstx x fl sy => Sys2Proof.Machine.execDstx x fl sy s
  | .dred x fl sy => Sys2Proof.Machine.execDred x fl sy s
  | .rput x fl sy => Sys2Proof.Machine.execRput x fl sy s
  | .rflag ch add sc a b sy => Sys2Proof.Machine.execRflag ch add sc a b sy s
  | .enq reseal p q sy => Sys2Proof.Machine.execEnq reseal p q sy s
  | .dstl x sy => Sys2Proof.Machine.execDstl x sy s
  | .dfill x sy => Sys2Proof.Machine.execDfill x sy s
  | .vld n d m sy => Sys2Proof.Machine.execVld n d m sy s
  | .vst n m c sy => Sys2Proof.Machine.execVst n m c sy s
  | .vldx t n d a b sh sy => Sys2Proof.Machine.execVldx t n d a b sh sy s
  | .vstx t n a b c sh sy => Sys2Proof.Machine.execVstx t n a b c sh sy s
  | .vsplat t n d b sy => Sys2Proof.Machine.execVsplat t n d b sy s
  | .vext t n d a b sy => Sys2Proof.Machine.execVext t n d a b sy s
  | .vins t n d a b sy => Sys2Proof.Machine.execVins t n d a b sy s
  | .vmov n d a sy => Sys2Proof.Machine.execVmov n d a sy s
  | .vadd o sy => Sys2Proof.Machine.execVadd o sy s
  | .vsub o sy => Sys2Proof.Machine.execVsub o sy s
  | .vmul o sy => Sys2Proof.Machine.execVmul o sy s
  | .vmulh o sy => Sys2Proof.Machine.execVmulh o sy s
  | .vmadd o c sy => Sys2Proof.Machine.execVmadd o c sy s
  | .vadds o sy => Sys2Proof.Machine.execVadds o sy s
  | .vsubs o sy => Sys2Proof.Machine.execVsubs o sy s
  | .vabsd o sy => Sys2Proof.Machine.execVabsd o sy s
  | .vmin o sy => Sys2Proof.Machine.execVmin o sy s
  | .vmax o sy => Sys2Proof.Machine.execVmax o sy s
  | .vand o sy => Sys2Proof.Machine.execVand o sy s
  | .vor o sy => Sys2Proof.Machine.execVor o sy s
  | .vxor o sy => Sys2Proof.Machine.execVxor o sy s
  | .vshl o sy => Sys2Proof.Machine.execVshl o sy s
  | .vshr o sy => Sys2Proof.Machine.execVshr o sy s
  | .vclz o sy => Sys2Proof.Machine.execVclz o sy s
  | .vpopc o sy => Sys2Proof.Machine.execVpopc o sy s
  | .vcmp c o sy => Sys2Proof.Machine.execVcmp c o sy s
  | .vsel o c sy => Sys2Proof.Machine.execVsel o c sy s
  | .vdot4 sa sb sat n d a b sy => Sys2Proof.Machine.execVdot4 sa sb sat n d a b sy s
  | .vdot8 sa sb sat n d a b sy => Sys2Proof.Machine.execVdot8 sa sb sat n d a b sy s
  | .vidx t n d b sy => Sys2Proof.Machine.execVidx t n d b sy s
  | .vfadd r o sy => Sys2Proof.Machine.execVfadd r o sy s
  | .vfsub r o sy => Sys2Proof.Machine.execVfsub r o sy s
  | .vfmul r o sy => Sys2Proof.Machine.execVfmul r o sy s
  | .vfma r o c sy => Sys2Proof.Machine.execVfma r o c sy s
  | .vfmin o sy => Sys2Proof.Machine.execVfmin o sy s
  | .vfmax o sy => Sys2Proof.Machine.execVfmax o sy s
  | .vfdiv r o sy => Sys2Proof.Machine.execVfdiv r o sy s
  | .vfsqrt r o sy => Sys2Proof.Machine.execVfsqrt r o sy s
  | .vfrcp r o sy => Sys2Proof.Machine.execVfrcp r o sy s
  | .vfrsq r o sy => Sys2Proof.Machine.execVfrsq r o sy s
  | .vfexp2 r o sy => Sys2Proof.Machine.execVfexp2 r o sy s
  | .vflog2 r o sy => Sys2Proof.Machine.execVflog2 r o sy s
  | .vftanh r o sy => Sys2Proof.Machine.execVftanh r o sy s
  | .vfcmp c o sy => Sys2Proof.Machine.execVfcmp c o sy s
  | .vfclass o sy => Sys2Proof.Machine.execVfclass o sy s
  | .vfabs neg o sy => Sys2Proof.Machine.execVfabs neg o sy s
  | .vcvt sat dst src r n d a sy => Sys2Proof.Machine.execVcvt sat dst src r n d a sy s
  | .vwiden dst src n d a sy => Sys2Proof.Machine.execVwiden dst src n d a sy s
  | .vnarrow sat dst src n d a sy => Sys2Proof.Machine.execVnarrow sat dst src n d a sy s
  | .vscale r o sy => Sys2Proof.Machine.execVscale r o sy s
  | .vbscale dq narrow wide r n d a s_ sy => Sys2Proof.Machine.execVbscale dq narrow wide r n d a s_ sy s
  | .vperm t n d a b sy => Sys2Proof.Machine.execVperm t n d a b sy s
  | .vslide up t n d a b sy => Sys2Proof.Machine.execVslide up t n d a b sy s
  | .vzip t n d a b sy => Sys2Proof.Machine.execVzip t n d a b sy s
  | .vunzip t n d a sy => Sys2Proof.Machine.execVunzip t n d a sy s
  | .vred op wide acc r o sy => Sys2Proof.Machine.execVred op wide acc r o sy s
  | .vscan op r o sy => Sys2Proof.Machine.execVscan op r o sy s
  | .vcompr o sy => Sys2Proof.Machine.execVcompr o sy s
  | .vexpnd o sy => Sys2Proof.Machine.execVexpnd o sy s
  | .vmpush n a sy => Sys2Proof.Machine.execVmpush n a sy s
  | .vminv sy => Sys2Proof.Machine.execVminv sy s
  | .vmpop sy => Sys2Proof.Machine.execVmpop sy s
  | .vmget f sy => Sys2Proof.Machine.execVmget f sy s
  | .vmset push a sy => Sys2Proof.Machine.execVmset push a sy s
  | .brmz imm sy => Sys2Proof.Machine.execBrmz imm sy s
  | .vmcnt d n sy => Sys2Proof.Machine.execVmcnt d n sy s
  | .mcfg reg v sy => Sys2Proof.Machine.execMcfg reg v sy s
  | .mgo sy => Sys2Proof.Machine.execMgo sy s
  | .mzero mask sy => Sys2Proof.Machine.execMzero mask sy s
  | .mout dst r sat d a b imm sy => Sys2Proof.Machine.execMout dst r sat d a b imm sy s
  | .mget n d a e sy => Sys2Proof.Machine.execMget n d a e sy s
  | .mput f32 add n d a e sy => Sys2Proof.Machine.execMput f32 add n d a e sy s
  | .mstat d residue sy => Sys2Proof.Machine.execMstat d residue sy s
  | .msync sy => Sys2Proof.Machine.execMsync sy s
  | .svret v sy => Sys2Proof.Machine.execSvret v sy s
  | .saveq d a imm sy => Sys2Proof.Machine.execSaveq d a imm sy s
  | .loadq a imm c sy => Sys2Proof.Machine.execLoadq a imm c sy s
  | .inflrd d a imm sy => Sys2Proof.Machine.execInflrd d a imm sy s
  | .inflwr a imm c sy => Sys2Proof.Machine.execInflwr a imm c sy s
  | .idle d a sy => Sys2Proof.Machine.execIdle d a sy s
  | .stksave d a imm sy => Sys2Proof.Machine.execStksave d a imm sy s
  | .stkload a imm c sy => Sys2Proof.Machine.execStkload a imm c sy s
  | .nestrd d a imm sy => Sys2Proof.Machine.execNestrd d a imm sy s
  | .nestwr a imm c sy => Sys2Proof.Machine.execNestwr a imm c sy s
  | .taskPlace die => Sys2Proof.Machine.execTaskPlace die s
  | .taskStart t => Sys2Proof.Machine.execTaskStart t s
  | .tokenDeadlock t => Sys2Proof.Machine.execTokenDeadlock t s
  | .hang t => Sys2Proof.Machine.execHang t s
  | .drainComplete t => Sys2Proof.Machine.execDrainComplete t s
  | .nestStart t => Sys2Proof.Machine.execNestStart t s
  | .nestStep t residue => Sys2Proof.Machine.execNestStep t residue s
  | .moutRow t => Sys2Proof.Machine.execMoutRow t s
  | .transferStart t st ch => Sys2Proof.Machine.execTransferStart t st ch s
  | .pieceComplete t st ch piece => Sys2Proof.Machine.execPieceComplete t st ch piece s
  | .transferFlag t st ch => Sys2Proof.Machine.execTransferFlag t st ch s
  | .cfenceRetire t ord => Sys2Proof.Machine.execCfenceRetire t ord s
  | .mdaWindow t st ch window => Sys2Proof.Machine.execMdaWindow t st ch window s
  | .homeAccess idx => Sys2Proof.Machine.execHomeAccess idx s
  | .qnotify q => Sys2Proof.Machine.execQnotify q s
  | .packetTake q => Sys2Proof.Machine.execPacketTake q s
  | .packetStart id => Sys2Proof.Machine.execPacketStart id s
  | .packetComplete id => Sys2Proof.Machine.execPacketComplete id s
  | .feedPush id => Sys2Proof.Machine.execFeedPush id s
  | .phaseComplete id => Sys2Proof.Machine.execPhaseComplete id s
  | .queueEnable q v => Sys2Proof.Machine.execQueueEnable q v s
  | .queueDisable q => Sys2Proof.Machine.execQueueDisable q s
  | .jobPreempt j => Sys2Proof.Machine.execJobPreempt j s
  | .jobResume j => Sys2Proof.Machine.execJobResume j s
  | .savedTaskPlace t => Sys2Proof.Machine.execSavedTaskPlace t s
  | .jxinv j => Sys2Proof.Machine.execJxinv j s
  | .jxinvDone j => Sys2Proof.Machine.execJxinvDone j s
  | .serviceDoorbell t => Sys2Proof.Machine.execServiceDoorbell t s
  | .idleTimeWake t st => Sys2Proof.Machine.execIdleTimeWake t st s
  | .registerWrite off four v => Sys2Proof.Machine.execRegisterWrite off four v s
  | .tmctlWrite v => Sys2Proof.Machine.execTmctlWrite v s
  | .purlinRead p => Sys2Proof.Machine.execPurlinRead p s
  | .purlinWrite p => Sys2Proof.Machine.execPurlinWrite p s
  | .purlinAtomic p => Sys2Proof.Machine.execPurlinAtomic p s
  | .purlinCombine p => Sys2Proof.Machine.execPurlinCombine p s
  | .purlinMaquette p => Sys2Proof.Machine.execPurlinMaquette p s
  | .readRsp p => Sys2Proof.Machine.execReadRsp p s
  | .ack p => Sys2Proof.Machine.execAck p s
  | .atomicRsp p => Sys2Proof.Machine.execAtomicRsp p s
  | .nack p => Sys2Proof.Machine.execNack p s
  | .retransmit k seq => Sys2Proof.Machine.execRetransmit k seq s
  | .fabricTimeout k seq => Sys2Proof.Machine.execFabricTimeout k seq s
  | .requestDiscard idx => Sys2Proof.Machine.execRequestDiscard idx s
  | .replayStateFree die smod sch => Sys2Proof.Machine.execReplayStateFree die smod sch s
  | .waitfPoll t st => Sys2Proof.Machine.execWaitfPoll t st s
  | .rafterLinkDown l => Sys2Proof.Machine.execRafterLinkDown l s
  | .purlinPortDown p => Sys2Proof.Machine.execPurlinPortDown p s
  | .creditInterval p => Sys2Proof.Machine.execCreditInterval p s
  | .limitFlit p epoch limits => Sys2Proof.Machine.execLimitFlit p epoch limits s
  | .limitAck p epoch => Sys2Proof.Machine.execLimitAck p epoch s
  | .gangArm p => Sys2Proof.Machine.execGangArm p s
  | .quiesce g => Sys2Proof.Machine.execQuiesce g s
  | .firstDecision g => Sys2Proof.Machine.execFirstDecision g s
  | .gangDecide p => Sys2Proof.Machine.execGangDecide p s
  | .ridgeAction g => Sys2Proof.Machine.execRidgeAction g s
  | .gangVerdict p => Sys2Proof.Machine.execGangVerdict p s
  | .secondDecision g => Sys2Proof.Machine.execSecondDecision g s
  | .gangFallback p => Sys2Proof.Machine.execGangFallback p s
  | .gangReady p => Sys2Proof.Machine.execGangReady p s
  | .gangGo p => Sys2Proof.Machine.execGangGo p s
  | .gangQuery p => Sys2Proof.Machine.execGangQuery p s
  | .queryResend g => Sys2Proof.Machine.execQueryResend g s
  | .fallbackTimeout g => Sys2Proof.Machine.execFallbackTimeout g s
  | .undecided g => Sys2Proof.Machine.execUndecided g s
  | .decisionExpire g => Sys2Proof.Machine.execDecisionExpire g s
  | .ptpSync master offset => Sys2Proof.Machine.execPtpSync master offset s
  | .holdoverTimeout => Sys2Proof.Machine.execHoldoverTimeout s
  | .uncertaintyTick => Sys2Proof.Machine.execUncertaintyTick s
  | .ppsIn offset => Sys2Proof.Machine.execPpsIn offset s
  | .ppsOut => Sys2Proof.Machine.execPpsOut s
  | .ppsOutEnd => Sys2Proof.Machine.execPpsOutEnd s
  | .hostMemRead hpa len tag => Sys2Proof.Machine.execHostMemRead hpa len tag s
  | .hostMemWrite hpa data => Sys2Proof.Machine.execHostMemWrite hpa data s
  | .backInvalidateRsp sector => Sys2Proof.Machine.execBackInvalidateRsp sector s
  | .hostWindowRsp tag data => Sys2Proof.Machine.execHostWindowRsp tag data s
  | .powerOn => Sys2Proof.Machine.execPowerOn s
  | .coldReset => Sys2Proof.Machine.execColdReset s
  | .warmReset => Sys2Proof.Machine.execWarmReset s
  | .boardReset warm => Sys2Proof.Machine.execBoardReset warm s
  | .thermalTrip => Sys2Proof.Machine.execThermalTrip s
  | .firmwareSupply f => Sys2Proof.Machine.execFirmwareSupply f s
  | .purlinTrain p => Sys2Proof.Machine.execPurlinTrain p s
  | .encInit => Sys2Proof.Machine.execEncInit s
  | .encInitDone => Sys2Proof.Machine.execEncInitDone s
  | .keyLoad k off => Sys2Proof.Machine.execKeyLoad k off s
  | .keyClear k => Sys2Proof.Machine.execKeyClear k s
  | .keyDone k => Sys2Proof.Machine.execKeyDone k s
  | .securityAlarm c => Sys2Proof.Machine.execSecurityAlarm c s
  | .attestRequest off => Sys2Proof.Machine.execAttestRequest off s
  | .attestDone => Sys2Proof.Machine.execAttestDone s
  | .throttleTick power temp => Sys2Proof.Machine.execThrottleTick power temp s
  | .bringUpStepComplete => Sys2Proof.Machine.execBringUpStepComplete s
  | .purlinPacketDiscard p => Sys2Proof.Machine.execPurlinPacketDiscard p s

end Sys2Proof.Machine
end

