-- ==== Sys2Proof/Machine/Crypt.lean ====
section
/-! DEFINITION. What the stacks hold of an encrypted page (R288, R289): the ciphertext, the authentication code and the counter block of the
plaintext, keys and counters in State. Nothing outside a home sees these bytes (R284, R288); a home decrypts what it encrypted, so State
keeps the plaintext (log entry 45). -/

namespace Sys2Proof.Machine

/-- The data key and the integrity key of a slot's keys, in the order of a wrapped record (R464). -/
def dataKey (k : BitVec 256) : BitVec 128 := k.setWidth 128
/-- The integrity key (R464). -/
def integrityKey (k : BitVec 256) : BitVec 128 := (k >>> 128).setWidth 128

/-- The counter block of 16-byte block `j` of a sector (R289): stack, sector offset, major, minor and j, from bit 0 up (log entry 45).
-/
def cipherCounter (sec : Nat) (major : BitVec 64) (minor : BitVec 7) (j : Nat) : BitVec 128 :=
  let stack := sec * 64 / stackBytes
  BitVec.ofNat 128
    (stack % 32 + (sec * 64 % stackBytes / 64) % 2 ^ 30 * 2 ^ 5 + major.toNat * 2 ^ 35 + minor.toNat * 2 ^ 99 + j % 4 * 2 ^ 106)

/-- The bytes that SM4 in counter mode under the data key gives for a sector (R289). -/
def keystream (sec : Nat) (c : PageCtr) (keys : BitVec 256) : List Byte :=
  (List.range 4).flatMap fun j => leBytes 16 (Config.sm4 (dataKey keys) (cipherCounter sec c.major (c.minor sec) j)).toNat

/-- Plaintext to ciphertext, and back (R289). -/
def xorBytes (a b : List Byte) : List Byte := (a.zip b).map fun p => p.1 ^^^ p.2

/-- The ciphertext of a sector (R289). -/
def ciphertext (s : State) (sec : Nat) (keys : BitVec 256) : List Byte := xorBytes (memRead s.hbm (64 * sec) 64) (keystream sec (ctrsOf s sec) keys)

/-- HMAC with SM3 (R289): the usual construction over 64-byte blocks. -/
def hmacSm3 (key : BitVec 128) (m : List Byte) : BitVec 256 :=
  let pad := fun (b : Nat) => (leBytes 16 key.toNat ++ zeros 48).map fun x => x ^^^ BitVec.ofNat 8 b
  Config.sm3 (pad 0x5C ++ leBytes 32 (Config.sm3 (pad 0x36 ++ m)).toNat)

/-- The authentication code over the ciphertext of a sector (R289): the first 56 bits over it, the sector's address, major and minor
(their bytes: log entry 45). -/
def authCode (sec : Nat) (c : PageCtr) (keys : BitVec 256) (bs : List Byte) : BitVec 56 :=
  (hmacSm3 (integrityKey keys) (bs ++ leBytes 8 (64 * sec) ++ leBytes 8 c.major.toNat ++ leBytes 1 (c.minor sec).toNat)).setWidth 56

/-- Where the metadata of the page at stack offset `o` lies in its stack (R288). -/
def metaOffset (o : Nat) : Nat := 48318382080 + o / 4096 * 256

/-- Bytes 0-63 of a page's metadata (R288): the major counter, then the 64 minor counters of 7 bits. -/
def counterBlock (c : PageCtr) : List Byte :=
  leBytes 8 c.major.toNat ++ leBytes 56 ((List.range 64).foldl (fun a k => a + (c.minor k).toNat * 2 ^ (7 * k)) 0)

end Sys2Proof.Machine
end

