-- ==== Sys2Proof/Machine/Phys.lean ====
section
/-! DEFINITION. Errors of the stores and links (R218, R230, R284, R286, R287, R290, R350, R468, R469): what each does to the module and which
counter counts it. That they happen, and when, is the free schedule's (log entry 45). -/

namespace Sys2Proof.Machine

/-- The bits of a sector of tolerant format `tfmt` that its check bytes protect (R287), for the bit number in the sector. -/
def protectedBit (tfmt bit : Nat) : Bool :=
  match tfmt with
  | 0 => bit % 4 != 0
  | 1 => 2 ≤ bit % 8
  | 2 => 7 ≤ bit % 16
  | 3 => 10 ≤ bit % 16
  | 4 => 23 ≤ bit % 32
  | _ => true

/-- The module with a sector changed. -/
def updSector (s : State) (sec : Nat) (f : Sector → Sector) : State :=
  if sec * 64 < hbmBytes then { s with sectors := smSet Sector.fresh sec (f (smGet Sector.fresh sec s.sectors)) s.sectors } else s

/-- A sector whose bytes and code have become others that its check bytes take for right (R284): the data is what they give; in an encrypted page, if
the code does not fail (R289, R290). -/
def otherData (s : State) (sec : Nat) (bs : List Byte) (code : BitVec 56) : State :=
  let e := smGet Sector.fresh sec s.sectors
  let put := fun (bs : List Byte) => updSector { s with hbm := memWrite s.hbm (64 * sec) bs } sec fun e => { e with err := 0 }
  if bs.length ≠ 64 ∨ hbmBytes ≤ sec * 64 then s
  else if e.scheme ≠ 2 then put bs
  else if code = authCode sec (ctrsOf s sec) e.tag bs then put (xorBytes bs (keystream sec (ctrsOf s sec) e.tag))
  else updSector s sec fun e => { e with err := 3 }

/-- A tile with the error marks of a scratchpad word changed (R469). -/
def spadErr (s : State) (t : TileId) (w : Nat) (bad soft : Bool) : State :=
  let x := s.tile t
  let st := x.store
  if 4 * w < spadBytes then
    s.setTile t { x with store := { st with
      spadBad := (if bad then [w] else []) ++ st.spadBad.filter (· != w), spadSoft := (if soft then [w] else []) ++ st.spadSoft.filter (· != w) } }
  else s

/-- A scratchpad word that has become another one, which its check bits take for right. -/
def spadOther (s : State) (t : TileId) (w : Nat) (v : BitVec 32) : State :=
  let s := spadErr s t w false false
  let x := s.tile t
  if 4 * w < spadBytes then s.setTile t { x with store := spadWrite x.store (4 * w) (leBytes 4 v.toNat) } else s

/-- An uncorrectable error inside an MDA (R350): the operation that streams there stops with MAQUETTE ARRAY at its next piece, which is not
performed; the record names the window's address. -/
def arrayBad (s : State) (pl : Place) (ch : Fin 8) : State :=
  match chanHead s pl ch with
  | none => s
  | some o =>
    if o.maq = [] ∨ o.info.fault.isSome ∨ !o.started then s
    else
      match (o.pieces (s.tile pl.t).store).zipIdx.find? fun pi => !o.isDone pi.2 pi.1 && pi.1.els != [] && pi.1.stop.isNone with
      | none => s
      | some (p, _) =>
        match pageOfPiece s pl o p with
        | none => s
        | some g =>
          match targetOf s g.pa with
          | .hbm h =>
            let w := 64 * p.mw
            opFault s pl o (maqFault o 7 (stackOf g.striped h).1 (BitVec.ofNat 64 (p.first.bit / 8 / w * w)))
          | _ => s

/-- What an error or a replay does. -/
def physStep (s : State) : PhysEv → State
  | .hbmErr sec n => updSector s sec fun e => { e with err := max e.err n }
  | .hbmOther sec bs code => otherData s sec bs code
  | .hbmLoose idx b =>
    let e := smGet Sector.fresh (idx / 64) s.sectors
    if idx < hbmBytes ∧ e.scheme = 1 ∧ !protectedBit e.tfmt.toNat (8 * (idx % 64) + b.val) then
      { s with hbm := memSet s.hbm idx (memGet s.hbm idx ^^^ (1 : Byte) <<< b.val) }
    else s
  | .ctrOther page major minors =>
    if page * 4096 < hbmBytes then
      { s with pages := smSet PageCtr.fresh page { smGet PageCtr.fresh page s.pages with major := major, minors := minors } s.pages }
    else s
  | .spadSoft t w =>
    let st := (s.tile t).store
    let two := st.spadBad.contains w || st.spadSoft.contains w
    spadErr s t w two !two
  | .spadBad t w => spadErr s t w true false
  | .spadOther t w v => spadOther s t w v
  | .accSoft t => countTile s t 0x03
  | .accBad t r =>
    let x := s.tile t
    if r < 1024 ∧ !x.store.accBad.contains r then s.setTile t { x with store := { x.store with accBad := r :: x.store.accBad } } else s
  | .mdaSoft st => if st < 24 then s.countEvent (st / 2) 0x06 (st % 2) 1 else s
  | .mdaBad t st ch => arrayBad s ⟨t, st⟩ ch
  | .rafterReplay d peer => if d ≠ peer then s.countEvent d.val 0x07 peer.val 1 else s
  | .purlinReplay p => s.countEvent (p.val / 4) 0x08 (p.val % 4) 1
  | .undegrade t => s.setTile t { s.tile t with degraded := false }

end Sys2Proof.Machine
end

