-- ==== Sys2Proof/Machine/Turn.lean ====
section
/-! DEFINITION. The turns of the machine: a core's turn to issue, with the share of a service context (R160) and the traps of one clock (R361);
the end of a clock, with what streams that had no slot stand stopped on (R157, R158); and what each clock makes due. -/

namespace Sys2Proof.Machine

/-! ### A core's turn -/

/-- Fetch, decode and execution for a context whose turn it is. -/
def attempt (s : State) (t : TileId) (st : Stream) (k : CtxKind) : Out :=
  match prepare s t st k with
  | .over s' => .next s'
  | .go i s' => exec i s'

/-- Whether the service context of a core takes the slot of its user context (R160): in share mode beside a task with 256 of credit, not in an
IDLE, with no user instruction that holds the core, and with an instruction able to issue. -/
def serviceTakes (s : State) (t : TileId) (st : Stream) : Bool :=
  let x := s.tile t
  let c := x.core st
  c.v.mode == .share && x.task.isSome && c.v.idle.isNone && 256 ≤ c.v.credit && !c.issued && !holdsCore c .user && !c.stopped &&
  (match attempt s t st .service with
   | .next s' => ((s'.tile t).core st).issued || holdsCore ((s'.tile t).core st) .service || s'.disp.nofit.contains t.val
   | _ => false)

/-- A turn of the clock in which another stream of the tile has trapped counts only when it traps too, with a record of its own (R361): any
other instruction has not issued. An SVCALL joins the drain and keeps its PEER record. -/
def lateTurn (s : State) (t : TileId) (st : Stream) : Out → Out
  | .next s' =>
    let c := (s'.tile t).core st
    let had := s.setTile t ((s.tile t).setCore st { (s.tile t).core st with tried := true })
    .next (if c.v.mode = .entered ∧ c.v.trec.valid ∧ !c.v.trec.peer ∧ c.v.trec.cause ≠ 0x3F then
      s'.setTile t ((s'.tile t).setCore st { c with tried := true }) else had)
  | o => o

/-- The end of a turn (R364). -/
def endTurn (t : TileId) (st : Stream) : Out → Out
  | .next s => .next (afterTurn s t st)
  | o => o

/-- A core's turn. -/
def coreTurn (s : State) (t : TileId) (st : Stream) (k : CtxKind) : Out :=
  let x := s.tile t
  match k with
  | .service => endTurn t st (attempt s t st .service)
  | .user =>
    if mayTrapToo x (x.core st) then lateTurn s t st (attempt s t st .user)
    else if serviceTakes s t st then endTurn t st (attempt s t st .service)
    else endTurn t st (attempt s t st .user)

/-! ### The end of a clock -/

/-- Whether a stall is one of those that block a stream (R157, R319). -/
def Stall.blocks : Stall → Bool
  | .wait _ | .post _ | .spad | .blocked => true
  | _ => false

/-- Whether a user stream has had no turn in this clock that says what it is stopped on: it is live and unstopped, and its service context, in
share mode, may have taken the slot. -/
def unasked (x : Tile) (c : Core) : Bool :=
  x.task.isSome && c.u.life == .live && c.v.mode == .share && !c.stopped && !c.tried

/-- A core as its user context would find it had its service context issued nothing: no slot taken, and nothing held (R158). -/
def Core.alone (c : Core) : Core :=
  { c with issued := false, remote := c.remote.filter fun r => r.ctx == .user, v := { c.v with held := false } }

/-- What a stream without a turn is stopped on (R157, R158): found by an attempt on a copy that is thrown away; only a blocking stop is kept. -/
def askStream (s : State) (t : TileId) (st : Stream) : State :=
  let x := s.tile t
  let c := x.core st
  if !unasked x c then s
  else
    match attempt (s.setTile t (x.setCore st c.alone)) t st .user with
    | .next s' =>
      let d := (s'.tile t).core st
      if d.tried && !d.issued && d.v.mode == .share && d.stall.any Stall.blocks then
        s.setTile t (x.setCore st { c with stall := d.stall, tried := true })
      else s
    | _ => s

/-- Every stream of a tile asked. -/
def askTile (s : State) (t : TileId) : State :=
  if (s.tile t).task.isNone then s else askStream (askStream (askStream s t .load) t .compute) t .store

/-- Every stream of the module asked. -/
def askAll (s : State) : State := (List.finRange 192).foldl askTile s

/-! ### What a clock makes due -/

/-- What is due at a tile: TOKEN_DEADLOCK (R158), HANG (R383), the time wakes of its service contexts (R378), the polls of its WAITFs (R410), and
the placing of a saved task (R379). -/
def tileTurns (s : State) (t : TileId) : List Turn :=
  let x := s.tile t
  let each := fun (f : Stream → Bool) (e : Stream → Instr) => ([.load, .compute, .store].filter f).map fun st => Turn.event (e st)
  (if deadlockDue x then [.event (.tokenDeadlock t)] else []) ++ (if hangDue x then [.event (.hang t)] else []) ++
  each (fun st => idleDue s (x.core st)) (.idleTimeWake t) ++ each (fun st => pollDue s t st) (.waitfPoll t) ++
  (if x.task.isNone && (savedFor s t.val).isSome then [.event (.savedTaskPlace t)] else [])

/-- What is due on the fabric: attempts, resolutions, discards, replay states and intervals (R403, R405-R407, R412). -/
def fabricTurns (s : State) : List Turn :=
  let key := fun (r : FabReq) => FabKey.mk r.pkt.sch r.pkt.dmod
  ((s.fab.reqs.filter (resendDue s)).map fun r => Turn.event (.retransmit (key r) r.pkt.seq)) ++
  ((s.fab.reqs.filter (timeoutDue s)).map fun r => Turn.event (.fabricTimeout (key r) r.pkt.seq)) ++
  (((s.fab.homeq.zipIdx.filter fun hi => hi.1.held.isNone && tooOld s hi.1).map fun hi => Turn.event (.requestDiscard hi.2)).reverse) ++
  ((s.fab.replay.filter (replayDue s)).map fun r => Turn.event (.replayStateFree r.die r.smod r.sch)) ++
  (((List.finRange 48).filter (intervalDue s)).map fun p => Turn.event (.creditInterval p))

/-- The dies at which a ready task can be placed on an idle tile (R257, R260). -/
def placeTurns (s : State) : List Turn :=
  if s.disp.pkts = [] then []
  else ((List.finRange 12).filter fun d => (idleTileOf s d).isSome && !(readyQueues s d.val).isEmpty).map fun d => Turn.event (.taskPlace d)

/-- Everything that a clock makes due, in the order in which it is done. -/
def dueTurns (s : State) : List Turn :=
  (List.finRange 192).flatMap (tileTurns s) ++ gangTurns s ++ timeTurns s ++ fabricTurns s ++ placeTurns s ++ powerTurns s

/-- The end of a clock: the streams that had no slot are asked what stops them, the clock passes, and what it makes due comes next. -/
def clockTurn (s : State) : State :=
  let s := tick (askAll s)
  { s with agenda := dueTurns s ++ s.agenda, freeIdx := s.freeIdx + 1 }

/-! ### Turns -/

/-- The flits of a gang-time message from another module count at the port it arrives at (R412). -/
def countGang (s : State) (p : Packet) : State := if delivered s p 13 && p.smod != s.fab.modnum then receive s p else s

/-- What the arrival of an event's packet adds to its meaning. -/
def beforeEvent (s : State) : Instr → State
  | .gangArm p => countGang s p
  | .gangDecide p => countGang s p
  | .gangVerdict p => countGang s p
  | .gangFallback p => countGang s p
  | .gangReady p => countGang s p
  | .gangGo p => countGang s p
  | .gangQuery p => countGang s p
  | _ => s

/-- A turn: a core issues; an event happens; a clock passes; a cached entry is evicted; an error, a host access or given-back room. -/
def runTurn (s : State) : Turn → Out
  | .tick => .next (clockTurn s)
  | .evictWord t st a => .next (evictWord s t st a)
  | .evictPage n => .next (evictPage s n)
  | .evictCtr page => .next { s with sec := { s.sec with vouched := s.sec.vouched.filter (· != page) } }
  | .event i => if (opOf i).isSome then .next s else exec i (beforeEvent s i)
  | .core t st k => coreTurn s t st k
  | .phys e => .next (physStep s e)
  | .bar a => .next (barAccess s a)
  | .room p v n => .next (giveRoom s p v n)
  | .power p t => execThrottleTick p t s

end Sys2Proof.Machine
end

