-- ==== Sys2Proof/Safety.lean ====
section
/-! DEFINITION. The terms the statements use: when an instruction passes every check before its own (steps 3 to 6 of R35 and the post check of
R113), what its acceptance makes of the state, what it leaves alone, and the canonical forms of the memories. -/

namespace Sys2Proof.Machine

/-- The state in which an instruction's operands are read: tv holds what its wait found (R37). -/
def State.withTv (s : State) (tv : Word64) : State := { s with cur := { s.cur with tv := tv } }

/-- The checks that every instruction passes before its own: class, encoding, wait, and room for its posts, `own` being those it makes beside
its SYNC field (R35, R51, R113). They read the state and the operands only. -/
structure Passes (i : Instr) (s : State) (tv : Word64) (own : List Post) : Prop where
  cls : classTrap s.cur.stream s.cur.ctx ((opOf i).getD 0).toNat (instrPriv i) = none
  enc : step5Ok s.cur.ctx i = true
  wait : waitRes s.me s.cur.stream (syncOf i).wait = .ok tv
  post : postCheck s.me s.cur.stream (own ++ syncPost s (syncOf i)) = .ok

/-- An accepted instruction's next state: its effect `s'`, the PC and the loops (R28), the pops, the posts, the end of the issue slot. -/
def passed (s s' : State) (sy : Sync) (posts : List Post) : State :=
  let u := keepUser s s'
  retire (accept (u.setRegs (loopNext u.regs u.regs.pc)) sy posts)

/-- An accepted control transfer's next state (R16, R86). -/
def jumped (s s' : State) (sy : Sync) (target : Word64) : State :=
  retire (accept (s'.setRegs { s'.regs with pc := target }) sy (syncPost s sy))

/-- An accepted asynchronous instruction's next state: its post is reserved, not made (R148). -/
def begun (s s' : State) (sy : Sync) : State :=
  let u := keepUser s s'
  let a := accept (u.setRegs (loopNext u.regs u.regs.pc)) { sy with post := none } []
  retire (a.setMe (reservePost a.me a.cur.stream (pendPost s sy)))

/-- Nothing outside the acting tile changes. HBM is compared byte by byte. -/
structure SameOutside (s t : State) : Prop where
  tiles : ∀ k, k ≠ s.cur.tile → t.tile k = s.tile k
  hbm : ∀ a, memGet t.hbm a = memGet s.hbm a
  sectors : t.sectors = s.sectors
  pages : t.pages = s.pages
  disp : t.disp = s.disp
  fab : t.fab = s.fab
  host : t.host = s.host
  time : t.time = s.time
  gang : t.gang = s.gang
  hk : t.hk = s.hk
  sec : t.sec = s.sec
  ctrs : t.ctrs = s.ctrs

/-- What an instruction leaves of the acting core beside the registers of its own context: the other context's registers, the stream's life,
exit value and watchdog exponent, the trap record and mode of the service context, and the rest it keeps. Only ctl.lost, which a post
may grow (R153), and the marks of the issue slot are not named. -/
structure SameCoreRest (k : CtxKind) (c d : Core) : Prop where
  other : ∀ l, l ≠ k → d.regs l = c.regs l
  wdog : d.u.wdog = c.u.wdog
  life : d.u.life = c.u.life
  exitVal : d.u.exitVal = c.u.exitVal
  mode : d.v.mode = c.v.mode
  trec : d.v.trec = c.v.trec
  vote : d.v.vote = c.v.vote
  share : d.v.share = c.v.share
  credit : k = .user → d.v.credit = c.v.credit
  vec : d.v.vec = c.v.vec
  idle : d.v.idle = c.v.idle
  ridge : d.v.ridge = c.v.ridge
  ic : d.ic = c.ic
  codes : d.codes = c.codes
  stopped : d.stopped = c.stopped
  pend : d.pend = c.pend

/-- What every instruction leaves of the acting tile beside its store, its engines and its queues: the other cores, the task and the drain. -/
structure SameTileRest (st : Stream) (x y : Tile) : Prop where
  cores : ∀ u, u ≠ st → y.core u = x.core u
  task : y.task = x.task
  drain : y.drain = x.drain
  blocked : y.blocked = x.blocked
  wcount : y.wcount = x.wcount
  cycle : y.cycle = x.cycle
  residues : y.residues = x.residues
  columns : y.columns = x.columns
  degraded : y.degraded = x.degraded

/-- The tokens moved by an accepted instruction: the heads of its wait leave, then its posts are made (R13, R72, R113). -/
def TokensMoved (s t : State) (sy : Sync) (posts : List Post) : Prop :=
  t.me.queues = (makePosts (popWait s.me s.cur.stream sy.wait) s.cur.stream posts).queues

/-- Same acting context, nothing but that context's registers, the acting tile's store, engines and queues may differ; a service context in share
mode beside a task has paid for its slot (R160). -/
structure SameRest (s t : State) : Prop where
  outside : SameOutside s t
  tile : SameTileRest s.cur.stream s.me t.me
  core : SameCoreRest s.cur.ctx s.myCore t.myCore
  cur : t.cur = { s.cur with tv := 0 }
  share : s.cur.ctx = .service → t.myCore.v.credit = (payShare s.me.task.isSome s.myCore.v).credit

/-- The frame of an instruction that changes registers of its context only: the tile's store (scratchpad, vector registers, mask stack,
accumulators, shadow nest registers, tag table) and its engines stay, and the tokens of its SYNC field move. -/
structure RegsOnly (s t : State) (sy : Sync) (posts : List Post) : Prop where
  rest : SameRest s t
  store : t.me.store = s.me.store
  eng : t.me.eng = s.me.eng
  tokens : TokensMoved s t sy posts

/-- The frame of an instruction that changes its context's registers and the tile's store, which is `x` after it. -/
structure StoreBecomes (s t : State) (sy : Sync) (posts : List Post) (x : Store) : Prop where
  rest : SameRest s t
  store : t.me.store = x
  eng : t.me.eng = s.me.eng
  tokens : TokensMoved s t sy posts

/-- The acting context may change the user's vector registers, mask stack, accumulators and nest registers: it is a user context, or a service
context that was entered or whose tile holds no task (R161). -/
def OwnsTileState (s : State) : Prop := ¬(s.cur.ctx = .service ∧ s.myCore.v.mode = .share ∧ s.me.task.isSome = true)

end Sys2Proof.Machine
end

