-- ==== Sys2Proof/Certificates/Slice0/Obligations.lean ====
section
/-! DEFINITION. The statements for the provers, family by family. A result statement says what the rules give, beside what the instruction
leaves (`RegsOnly` and its kin of Safety.lean); what an instruction needs is in hypotheses on the state and the operands alone. -/

open Sys2Proof Sys2Proof.Machine

namespace Sys2Proof.Machine

/-! ### Scalar results, written from R73-R84 on words of the operation's own width -/

/-- A w-bit result of R73 from its w-bit sources. -/
def ruleMulh (v : MulhVar) (w : Nat) (a b : BitVec w) : BitVec w :=
  match v with
  | .s => BitVec.ofInt w (a.toInt * b.toInt / 2 ^ w)
  | .z => BitVec.ofNat w (a.toNat * b.toNat / 2 ^ w)
  | .sz => BitVec.ofInt w (a.toInt * b.toNat / 2 ^ w)

/-- The quotient of R75. -/
def ruleDiv (sg : Bool) (w : Nat) (a b : BitVec w) : BitVec w :=
  if b = 0 then BitVec.allOnes w else if sg then a.sdiv b else a / b

/-- The remainder of R75. -/
def ruleRem (sg : Bool) (w : Nat) (a b : BitVec w) : BitVec w :=
  if b = 0 then a else if sg then a.srem b else a % b

/-- The rows of R73 with sources a and b: their operands and their w-bit result, n being b mod w. -/
def ruleAlu (i : Instr) (s : State) : Option (Alu × ((w : Nat) → BitVec w → BitVec w → BitVec w)) :=
  match i with
  | .add o _ => some (o, fun _ a b => a + b)
  | .sub o _ => some (o, fun _ a b => a - b)
  | .mul o _ => some (o, fun _ a b => a * b)
  | .mulh v o _ => some (o, ruleMulh v)
  | .div sg o _ => some (o, ruleDiv sg)
  | .rem sg o _ => some (o, ruleRem sg)
  | .and o _ => some (o, fun _ a b => a &&& b)
  | .or o _ => some (o, fun _ a b => a ||| b)
  | .xor o _ => some (o, fun _ a b => a ^^^ b)
  | .andn o _ => some (o, fun _ a b => a &&& ~~~b)
  | .shl o _ => some (o, fun w a b => a <<< (b.toNat % w))
  | .shr sg o _ => some (o, fun w a b => if sg then a.sshiftRight (b.toNat % w) else a >>> (b.toNat % w))
  | .rot o _ => some (o, fun w a b => a.rotateRight (b.toNat % w))
  | .min sg o _ => some (o, fun _ a b => if (if sg then b.slt a else b.ult a) then b else a)
  | .max sg o _ => some (o, fun _ a b => if (if sg then a.slt b else a.ult b) then b else a)
  | .sel p o _ => some (o, fun _ a b => if s.readP p then a else b)
  | .madd o c _ => some (o, fun w a b => a * b + (s.src c).setWidth w)
  | _ => none

/-- The rows of R73 that take one register or build an address: destination and 64-bit value (R76, R78, R80-R82). -/
def ruleOne (i : Instr) (s : State) : Option (Fin 32 × Word64) :=
  match i with
  | .clz w d a _ => some (d, (((s.src a).setWidth w.bits).clz).setWidth 64)
  | .popc w d a _ => some (d, BitVec.ofNat 64 ((List.range w.bits).countP fun k => (s.src a).getLsbD k))
  | .bfx sg w d a pos len _ =>
    let f := ((s.src a).setWidth w.bits).extractLsb' pos.toNat len.toNat
    some (d, ((if sg then f.signExtend w.bits else f.setWidth w.bits)).setWidth 64)
  | .bfi w d a b pos len _ =>
    some (d, BitVec.ofNat 64 ((List.range w.bits).foldl (fun n k =>
      n + 2 ^ k * (if (if pos.toNat ≤ k ∧ k < pos.toNat + len.toNat then (s.src a).getLsbD (k - pos.toNat)
                       else (s.src b).getLsbD k) then 1 else 0)) 0))
  | .movi v w d a imm _ =>
    some (d, match v with
      | .s => ((imm.signExtend 64).setWidth w.bits).setWidth 64
      | .z => (imm.setWidth w.bits).setWidth 64
      | .hi => imm ++ (s.src a).setWidth 32)
  | .lea d f _ =>
    some (d, match f with
      | .idx a b sh imm => s.src a + s.src b * 2 ^ sh.toNat + imm.signExtend 64
      | .off a imm => s.src a + imm.signExtend 64
      | .pcrel imm => s.pc + imm.signExtend 64)
  | _ => none

/-- The conditions of R83 on w-bit words. -/
def ruleCond (c : Cond) {w : Nat} (a b : BitVec w) : Bool :=
  match c with
  | .eq => a == b
  | .ne => a != b
  | .lt => a.slt b
  | .le => a.sle b
  | .gt => b.slt a
  | .ge => b.sle a
  | .lo => a.ult b
  | .ls => a.ule b
  | .hi => b.ult a
  | .hs => b.ule a
  | .tst => a &&& b != 0
  | .ntst => a &&& b == 0

end Sys2Proof.Machine

/-- R73, R74: ADD SUB MUL MULH DIV REM AND OR XOR ANDN SHL SHR ROT MIN MAX SEL MADD. The w-bit result of the row, zero-extended, is in g[D] of the
acting context (a write to g0 is discarded, R15); every other register, predicate, flag, loop count and control register of the context is
as the loop check leaves it, and nothing else of the module changes but the tokens of the SYNC field. -/
def Obligations.ScalarArithmeticResult : Prop :=
  ∀ (i : Instr) (s : State) (tv : Word64) (o : Alu) (f : (w : Nat) → BitVec w → BitVec w → BitVec w),
    Passes i s tv [] → ruleAlu i (s.withTv tv) = some (o, f) →
    ∃ t, exec i s = .next t ∧ RegsOnly s t (syncOf i) (syncPost s (syncOf i)) ∧
      t.regs = loopNext (s.regs.writeG o.d
        ((f o.w.bits (((s.withTv tv).src o.a).setWidth o.w.bits) (((s.withTv tv).srcS o.b).setWidth o.w.bits)).setWidth 64)) s.pc

/-- R76, R78, R80, R81, R82: CLZ POPC BFX BFI MOVI LEA: the value in g[D], and the same frame. -/
def Sys2Proof.Machine.ScalarUnaryAndAddressResult : Prop :=
  ∀ (i : Instr) (s : State) (tv : Word64) (d : Fin 32) (v : Word64),
    Passes i s tv [] → ruleOne i (s.withTv tv) = some (d, v) →
    ∃ t, exec i s = .next t ∧ RegsOnly s t (syncOf i) (syncPost s (syncOf i)) ∧ t.regs = loopNext (s.regs.writeG d v) s.pc

/-- R83, R84: CMP and PLOG write one predicate (a write to p0 is discarded) and no general register; NOP (R85), and the fences that order
accesses performed in order in this model of one module (XFENCE once the context has no unretired operation), change no register. -/
def Sys2Proof.Machine.PredicateResult : Prop :=
  (∀ (c : Cond) (w : Width) (d : Fin 8) (a : GSrc) (b : SrcLit) (sy : Sync) (s : State) (tv : Word64),
    Passes (.cmp c w d a b sy) s tv [] →
    ∃ t, exec (.cmp c w d a b sy) s = .next t ∧ RegsOnly s t sy (syncPost s sy) ∧
      t.regs = loopNext (s.regs.writeP d
        (ruleCond c (((s.withTv tv).src a).setWidth w.bits) (((s.withTv tv).srcS b).setWidth w.bits))) s.pc) ∧
  (∀ (d a b c : Fin 8) (table : BitVec 8) (sy : Sync) (s : State) (tv : Word64),
    Passes (.plog d a b c table sy) s tv [] →
    ∃ t, exec (.plog d a b c table sy) s = .next t ∧ RegsOnly s t sy (syncPost s sy) ∧
      t.regs = loopNext (s.regs.writeP d (table.getLsbD
        ((if s.readP a then 4 else 0) + (if s.readP b then 2 else 0) + (if s.readP c then 1 else 0)))) s.pc)

/-! ### Floating arithmetic, written from R116-R137 on codes and natural numbers -/

namespace Sys2Proof.Machine

/-- A floating format of R118: exponent bits, significand bits, bias, the largest finite value, whether it has infinities, and whether it has a single
NaN pattern of all ones instead. -/
structure RuleFmt where
  eb : Nat
  mb : Nat
  bias : Nat
  largest : Nat
  inf : Bool
  one : Bool

/-- .f32 in the table of R118. -/
def ruleF32 : RuleFmt := ⟨8, 23, 127, (2 ^ 24 - 1) * 2 ^ 104, true, false⟩

/-- The table of R118. -/
def ruleFmt : ElemType → Option RuleFmt
  | .e2m1 => some ⟨2, 1, 1, 6, false, false⟩
  | .e4m3 => some ⟨4, 3, 7, 448, false, true⟩
  | .e5m2 => some ⟨5, 2, 15, 57344, true, false⟩
  | .h16 => some ⟨5, 10, 15, 65504, true, false⟩
  | .bf16 => some ⟨8, 7, 127, (2 ^ 8 - 1) * 2 ^ 120, true, false⟩
  | .f32 => some ruleF32
  | _ => none

/-- The bits of a code. -/
def RuleFmt.width (f : RuleFmt) : Nat := 1 + f.eb + f.mb
/-- S. -/
def RuleFmt.neg (f : RuleFmt) (c : Nat) : Bool := c / 2 ^ (f.eb + f.mb) % 2 == 1
/-- E. -/
def RuleFmt.expo (f : RuleFmt) (c : Nat) : Nat := c / 2 ^ f.mb % 2 ^ f.eb
/-- M. -/
def RuleFmt.man (f : RuleFmt) (c : Nat) : Nat := c % 2 ^ f.mb
/-- The sign bit, in place. -/
def RuleFmt.signBit (f : RuleFmt) (neg : Bool) : Nat := if neg then 2 ^ (f.eb + f.mb) else 0
/-- The magnitude of a finite code, in units of 2^-149, of which every format's values are multiples. -/
def RuleFmt.mag (f : RuleFmt) (c : Nat) : Nat :=
  if f.expo c = 0 then f.man c * 2 ^ (150 - f.bias - f.mb) else (2 ^ f.mb + f.man c) * 2 ^ (149 + f.expo c - f.bias - f.mb)
/-- An infinity. -/
def RuleFmt.isInf (f : RuleFmt) (c : Nat) : Bool := f.inf && f.expo c == 2 ^ f.eb - 1 && f.man c == 0
/-- A NaN (R118, R120). -/
def RuleFmt.isNaN (f : RuleFmt) (c : Nat) : Bool :=
  f.expo c == 2 ^ f.eb - 1 && (f.inf && f.man c != 0 || f.one && f.man c == 2 ^ f.mb - 1)
/-- A signalling NaN (R120): its top significand bit is 0. -/
def RuleFmt.isSnan (f : RuleFmt) (c : Nat) : Bool := f.isNaN c && f.man c / 2 ^ (f.mb - 1) == 0
/-- Quiet (R120). -/
def RuleFmt.quiet (f : RuleFmt) (c : Nat) : Nat := if f.isSnan c then c + 2 ^ (f.mb - 1) else c
/-- The code of an infinity. -/
def RuleFmt.infCode (f : RuleFmt) (neg : Bool) : Nat := f.signBit neg + (2 ^ f.eb - 1) * 2 ^ f.mb
/-- CanonicalNaN (R120); .e2m1 gives +0 for it (R136, R129). -/
def RuleFmt.canon (f : RuleFmt) : Nat :=
  if f.inf then f.infCode false + 2 ^ (f.mb - 1) else if f.one then 2 ^ (f.eb + f.mb) - 1 else 0
/-- The exact value of a finite code, in units of 2^-149. -/
def RuleFmt.val (f : RuleFmt) (c : Nat) : Int := if f.neg c then -(f.mag c : Int) else f.mag c

/-- StochasticBits (R131). -/
def ruleStochastic (seed ctr idx : Nat) : Nat :=
  let z0 := (seed + ctr * 0x9E3779B97F4A7C15 + idx * 0xD1B54A32D192ED03) % 2 ^ 64
  let z1 := (z0 ^^^ z0 / 2 ^ 30) * 0xBF58476D1CE4E5B9 % 2 ^ 64
  let z2 := (z1 ^^^ z1 / 2 ^ 27) * 0x94D049BB133111EB % 2 ^ 64
  (z2 ^^^ z2 / 2 ^ 31) / 2 ^ 40

/-- The neighbour of `m`, a multiple of `q` or that plus q, which a mode chooses (R125, R133): modes 0 rne, 1 rtz, 2 rdn, 3 rup, 4 rna, 5 rsr (R126). -/
def ruleChoose (r : Rnd) (neg : Bool) (m q : Nat) : Nat :=
  let lo := m / q * q
  let hi := lo + q
  if m = lo then lo
  else if r.mode = 0 then (if 2 * (m - lo) < q then lo else if q < 2 * (m - lo) then hi else if lo / q % 2 = 0 then lo else hi)
  else if r.mode = 1 then lo
  else if r.mode = 2 then (if neg then hi else lo)
  else if r.mode = 3 then (if neg then lo else hi)
  else if r.mode = 4 then (if 2 * (m - lo) < q then lo else hi)
  else if 2 ^ 24 ≤ (m - lo) * 2 ^ 24 / q + ruleStochastic r.seed.toNat r.ctr.toNat r.idx then hi else lo

/-- R125, R127, R134: what RoundToFormat gives for the nonzero magnitude n / (d × 2^u) and a sign, as a code and flags (NV 16, DZ 8, OF 4, UF 2, NX 1). -/
abbrev RoundsTo (f : RuleFmt) (r : Rnd) (neg : Bool) (n d u : Nat) (res : FRes) : Prop :=
  let l := (n / d).log2
  let e := max l (u + 1 - f.bias)
  let y := ruleChoose r neg n (2 ^ (e - f.mb) * d)
  let free := if l < f.mb then n else ruleChoose r neg n (2 ^ (l - f.mb) * d)
  let limit := f.largest * 2 ^ u * d
  res.1 < 2 ^ f.width ∧ f.neg res.1 = neg ∧
  if limit < y then
    res.2 = 5 ∧
      (if f.inf = true ∧ r.sat = false ∧ (r.mode = 0 ∨ r.mode = 4 ∨ r.mode = 5 ∨ (r.mode = 3 ∧ neg = false) ∨ (r.mode = 2 ∧ neg = true)) then f.isInf res.1 = true
       else f.isInf res.1 = false ∧ f.isNaN res.1 = false ∧ f.mag res.1 = f.largest * 2 ^ 149)
  else f.isInf res.1 = false ∧ f.isNaN res.1 = false ∧ f.mag res.1 * 2 ^ (u - 149) * d = y ∧
    res.2 = if y = n then 0 else if free < 2 ^ (u + 1 - f.bias) * d then 3 else 1

/-- The result with a NaN operand, in priority order (R135). -/
def ruleNaN (f : RuleFmt) (xs : List Nat) : Option FRes := (xs.find? f.isNaN).map fun x => (f.quiet x, if xs.any f.isSnan then 16 else 0)

/-- The sign of an exact sum of zero whose terms have signs `a` and `b` (R128). -/
def ruleZero (r : Rnd) (a b : Bool) : Bool := if a = b then a else r.mode == 2

/-- What RoundToFormat gives for an exact sum: zero, or a number of units of 2^-u. -/
abbrev SumRounds (f : RuleFmt) (r : Rnd) (zero : Bool) (x : Int) (u : Nat) (res : FRes) : Prop :=
  if x = 0 then res = (f.signBit zero, 0) else RoundsTo f r (decide (x < 0)) x.natAbs 1 u res

/-- a + b, or a - b, on codes (R125, R128, R135, R136). -/
abbrev SumIs (f : RuleFmt) (r : Rnd) (sub : Bool) (a b : Nat) (res : FRes) : Prop :=
  let nb := f.neg b != sub
  if ruleNaN f [a, b] ≠ none then ruleNaN f [a, b] = some res
  else if f.isInf a = true ∧ f.isInf b = true ∧ f.neg a ≠ nb then res = (f.canon, 16)
  else if f.isInf a = true then res = (a, 0)
  else if f.isInf b = true then res = (f.infCode nb, 0)
  else SumRounds f r (ruleZero r (f.neg a) nb) (f.val a + if sub then -f.val b else f.val b) 149 res

/-- a × b on codes (R125, R128, R135, R136). -/
abbrev ProdIs (f : RuleFmt) (r : Rnd) (a b : Nat) (res : FRes) : Prop :=
  let s := f.neg a != f.neg b
  if ruleNaN f [a, b] ≠ none then ruleNaN f [a, b] = some res
  else if f.isInf a = true ∨ f.isInf b = true then
    (if (f.isInf a = false ∧ f.mag a = 0) ∨ (f.isInf b = false ∧ f.mag b = 0) then res = (f.canon, 16) else res = (f.infCode s, 0))
  else if f.mag a * f.mag b = 0 then res = (f.signBit s, 0)
  else RoundsTo f r s (f.mag a * f.mag b) 1 298 res

/-- a ÷ b on codes (R125, R128, R134-R136). -/
abbrev QuotIs (f : RuleFmt) (r : Rnd) (a b : Nat) (res : FRes) : Prop :=
  let s := f.neg a != f.neg b
  if ruleNaN f [a, b] ≠ none then ruleNaN f [a, b] = some res
  else if (f.isInf a = true ∧ f.isInf b = true) ∨ (f.isInf a = false ∧ f.isInf b = false ∧ f.mag a = 0 ∧ f.mag b = 0) then res = (f.canon, 16)
  else if f.isInf a = true then res = (f.infCode s, 0)
  else if f.isInf b = true ∨ f.mag a = 0 then res = (f.signBit s, 0)
  else if f.mag b = 0 then (f.inf = true → res = (f.infCode s, 8))
  else RoundsTo f r s (f.mag a * 2 ^ 600) (f.mag b) 600 res

/-- The exact value m / 2^u of a finite operand, signed, or an infinity; `nan` says that it is a NaN. -/
structure RuleNum where
  nan : Bool
  snan : Bool
  inf : Bool
  neg : Bool
  m : Nat
  u : Nat

/-- The value of a code. -/
def RuleFmt.num (f : RuleFmt) (c : Nat) : RuleNum := ⟨f.isNaN c, f.isSnan c, f.isInf c, f.neg c, f.mag c, 149⟩

/-- x × y + c with x and y exact numbers, rounded once (R135, R136, R138); a NaN factor's code is `nx`, `ny`. -/
abbrev FmaIs (f : RuleFmt) (r : Rnd) (x y : RuleNum) (nx ny c : Nat) (res : FRes) : Prop :=
  let s := x.neg != y.neg
  let bad := x.nan = false ∧ y.nan = false ∧ ((x.inf = true ∧ y.inf = false ∧ y.m = 0) ∨ (y.inf = true ∧ x.inf = false ∧ x.m = 0))
  if f.isNaN c = true ∨ x.nan = true ∨ y.nan = true then
    res = (if f.isNaN c = true then f.quiet c else if x.nan = true then nx else ny,
           if f.isSnan c = true ∨ x.snan = true ∨ y.snan = true ∨ bad then 16 else 0)
  else if bad then res = (f.canon, 16)
  else if x.inf = true ∨ y.inf = true then (if f.isInf c = true ∧ f.neg c ≠ s then res = (f.canon, 16) else res = (f.infCode s, 0))
  else if f.isInf c = true then res = (c, 0)
  else
    SumRounds f r (ruleZero r s (f.neg c)) ((if s then -((x.m * y.m : Nat) : Int) else (x.m * y.m : Nat)) + f.val c * 2 ^ (x.u + y.u - 149)) (x.u + y.u) res

/-- A code by its place in the order of R137: −0 just below +0. -/
def RuleFmt.key (f : RuleFmt) (c : Nat) : Int :=
  let m := c % 2 ^ (f.eb + f.mb)
  if f.neg c then -(m : Int) - 1 else m

/-- A code by its value: the zeros are equal. -/
def RuleFmt.ord (f : RuleFmt) (c : Nat) : Int :=
  let m := c % 2 ^ (f.eb + f.mb)
  if f.neg c then -(m : Int) else m

/-- The relations of R197 on codes (R137). -/
def ruleFcmp (f : RuleFmt) (c : FCond) (a b : Nat) : Bool :=
  let un := f.isNaN a || f.isNaN b
  match c with
  | .eq => !un && f.ord a == f.ord b
  | .ne => un || f.ord a != f.ord b
  | .lt => !un && decide (f.ord a < f.ord b)
  | .le => !un && decide (f.ord a ≤ f.ord b)
  | .gt => !un && decide (f.ord b < f.ord a)
  | .ge => !un && decide (f.ord b ≤ f.ord a)
  | .un => un
  | .or => !un

/-- A code of format `g` converted to format `f` (R125, R127, R129). -/
abbrev ConvertIs (g f : RuleFmt) (r : Rnd) (c : Nat) (res : FRes) : Prop :=
  let nv : FFlags := if g.isSnan c then 16 else 0
  if g.isNaN c = true then
    (if f.inf = true then
       f.isNaN res.1 = true ∧ res.1 < 2 ^ f.width ∧ f.neg res.1 = g.neg c ∧ f.man res.1 / 2 ^ (f.mb - 1) = 1 ∧ res.2 = nv ∧
         (∀ k, 2 ≤ k → k ≤ f.mb → (f.man res.1).testBit (f.mb - k) = (decide (k ≤ g.mb) && (g.man c).testBit (g.mb - k)))
     else if f.one = true then res = (f.signBit (g.neg c) + f.canon, nv) else res = (0, 16))
  else if g.isInf c = true then
    (if f.inf = true then res = (f.infCode (g.neg c), 0)
     else res.2 = 16 ∧ res.1 < 2 ^ f.width ∧ f.neg res.1 = g.neg c ∧ f.isNaN res.1 = false ∧ f.mag res.1 = f.largest * 2 ^ 149)
  else if g.mag c = 0 then res = (f.signBit (g.neg c), 0)
  else RoundsTo f r (g.neg c) (g.mag c) 1 149 res

/-- A finite positive magnitude m / 2^149 into .e8m0 (R130). -/
abbrev ScaleCodeIs (r : Rnd) (m : Nat) (res : FRes) : Prop :=
  let q := 2 ^ m.log2
  let up := m ≠ q ∧
    (if r.mode = 0 then 3 * q < 2 * m ∨ (2 * m = 3 * q ∧ m.log2 % 2 = 1) else ruleChoose r false m q = 2 * q)
  let j := if up then m.log2 + 1 else m.log2
  if j < 22 then res = (0, 3) else if 276 < j then res = (0xFE, 5) else res = (j - 22, if m = q then 0 else 1)

/-- A code into .e8m0 (R129, R130). -/
abbrev ScaleConvertIs (g : RuleFmt) (r : Rnd) (c : Nat) (res : FRes) : Prop :=
  if g.isNaN c = true then res = (0xFF, if g.isSnan c then 16 else 0)
  else if g.isInf c = true ∨ g.neg c = true ∨ g.mag c = 0 then res = (0xFF, 16)
  else ScaleCodeIs r (g.mag c) res

/-- The least and the largest value of an integer format (R116). -/
def ruleIntRange : ElemType → Option (Int × Int)
  | .s4 => some (-8, 7)
  | .z4 => some (0, 15)
  | .s8 => some (-128, 127)
  | .z8 => some (0, 255)
  | .s16 => some (-32768, 32767)
  | .z16 => some (0, 65535)
  | .s32 => some (-2 ^ 31, 2 ^ 31 - 1)
  | .z32 => some (0, 2 ^ 32 - 1)
  | _ => none

/-- The value of a code of an integer format. -/
def ruleIntVal (lo hi : Int) (c : Nat) : Int := if (c : Int) ≤ hi then c else c + 2 * lo

/-- A floating code into an integer format (R130): 0, saturated with NV, or rounded with q = 1. -/
abbrev ToIntIs (g : RuleFmt) (lo hi : Int) (r : Rnd) (c : Nat) (v : Int) (fl : FFlags) : Prop :=
  let y : Int := (ruleChoose r (g.neg c) (g.mag c) (2 ^ 149) / 2 ^ 149 : Nat)
  let y := if g.neg c then -y else y
  if g.isNaN c = true then v = 0 ∧ fl = 16
  else if g.isInf c = true then v = (if g.neg c then lo else hi) ∧ fl = 16
  else if y < lo ∨ hi < y then v = (if y < lo then lo else hi) ∧ fl = 16
  else v = y ∧ fl = if g.mag c % 2 ^ 149 = 0 then 0 else 1

/-- emax of R124. -/
def ruleEmax : ElemType → Int
  | .e2m1 => 2
  | .e4m3 => 8
  | _ => 15

/-- The scale code of a block (R124): none when it holds a NaN, or an infinity that the format does not keep. -/
def ruleBlockScale (t : ElemType) (g : RuleFmt) (cs : List Nat) : Option Nat :=
  if cs.any g.isNaN || (t != .e5m2 && cs.any g.isInf) then none
  else
    let mx := (cs.filter fun c => !g.isInf c).foldl (fun a c => max a (g.mag c)) 0
    if mx = 0 then some 0 else some (max (-127) (min 127 ((mx.log2 : Int) - 149 - ruleEmax t)) + 127).toNat

/-- One finite element quantised under scale code k ≤ 254 (R124): RoundToFormat of it ÷ 2^(k − 127), saturating. -/
abbrev QuantIs (g f : RuleFmt) (r : Rnd) (k c : Nat) (res : FRes) : Prop :=
  if g.mag c = 0 then res = (f.signBit (g.neg c), 0) else RoundsTo f { r with sat := true } (g.neg c) (g.mag c * 2 ^ 127) 1 (149 + k) res

/-- An element of a block format under scale code k (R123, R129, R203): the exact product rounded; 0xFF gives CanonicalNaN. -/
abbrev DequantIs (g f : RuleFmt) (r : Rnd) (k c : Nat) (res : FRes) : Prop :=
  if k = 255 then res = (f.canon, 0)
  else if g.isNaN c = true then ConvertIs g f r c res
  else if g.isInf c = true then res = (f.infCode (g.neg c), 0)
  else if g.mag c = 0 then res = (f.signBit (g.neg c), 0)
  else RoundsTo f r (g.neg c) (g.mag c * 2 ^ k) 1 276 res

end Sys2Proof.Machine

/-- R118-R137: on codes of each floating format, in each rounding mode: sum, difference, product, quotient, fused multiply-add, minimum, maximum, comparison, and
conversion among floating formats, to and from integers and to .e8m0, and block quantisation and dequantisation: the code and the flags that the rules give, from exact values as integers.
Square roots and logarithms of zeros and negative values, and the rounding of any nonzero exact value, by the same rules. The vector, matrix, array and
atomic statements name these functions. -/
def Obligations.FloatingArithmetic : Prop :=
  ∀ (t : ElemType) (f : RuleFmt) (r : Rnd), ruleFmt t = some f → r.mode ≤ 5 →
    (∀ a b, a < 2 ^ f.width → b < 2 ^ f.width →
      SumIs f r false a b (fAdd t r (decodeF t a) (decodeF t b)) ∧ SumIs f r true a b (fSub t r (decodeF t a) (decodeF t b)) ∧
      ProdIs f r a b (fMul t r (decodeF t a) (decodeF t b)) ∧ QuotIs f r a b (fDiv t r (decodeF t a) (decodeF t b)) ∧
      fMin t (decodeF t a) (decodeF t b) = (ruleNaN f [a, b]).getD (if f.key b < f.key a then b else a, 0) ∧
      fMax t (decodeF t a) (decodeF t b) = (ruleNaN f [a, b]).getD (if f.key a < f.key b then b else a, 0) ∧
      (∀ c, fCmp c (decodeF t a) (decodeF t b) = (ruleFcmp f c a b, if f.isSnan a || f.isSnan b then 16 else 0)) ∧
      ∀ c, c < 2 ^ f.width → FmaIs f r (f.num a) (f.num b) (f.quiet a) (f.quiet b) c (fFma t r (decodeF t a) (decodeF t b) (decodeF t c))) ∧
    (∀ (t1 : ElemType) (g : RuleFmt) (a : Nat), ruleFmt t1 = some g → a < 2 ^ g.width → ConvertIs g f r a (convert t t1 r a)) ∧
    (∀ k, k < 255 → RoundsTo f r false (2 ^ (k + 22)) 1 149 (convert t .e8m0 r k)) ∧
    (∀ a, a < 2 ^ f.width → ScaleConvertIs f r a (convert .e8m0 t r a)) ∧
    (∀ (ti : ElemType) (lo hi : Int), ruleIntRange ti = some (lo, hi) →
      (∀ c : Nat, (c : Int) ≤ hi - lo →
        SumRounds f r false (ruleIntVal lo hi c * 2 ^ 149) 149 (convert t ti r c)) ∧
      (∀ a, a < 2 ^ f.width →
        ((convert ti t r a).1 : Int) ≤ hi - lo ∧ ToIntIs f lo hi r a (ruleIntVal lo hi (convert ti t r a).1) (convert ti t r a).2)) ∧
    (∀ (tq : ElemType) (q : RuleFmt) (cs : List Nat), ruleFmt tq = some q → tq = .e2m1 ∨ tq = .e4m3 ∨ tq = .e5m2 → (∀ c ∈ cs, c < 2 ^ f.width) →
      quantScale tq (cs.map (decodeF t)) = ruleBlockScale tq f cs ∧
      (f.inf = true → ∀ k c, k < 256 → c < 2 ^ q.width → DequantIs q f r k c (dequant tq t r k c)) ∧
      ∀ k idx c, k < 255 → c < 2 ^ f.width → f.isNaN c = false → f.isInf c = false →
        QuantIs f q { r with idx := idx } k c (quantElem tq r k idx (decodeF t c))) ∧
    (∀ a, a < 2 ^ f.width → f.inf = true → f.isNaN a = false →
      (f.neg a = true → f.isInf a = true ∨ 0 < f.mag a →
        fSqrt t r (decodeF t a) = (f.canon, 16) ∧ fRsqrt t r (decodeF t a) = (f.canon, 16) ∧ fLog2 t r (decodeF t a) = (f.canon, 16)) ∧
      (f.isInf a = false → f.mag a = 0 →
        fSqrt t r (decodeF t a) = (a, 0) ∧ fRsqrt t r (decodeF t a) = (f.infCode (f.neg a), 8) ∧ fRcp t r (decodeF t a) = (f.infCode (f.neg a), 8) ∧
        fLog2 t r (decodeF t a) = (f.infCode true, 8))) ∧
    ∀ (neg : Bool) (m u : Nat), 0 < m → 149 ≤ u → RoundsTo f r neg m 1 u (roundToFormat t r (.fin neg m (-(u : Int))))

/-- R75. DIV and REM on w-bit operands, w one of the four widths: the quotient truncates toward zero and the remainder takes the dividend's sign;
a divisor of 0 gives all ones and the dividend; −2^(w−1) by −1 gives −2^(w−1) and 0. -/
def Obligations.DivisionTruncatesAndNeverTraps : Prop :=
  ∀ (wd : Width) (a b : BitVec wd.bits),
    (∀ sg, b = 0 → divOp sg wd.bits a.toNat b.toNat = 2 ^ wd.bits - 1 ∧ remOp sg wd.bits a.toNat b.toNat = a.toNat) ∧
    (a.toInt = -(2 ^ (wd.bits - 1)) → b.toInt = -1 →
      divOp true wd.bits a.toNat b.toNat = a.toNat ∧ remOp true wd.bits a.toNat b.toNat = 0) ∧
    (b ≠ 0 → ¬(a.toInt = -(2 ^ (wd.bits - 1)) ∧ b.toInt = -1) →
      (BitVec.ofNat wd.bits (divOp true wd.bits a.toNat b.toNat)).toInt = a.toInt.tdiv b.toInt ∧
      (BitVec.ofNat wd.bits (remOp true wd.bits a.toNat b.toNat)).toInt = a.toInt - b.toInt * a.toInt.tdiv b.toInt ∧
      0 ≤ a.toInt * (BitVec.ofNat wd.bits (remOp true wd.bits a.toNat b.toNat)).toInt) ∧
    (b ≠ 0 → divOp false wd.bits a.toNat b.toNat = a.toNat / b.toNat ∧
      remOp false wd.bits a.toNat b.toNat = a.toNat - b.toNat * (a.toNat / b.toNat)) ∧
    (∀ (sg : Bool) (o : Alu) (sy : Sync) (s : State) (tv : Word64),
      (Passes (.div sg o sy) s tv [] → ∃ t, exec (.div sg o sy) s = .next t ∧ RegsOnly s t sy (syncPost s sy)) ∧
      (Passes (.rem sg o sy) s tv [] → ∃ t, exec (.rem sg o sy) s = .next t ∧ RegsOnly s t sy (syncPost s sy)))

/-- R28, R85: NOP changes nothing of the acting context but the PC and the loop counts, as the loop check says: lc1 first, then lc0 while the next
address is still the following word (where lc1 goes back to that very word, lc0 is still checked: the model's reading, log entry 23). FENCE does the same; XFENCE does when no earlier asynchronous instruction of the context is unretired,
or when its domain is the core's alone. -/
def Sys2Proof.Machine.LoopCheckAfterAcceptance : Prop :=
  ∀ (i : Instr) (s : State) (tv : Word64),
    Passes i s tv [] →
    (match i with
     | .nop _ => True
     | .fence _ _ _ => True
     | .xfence _ _ _ engine _ => engine = false ∨ ctxBusy s.me s.cur.stream s.cur.ctx = false
     | _ => False) →
    ∃ t, exec i s = .next t ∧ RegsOnly s t (syncOf i) (syncPost s (syncOf i)) ∧
      let r := s.regs
      let hit1 := r.lc1.count ≠ 0 ∧ r.pc = r.lc1.fin
      let back1 := hit1 ∧ r.lc1.count ≠ 1
      let next := if back1 then r.lc1.start else r.pc + 16
      let hit0 := next = r.pc + 16 ∧ r.lc0.count ≠ 0 ∧ r.pc = r.lc0.fin
      t.regs.lc1 = { r.lc1 with count := if hit1 then r.lc1.count - 1 else r.lc1.count } ∧
      t.regs.lc0 = { r.lc0 with count := if hit0 then r.lc0.count - 1 else r.lc0.count } ∧
      t.regs.pc = (if hit0 ∧ r.lc0.count ≠ 1 then r.lc0.start else next) ∧
      t.regs = { r with pc := t.regs.pc, lc0 := t.regs.lc0, lc1 := t.regs.lc1 }

/-- Targets of R86. -/
def Sys2Proof.Machine.ruleTarget (i : Instr) (s : State) : Option Word64 :=
  match i with
  | .br neg p imm _ => if s.readP p ^^ neg then some (s.pc + imm.signExtend 64 * 16) else none
  | .jmp a imm _ => some (s.src a + imm.signExtend 64)
  | .call _ (.rel imm) _ => some (s.pc + imm.signExtend 64 * 16)
  | .call _ (.ind a imm) _ => some (s.src a + imm.signExtend 64)
  | .ret a _ => some (s.src a)
  | .brmz imm _ => if s.topMask = 0 then some (s.pc + imm.signExtend 64 * 16) else none
  | _ => none

/-- R16, R29, R86, R87: a transfer to a target that is a multiple of 16 below 2^57 sets the PC to it with the loops unchanged; CALL writes the return
address. BR and BRMZ that do not branch advance past the word with the loop check. -/
def Sys2Proof.Machine.ControlTransferTarget : Prop :=
  ∀ (i : Instr) (s : State) (tv : Word64),
    Passes i s tv [] →
    (∀ g, ruleTarget i (s.withTv tv) = some g → g.toNat % 16 = 0 → g.toNat < 2 ^ 57 →
      ∃ t, exec i s = .next t ∧ RegsOnly s t (syncOf i) (syncPost s (syncOf i)) ∧
        t.regs = { (match i with | .call d _ _ => s.regs.writeG d (s.pc + 16) | _ => s.regs) with pc := g }) ∧
    ((match i with | .br _ _ _ _ => True | .brmz _ _ => True | _ => False) → ruleTarget i (s.withTv tv) = none →
      ∃ t, exec i s = .next t ∧ RegsOnly s t (syncOf i) (syncPost s (syncOf i)) ∧ t.regs = loopNext s.regs s.pc)

/-- R16: a target with bits 3:0 not 0 raises PC_ALIGN, else one of 2^57 or more ACCESS, at the transferring instruction, with the target as information
and address. -/
def Sys2Proof.Machine.BadTargetTraps : Prop :=
  ∀ (i : Instr) (s : State) (tv g : Word64),
    Passes i s tv [] → ruleTarget i (s.withTv tv) = some g →
    (g.toNat % 16 ≠ 0 → exec i s = .next (takeTrap s { cause := 0x04, info := g.setWidth 32, akind := 1, addr := g })) ∧
    (g.toNat % 16 = 0 → 2 ^ 57 ≤ g.toNat → exec i s = .next (takeTrap s { cause := 0x10, info := g.setWidth 32, akind := 1, addr := g }))

/-- R27, R88: LOOP sets its loop to the count, the next word and the end address; an end of 2^57 or more raises ACCESS. -/
def Sys2Proof.Machine.LoopSetsItsRegisters : Prop :=
  ∀ (lc : Fin 2) (x : BitVec 26) (n : SrcLit) (sy : Sync) (s : State) (tv : Word64),
    Passes (.loop lc x n sy) s tv [] →
    let fin := s.pc + BitVec.ofNat 64 (x.toNat * 16)
    let count : BitVec 32 := match n with | .lit i => i | .reg r => ((s.withTv tv).src r).setWidth 32
    let l : Loop := ⟨count, s.pc + 16, fin⟩
    (fin.toNat < 2 ^ 57 →
      ∃ t, exec (.loop lc x n sy) s = .next t ∧ RegsOnly s t sy (syncPost s sy) ∧
        t.regs = loopNext (if lc = 0 then { s.regs with lc0 := l } else { s.regs with lc1 := l }) s.pc) ∧
    (2 ^ 57 ≤ fin.toNat →
      exec (.loop lc x n sy) s = .next (takeTrap s { cause := 0x10, info := fin.setWidth 32, akind := 1, addr := fin }))

/-- R146: a wait on one queue, decided by what the queue shows in this cycle: a token, or the END mark when no token is left, is checked against WT
(0 is ANY; END has type 14); an empty closed queue without END mark is an orphan; an empty open one stalls. What a wait does not satisfy pops
nothing, and acceptance pops the head alone. (A token or END mark that entered in this very cycle is not yet shown, R150.) -/
def Obligations.WaitOnOneQueue : Prop :=
  ∀ (x : Tile) (st : Stream) (second : Bool) (ty : Fin 15),
    let q := x.queue (queueIn st second)
    let sel : QSel := if second then .second else .first
    let res := waitRes x st (some ⟨sel, ty⟩)
    let y := popWait x st (some ⟨sel, ty⟩)
    (∀ tok : BitVec 16,
      (q.fresh < q.count.toNat ∧ tok = q.ents[0] ∨
        q.count = 0 ∧ q.freshEnd = false ∧ (∃ v : BitVec 12, q.endMark = some v ∧ tok = (14 : BitVec 4) ++ v)) →
      (ty.val ≠ 0 ∧ tok.toNat / 2 ^ 12 ≠ ty.val →
        ∃ info, res = .trap 0x08 info ∧ info.toNat = tok.toNat * 2 ^ 16 + ty.val * 16 + (if second then 2 else 1)) ∧
      (ty.val = 0 ∨ tok.toNat / 2 ^ 12 = ty.val → res = .ok (BitVec.ofNat 64 (tok.toNat % 2 ^ 12)))) ∧
    (q.count = 0 → q.endMark = none → q.closed = true → res = .trap 0x0B (if second then 2 else 1)) ∧
    (q.count = 0 → q.endMark = none → q.closed = false → res = .stall (if second then 2 else 1)) ∧
    (∀ k, k ≠ queueIn st second → y.queue k = x.queue k) ∧
    (q.count ≠ 0 → (y.queue (queueIn st second)).count = q.count - 1 ∧ (y.queue (queueIn st second)).endMark = q.endMark ∧
      ∀ k (h : k + 1 < 16), (y.queue (queueIn st second)).ents[k] = q.ents[k + 1]) ∧
    (q.count = 0 → (y.queue (queueIn st second)).endMark = none ∧ (y.queue (queueIn st second)).count = 0)

/-- R35, R41, R42: an instruction (every constructor with an OP) of right class and encoding whose wait finds a head of the wrong type or an orphan
traps at once, and one that finds an empty open queue stalls, with the mark of the stall only; a service context never waits (R44). The
stream of an acting user context is live. -/
def Obligations.UnsatisfiedWait : Prop :=
  ∀ (i : Instr) (s : State),
    (opOf i).isSome = true → (s.cur.ctx = .user → s.myCore.u.life = .live) →
    classTrap s.cur.stream s.cur.ctx ((opOf i).getD 0).toNat (instrPriv i) = none → step5Ok s.cur.ctx i = true →
    (∀ c info, waitRes s.me s.cur.stream (syncOf i).wait = .trap c info →
      exec i s = .next (takeTrap s { cause := c, info := info })) ∧
    (∀ code, waitRes s.me s.cur.stream (syncOf i).wait = .stall code →
      ∃ t, exec i s = .next t ∧ t.regs = s.regs ∧ t.me.queues = s.me.queues ∧ t.me.store = s.me.store ∧ t.me.eng = s.me.eng ∧
        SameOutside s t ∧ s.cur.ctx = .user ∧ t.myCore.stall = some (.wait code))

/-- R110, R114, R154: TKGET and TKLEVEL write g[D]: the waited heads with their types, and COUNT, CEIL and GONE of one queue. -/
def Sys2Proof.Machine.TokenQueueReads : Prop :=
  (∀ (d : Fin 32) (sy : Sync) (s : State) (tv : Word64), Passes (.tkget d sy) s tv [] →
    let seen := fun (b : Bool) =>
      match (s.me.queue (queueIn s.cur.stream b)).head with | .head tok => tok.toNat | _ => 0
    ∃ t, exec (.tkget d sy) s = .next t ∧ RegsOnly s t sy (syncPost s sy) ∧
      t.regs = loopNext (s.regs.writeG d (match sy.wait with
        | none => 0
        | some w => BitVec.ofNat 64 (match w.q with
          | .first => seen false | .second => seen true | .both => seen false + seen true * 2 ^ 16))) s.pc) ∧
  (∀ (d : Fin 32) (out second : Bool) (sy : Sync) (s : State) (tv : Word64),
    Passes (.tklevel d out second sy) s tv [] → s.cur.ctx = .user →
    let q := s.me.queue (if out then queueOut s.cur.stream second else queueIn s.cur.stream second)
    let count := (if out then q.count.toNat + q.reserved else q.count.toNat) % 32
    let gone := if (s.me.core (peerOf s.cur.stream second)).u.life = .live then 0 else 1
    ∃ t, exec (.tklevel d out second sy) s = .next t ∧ RegsOnly s t sy (syncPost s sy) ∧
      t.regs = loopNext (s.regs.writeG d (BitVec.ofNat 64 (count + q.ceil.toNat * 2 ^ 8 + gone * 2 ^ 16))) s.pc)

/-- R111, R112, R113: TKPUT and TKPRIME post before the SYNC field's own post, and change no register; a type of 14 or 15 raises ILLEGAL with the token
as information; a TKPRIME count above the ceiling of a named queue with a live consumer raises TOKEN_OVERFLOW. -/
def Sys2Proof.Machine.TokenPosts : Prop :=
  (∀ (q : QSel) (nb : Bool) (b : SrcLit) (sy : Sync) (s : State) (tv : Word64),
    let tok : BitVec 16 := match b with | .reg r => ((s.withTv tv).src r).setWidth 16 | .lit i => i.setWidth 16
    let own : List Post := [⟨q, tok.extractLsb' 12 4, tok.extractLsb' 0 12, nb, 1⟩]
    s.cur.ctx = .user →
    (tok.toNat / 2 ^ 12 < 14 → Passes (.tkput q nb b sy) s tv own →
      ∃ t, exec (.tkput q nb b sy) s = .next t ∧ RegsOnly s t sy (own ++ syncPost s sy) ∧ t.regs = loopNext s.regs s.pc) ∧
    (14 ≤ tok.toNat / 2 ^ 12 → Passes (.tkput q nb b sy) s tv [] →
      exec (.tkput q nb b sy) s = .next (takeTrap s { cause := 0x01, info := tok.setWidth 32 }))) ∧
  (∀ (q : QSel) (nb : Bool) (ty : BitVec 4) (v : BitVec 12) (count : BitVec 32) (sy : Sync) (s : State) (tv : Word64),
    let own : List Post := [⟨q, ty, v, nb, count.toNat⟩]
    s.cur.ctx = .user →
    ((∀ b ∈ peersOf q, s.me.consumerLive s.cur.stream b = true →
        count.toNat ≤ (s.me.queue (queueOut s.cur.stream b)).ceil.toNat) →
      Passes (.tkprime q nb ty v count sy) s tv own →
      ∃ t, exec (.tkprime q nb ty v count sy) s = .next t ∧ RegsOnly s t sy (own ++ syncPost s sy) ∧ t.regs = loopNext s.regs s.pc) ∧
    ((∃ b ∈ peersOf q, s.me.consumerLive s.cur.stream b = true ∧
        (s.me.queue (queueOut s.cur.stream b)).ceil.toNat < count.toNat) →
      Passes (.tkprime q nb ty v count sy) s tv [] →
      ∃ info, exec (.tkprime q nb ty v count sy) s = .next (takeTrap s { cause := 0x09, info := info })))

/-- R112, R113, R149, R153: what `makePosts` does with one post to one queue: n equal tokens enter when its consumer is live, behind every token
of an earlier clock and, of those of this clock, behind the ones of instructions accepted no later: at the tail unless a token of a later
instruction has entered in the same clock. Else ctl.lost of the posting stream grows by n, saturating, and no queue changes. -/
def Sys2Proof.Machine.PostedTokens : Prop :=
  ∀ (x : Tile) (st : Stream) (second : Bool) (ty : BitVec 4) (v : BitVec 12) (nb : Bool) (n : Nat),
    let q := queueOut st second
    let y := makePosts x st [⟨if second then .second else .first, ty, v, nb, n⟩]
    let old := x.queue q
    let place := old.count.toNat - old.fresh + (old.ords.takeWhile fun k => k ≤ x.eng.order).length
    (x.consumerLive st second = true → (x.queue q).count.toNat + n ≤ 16 →
      (y.queue q).count.toNat = (x.queue q).count.toNat + n ∧
      (∀ k (h : k < 16), k < place → (y.queue q).ents[k] = old.ents[k]) ∧
      (∀ k (h : k < 16), place ≤ k → k < place + n → (y.queue q).ents[k] = ty ++ v) ∧
      (∀ k (h : k < 16), place + n ≤ k → (y.queue q).ents[k] = old.ents[k - n]) ∧
      (old.ords.length = old.fresh → old.fresh ≤ old.count.toNat → (∀ k ∈ old.ords, k ≤ x.eng.order) → place = old.count.toNat) ∧
      (∀ k, k ≠ q → y.queue k = x.queue k) ∧ (y.core st).u.lost = (x.core st).u.lost) ∧
    (x.consumerLive st second = false →
      (∀ k, y.queue k = x.queue k) ∧ (y.core st).u.lost.toNat = min ((x.core st).u.lost.toNat + n) (2 ^ 32 - 1))

/-- The writable bits of a control register 0x00-0x03 and 0x10-0x15 (R22, R23); 0 for the others. -/
def Sys2Proof.Machine.ruleCtlMask (n : Nat) : Word64 :=
  match n with
  | 0x00 => 0x1F | 0x01 => 7 | 0x02 => BitVec.allOnes 64 | 0x03 => BitVec.allOnes 64
  | 0x10 => 0xFFFFFFFF | 0x13 => 0xFFFFFFFF
  | 0x11 => 0x01FFFFFFFFFFFFF0 | 0x12 => 0x01FFFFFFFFFFFFF0 | 0x14 => 0x01FFFFFFFFFFFFF0 | 0x15 => 0x01FFFFFFFFFFFFF0
  | _ => 0

/-- R22, R23, R24, R92: a CTLWR below 0x40 of the acting context with a legal value, once no flag is awaited. The written register then reads its
writable bits, every other register reads as before (the loop check follows, R89); 0x0A sets the watchdog exponent of the stream
(a service context in share mode leaves it, the model's choice, log entry 12); a bad value raises ILLEGAL with the number and writes nothing. -/
def Sys2Proof.Machine.ControlRegisterWrite : Prop :=
  ∀ (num : BitVec 8) (b : SrcLit) (sy : Sync) (s : State) (tv : Word64),
    Passes (.ctlwr num b sy) s tv [] → num.toNat < 0x40 → flagsWait s num.toNat = false →
    let v : Word64 := match b with | .reg r => (s.withTv tv).src r | .lit i => i.setWidth 64
    let legal := (num = 0x01 → v.toNat % 8 < 6) ∧ (num = 0x0A → 16 ≤ v.toNat % 64 ∧ v.toNat % 64 ≤ 40)
    (legal → num ≠ 0x0A →
      ∃ t r, exec (.ctlwr num b sy) s = .next t ∧ RegsOnly s t sy (syncPost s sy) ∧ t.regs = loopNext r s.pc ∧
        r.g = s.regs.g ∧ r.p = s.regs.p ∧ r.pc = s.pc ∧
        ∀ m, ctlVal s s.cur.tile s.cur.stream r m =
          if m = num.toNat ∧ ruleCtlMask m ≠ 0 then v &&& ruleCtlMask m else ctlVal s s.cur.tile s.cur.stream s.regs m) ∧
    (legal → num = 0x0A → s.cur.ctx = .service → s.myCore.v.mode = .share →
      ∃ t, exec (.ctlwr num b sy) s = .next t ∧ RegsOnly s t sy (syncPost s sy) ∧ t.regs = loopNext s.regs s.pc) ∧
    (legal → num = 0x0A → s.cur.ctx = .user ∨ s.myCore.v.mode ≠ .share →
      ∃ t, exec (.ctlwr num b sy) s = .next t ∧ t.regs = loopNext s.regs s.pc ∧ t.myCore.u.wdog = v.setWidth 6 ∧
        t.me.store = s.me.store ∧ t.me.eng = s.me.eng ∧ SameOutside s t ∧ SameTileRest s.cur.stream s.me t.me ∧
        TokensMoved s t sy (syncPost s sy)) ∧
    (¬ legal → exec (.ctlwr num b sy) s = .next (takeTrap s { cause := 0x01, info := num.setWidth 32 }))

/-- R22-R26, R92, R362: CTLRD writes the named register into g[D], and that alone: the control registers of its own context, and for a service context
its service registers and the user windows, each as listed. -/
def Sys2Proof.Machine.ControlRegisterRead : Prop :=
  (∀ (d : Fin 32) (num : BitVec 8) (sy : Sync) (s : State) (tv : Word64),
    Passes (.ctlrd d num sy) s tv [] → flagsWait s num.toNat = false →
    ∃ t, exec (.ctlrd d num sy) s = .next t ∧ RegsOnly s t sy (syncPost s sy) ∧
      t.regs = loopNext (s.regs.writeG d (ctlrdVal s num.toNat)) s.pc) ∧
  (∀ s : State,
    let c := s.myCore
    let u := c.u.regs
    ctlrdVal s 0x00 = s.regs.flags.setWidth 64 ∧ ctlrdVal s 0x01 = s.regs.round.setWidth 64 ∧
    ctlrdVal s 0x02 = s.regs.seed ∧ ctlrdVal s 0x03 = s.regs.srctr ∧
    ctlrdVal s 0x04 = BitVec.ofNat 64 s.cur.tile.val ∧
    ctlrdVal s 0x05 = (match s.me.task with | some k => BitVec.ofNat 64 (k.index % 2 ^ 12) | none => 0) ∧
    ctlrdVal s 0x06 = (match s.cur.stream with | .load => 0 | .compute => 1 | .store => 2) ∧
    ctlrdVal s 0x07 = BitVec.ofNat 64 (s.time.now / unitsPerNs) ∧ ctlrdVal s 0x08 = s.me.cycle ∧
    ctlrdVal s 0x09 = c.u.lost.setWidth 64 ∧ ctlrdVal s 0x0A = c.u.wdog.setWidth 64 ∧
    ctlrdVal s 0x10 = s.regs.lc0.count.setWidth 64 ∧ ctlrdVal s 0x11 = s.regs.lc0.start ∧ ctlrdVal s 0x12 = s.regs.lc0.fin ∧
    ctlrdVal s 0x13 = s.regs.lc1.count.setWidth 64 ∧ ctlrdVal s 0x14 = s.regs.lc1.start ∧ ctlrdVal s 0x15 = s.regs.lc1.fin ∧
    ctlrdVal s 0x40 = c.v.share.setWidth 64 ∧ ctlrdVal s 0x41 = c.v.vec ∧ ctlrdVal s 0x44 = c.v.ridge.setWidth 64 ∧
    ctlrdVal s 0x42 = (0 : BitVec 48) ++ s.me.drain.trig ++ BitVec.ofBool s.me.drain.preq ++ BitVec.ofBool s.me.drain.restore ++
      BitVec.ofBool (s.me.drain.drained || s.me.drain.restore) ++ BitVec.ofBool s.me.drain.draining ++ (0 : BitVec 1) ++
      BitVec.ofBool s.me.drain.spend.isSome ++ (match c.v.mode with | .share => (0 : BitVec 2) | .alone => 1 | .entered => 2) ∧
    ctlrdVal s 0x43 = (match s.me.task with
      | some k =>
        let js := (s.job k.job.val).jsave
        if js.getLsbD 0 then (js.extractLsb' 25 32).setWidth 64 <<< 25 + BitVec.ofNat 64 (2 ^ 25 * s.cur.tile.val) else 0
      | none => 0) ∧
    ctlrdVal s 0xA2 = (match c.u.life with | .live => 0 | .exited => 1 | .absent => 2) + (c.u.exitVal.setWidth 64 <<< 32) ∧
    (∀ n : Fin 32, ctlrdVal s (0x80 + n.val) = u.readG n) ∧ ctlrdVal s 0xA1 = u.pc ∧
    (∀ n, n < 0x16 → ctlrdVal s (0xC0 + n) = ctlVal s s.cur.tile s.cur.stream u n) ∧
    (∀ k : Fin 8, (ctlrdVal s 0xA0).getLsbD k.val = u.readP k) ∧
    ctlrdVal s 0x48 = BitVec.ofNat 64 (c.v.trec.cause.toNat + trecFlags c.v.trec * 2 ^ 8 + c.v.trec.stream.toNat * 2 ^ 16 +
      c.v.trec.akind.toNat * 2 ^ 24 + c.v.trec.info.toNat * 2 ^ 32) ∧
    ctlrdVal s 0x49 = c.v.trec.tpc ∧ ctlrdVal s 0x4A = c.v.trec.word.setWidth 64 ∧
    ctlrdVal s 0x4B = c.v.trec.word.extractLsb' 64 64 ∧ ctlrdVal s 0x4C = c.v.trec.addr ∧
    ctlrdVal s 0x4D = BitVec.ofNat 64 (c.v.trec.infl.toNat + c.v.trec.pstream.toNat * 2 ^ 8) ∧
    ctlrdVal s 0x4E = c.v.trec.time ∧ ctlrdVal s 0x4F = c.v.trec.cycle)

/-- R362: CTLWR in a service context. svshare and svvec are writable, the other service registers take a write without effect; in share mode a user
window raises ILLEGAL with the number; else a general register, the predicates (p0 stays true), the PC, a control register of the user
context (its writable bits; ctl.lost too; a bad rounding mode or watchdog exponent raises ILLEGAL), and in a restore entry ctl.ustate take the
value. The model's choices, log entry 28: a context entered alone writes as an entered one, ctl.upc keeps any value written, and state 3 in
ctl.ustate raises ILLEGAL. -/
def Sys2Proof.Machine.ServiceRegisterWrite : Prop :=
  ∀ (num : BitVec 8) (b : SrcLit) (s : State) (tv : Word64),
    Passes (.ctlwr num b {}) s tv [] → s.cur.ctx = .service → 0x40 ≤ num.toNat →
    let v : Word64 := match b with | .reg r => (s.withTv tv).src r | .lit i => i.setWidth 64
    let u := s.myCore.u.regs
    let gives := fun (r : Regs) => ∃ t, exec (.ctlwr num b {}) s = .next t ∧ t.myCore.u.regs = r ∧ t.regs = loopNext s.regs s.pc ∧
      SameOutside s t ∧ t.me.store = s.me.store ∧ t.me.eng = s.me.eng ∧ t.me.queues = s.me.queues ∧
      SameTileRest s.cur.stream s.me t.me ∧ t.myCore.v.mode = s.myCore.v.mode ∧ t.myCore.v.trec = s.myCore.v.trec
    (num = 0x40 → ∃ t, exec (.ctlwr num b {}) s = .next t ∧ t.myCore.v.share = v.setWidth 8 ∧ t.regs = loopNext s.regs s.pc ∧
      t.myCore.u = s.myCore.u ∧ SameOutside s t ∧ SameTileRest s.cur.stream s.me t.me) ∧
    (num = 0x41 → ∃ t, exec (.ctlwr num b {}) s = .next t ∧ t.myCore.v.vec = v &&& 0x01FFFFFFFFFFFFF0 ∧
      t.regs = loopNext s.regs s.pc ∧ t.myCore.u = s.myCore.u ∧ SameOutside s t ∧ SameTileRest s.cur.stream s.me t.me) ∧
    (0x80 ≤ num.toNat → s.myCore.v.mode = .share →
      exec (.ctlwr num b {}) s = .next (takeTrap s { cause := 0x01, info := num.setWidth 32 })) ∧
    (s.myCore.v.mode ≠ .share → ∀ n : Fin 32, num.toNat = 0x80 + n.val → gives (u.writeG n v)) ∧
    (s.myCore.v.mode ≠ .share → num = 0xA0 → ∃ r : Regs, gives r ∧ (∀ k : Fin 8, k ≠ 0 → r.readP k = v.getLsbD k.val) ∧ r.g = u.g ∧ r.pc = u.pc) ∧
    (s.myCore.v.mode ≠ .share → num = 0xA1 → gives { u with pc := v }) ∧
    (s.myCore.v.mode ≠ .share → num = 0xC1 → v.toNat % 8 < 6 → gives { u with round := v.setWidth 3 }) ∧
    (s.myCore.v.mode ≠ .share → num = 0xC1 → 6 ≤ v.toNat % 8 →
      exec (.ctlwr num b {}) s = .next (takeTrap s { cause := 0x01, info := 0xC1 })) ∧
    (s.myCore.v.mode ≠ .share → num = 0xA2 → s.me.drain.restore = false ∨ v.toNat % 4 = 3 →
      exec (.ctlwr num b {}) s = .next (takeTrap s { cause := 0x01, info := 0xA2 })) ∧
    (s.myCore.v.mode ≠ .share → num = 0xA2 → s.me.drain.restore = true → v.toNat % 4 ≠ 3 →
      ∃ t, exec (.ctlwr num b {}) s = .next t ∧ t.regs = loopNext s.regs s.pc ∧ SameOutside s t ∧ t.me.store = s.me.store ∧
        t.me.eng = s.me.eng ∧ t.me.queues = s.me.queues ∧ SameTileRest s.cur.stream s.me t.me ∧
        t.myCore.u = { s.myCore.u with
          life := if v.toNat % 4 = 0 then .live else if v.toNat % 4 = 1 then .exited else .absent, exitVal := v.extractLsb' 32 32 }) ∧
    (s.myCore.v.mode ≠ .share → ∀ n, num.toNat = 0xC0 + n → n ≠ 1 → n ≠ 9 → n ≠ 10 →
      ∃ r : Regs, gives r ∧ r.g = u.g ∧ r.p = u.p ∧ r.pc = u.pc ∧
        ∀ m, ctlVal s s.cur.tile s.cur.stream r m =
          if m = n ∧ ruleCtlMask m ≠ 0 then v &&& ruleCtlMask m else ctlVal s s.cur.tile s.cur.stream u m) ∧
    (s.myCore.v.mode ≠ .share → num = 0xC9 ∨ (num = 0xCA ∧ 16 ≤ v.toNat % 64 ∧ v.toNat % 64 ≤ 40) →
      ∃ t, exec (.ctlwr num b {}) s = .next t ∧ t.regs = loopNext s.regs s.pc ∧ SameOutside s t ∧ t.me.store = s.me.store ∧
        t.me.eng = s.me.eng ∧ t.me.queues = s.me.queues ∧ SameTileRest s.cur.stream s.me t.me ∧
        t.myCore.u = if num = 0xC9 then { s.myCore.u with lost := v.setWidth 32 } else { s.myCore.u with wdog := v.setWidth 6 }) ∧
    (s.myCore.v.mode ≠ .share → num = 0xCA → ¬(16 ≤ v.toNat % 64 ∧ v.toNat % 64 ≤ 40) →
      exec (.ctlwr num b {}) s = .next (takeTrap s { cause := 0x01, info := 0xCA })) ∧
    (num ≠ 0x40 → num ≠ 0x41 → num.toNat < 0x80 → gives u ∧ ∀ t, exec (.ctlwr num b {}) s = .next t →
      t.myCore.v.share = s.myCore.v.share ∧ t.myCore.v.vec = s.myCore.v.vec ∧ t.myCore.v.ridge = s.myCore.v.ridge ∧ t.myCore.u = s.myCore.u)

/-- R90, R151, R152, R164: EXIT with no unretired operation of its stream. The stream is exited with its value, its PC and loops stand, and both queues it
feeds are closed, with the END mark of the value's bits 11:0 but where their consumer has exited (R153). With the last stream the task completes with
status 0 and the exit values in its record, and the tile is idle. -/
def Sys2Proof.Machine.ExitEndsStream : Prop :=
  ∀ (v : SrcLit) (sy : Sync) (s : State) (tv : Word64),
    Passes (.exit v sy) s tv [] → s.cur.ctx = .user → streamBusy s.me s.cur.stream = false →
    let x : BitVec 32 := match v with | .reg r => ((s.withTv tv).src r).setWidth 32 | .lit i => i
    let last := ∀ st, st ≠ s.cur.stream → (s.me.core st).u.life ≠ .live
    let quiet := s.me.drain.draining = false ∧ s.me.drain.drained = false
    (¬(last ∧ quiet ∧ s.me.task.isSome) →
      ∃ t, exec (.exit v sy) s = .next t ∧ SameOutside s t ∧ SameTileRest s.cur.stream s.me t.me ∧
        t.me.store = s.me.store ∧ t.me.eng = s.me.eng ∧ t.regs = s.regs ∧
        t.myCore.u.life = .exited ∧ t.myCore.u.exitVal = x ∧
        ∀ b, (t.me.queue (queueOut s.cur.stream b)).closed = true ∧
          ((s.me.core (peerOf s.cur.stream b)).u.life ≠ .exited → (t.me.queue (queueOut s.cur.stream b)).endMark = some (x.setWidth 12))) ∧
    (last → quiet → ∀ k, s.me.task = some k →
      ∃ t, exec (.exit v sy) s = .next t ∧ t.me.task = none ∧ (∀ st, (t.me.core st).u.life = .absent) ∧
        (∀ a, memGet t.hbm a = memGet s.hbm a) ∧ (∀ u, u ≠ s.cur.tile → t.tile u = s.tile u) ∧
        ∀ p ∈ t.disp.pkts, p.id = k.pkt → ∃ rec, smGet .waiting k.index p.tasks = .done 0 rec ∧ rec.length = 64 ∧
          fieldAt rec 0 2 = 0 ∧
          fieldAt rec (match s.cur.stream with | .load => 16 | .compute => 20 | .store => 24) 4 = x.toNat)

/-- R91, R360, R372: SVCALL in a user context is not accepted: its stream alone stops before it, entered alone at ctl.svvec with its record; its
registers, the queues (a waited token stays) and the other streams are as they were. In a service context it raises ILLEGAL. PSTREAM of the
record, which has no drain whose first trap it could name, is 0xFF: the model's choice (log entry 30). -/
def Sys2Proof.Machine.SvcallEntersAlone : Prop :=
  ∀ (code : BitVec 32) (sy : Sync) (s : State) (tv : Word64),
    Passes (.svcall code sy) s tv [] →
    (s.cur.ctx = .user →
      ∃ t, exec (.svcall code sy) s = .next t ∧ t.myCore.v.mode = .alone ∧ t.myCore.v.regs.pc = s.myCore.v.vec ∧
        t.myCore.v.vote = none ∧ t.myCore.u = s.myCore.u ∧ t.me.queues = s.me.queues ∧ t.me.store = s.me.store ∧ t.me.eng = s.me.eng ∧
        SameTileRest s.cur.stream s.me t.me ∧ SameOutside s t ∧
        t.myCore.v.trec = { TrapRec.zero with
          cause := 0x3F, valid := true, alone := true, stream := BitVec.ofNat 8 (streamCode s.cur.stream), info := code, tpc := s.pc,
          word := recordWord s.myCore, infl := 0xFF, pstream := 0xFF, time := s.ns64, cycle := s.me.cycle }) ∧
    (s.cur.ctx = .service → exec (.svcall code sy) s = .next (takeTrap s { cause := 0x01, info := 0 }))

/-- R33, R359-R364: a synchronous trap of a live user context in a tile that does not drain starts the drain. The trapping stream stops before its
instruction with its record; each other live stream in share mode that holds no access stops with a PEER record of its own PC; an absent
or exited one is left. Every stopped stream's service context is entered at its ctl.svvec; user registers, queues, stores, operations
(a CHCAN's marks aside, which end with it) and memory stay. -/
def Sys2Proof.Machine.TrapStartsDrain : Prop :=
  ∀ (s : State) (ti : TrapInfo),
    s.cur.ctx = .user → ti.cause ≠ 0x3F → ti.cause ≠ 0x28 → s.me.drain.draining = false → s.me.drain.drained = false →
    s.myCore.u.life = .live → s.myCore.v.mode = .share → (∀ st, (s.me.core st).v.vote = none) → (∀ st, heldAccess (s.me.core st) = false) →
    let t := takeTrap s ti
    let own := BitVec.ofNat 8 (streamCode s.cur.stream)
    t.me.drain.draining = true ∧ t.me.drain.trig = ti.cause ∧ t.me.drain.mark = s.me.eng.order ∧
    t.myCore.v.mode = .entered ∧ t.myCore.v.regs.pc = s.myCore.v.vec ∧ t.myCore.stopped = true ∧
    t.myCore.v.trec = { TrapRec.zero with
      cause := ti.cause, valid := true, stream := own, akind := ti.akind, info := ti.info, tpc := s.myCore.u.regs.pc,
      word := recordWord s.myCore, addr := ti.addr, infl := 0xFF, pstream := own, time := s.ns64, cycle := s.me.cycle } ∧
    (∀ st, st ≠ s.cur.stream → (s.me.core st).u.life = .live → (s.me.core st).v.mode = .share →
      (t.me.core st).v.mode = .entered ∧ (t.me.core st).v.regs.pc = (s.me.core st).v.vec ∧
      (t.me.core st).v.trec.cause = 0 ∧ (t.me.core st).v.trec.peer = true ∧ (t.me.core st).v.trec.valid = true ∧
      (t.me.core st).v.trec.pstream = own ∧ (t.me.core st).v.trec.tpc = (s.me.core st).u.regs.pc) ∧
    (∀ st, (s.me.core st).u.life ≠ .live → t.me.core st = s.me.core st) ∧
    (∀ st, (t.me.core st).u = (s.me.core st).u) ∧ t.me.queues = s.me.queues ∧ t.me.store = s.me.store ∧
    t.me.eng = { s.me.eng with chLoad := s.me.eng.chLoad.map Chan.keep, chStore := s.me.eng.chStore.map Chan.keep } ∧
    t.me.task = s.me.task ∧ t.hbm = s.hbm ∧ t.sectors = s.sectors ∧ t.pages = s.pages ∧ t.fab = s.fab ∧ t.host = s.host ∧ t.time = s.time ∧ t.gang = s.gang ∧
    t.hk = s.hk ∧ t.sec = s.sec ∧ t.disp = { s.disp with feeds := t.disp.feeds } ∧ (∀ k, k ≠ s.cur.tile → t.tile k = s.tile k)

/-- R373: a trap of a service context stops every context of its tile, raises no drain record, reports the tile to the host, and the tile takes no turn
after it. -/
def Sys2Proof.Machine.ServiceTrapStopsTile : Prop :=
  ∀ (s : State) (ti : TrapInfo), s.cur.ctx = .service →
    let t := takeTrap s ti
    (∀ st, (t.me.core st).stopped = true ∧ (t.me.core st).u = (s.me.core st).u ∧ (t.me.core st).v.trec = (s.me.core st).v.trec) ∧
    t.host.out = s.host.out ++ [.msix (1024 + s.cur.tile.val)] ∧ t.me.store = s.me.store ∧ t.me.queues = s.me.queues ∧ t.hbm = s.hbm ∧
    (∀ k, k ≠ s.cur.tile → t.tile k = s.tile k) ∧ s.cur.tile.val ∈ t.disp.nofit ∧
    ∀ st k, mayIssue t s.cur.tile st k = false

/-- The bytes of a scratchpad: nothing but those of [off, off + n) differs. -/
def Sys2Proof.Machine.spadSameBut (s t : State) (off n : Nat) : Prop :=
  ∀ a, ¬(off ≤ a ∧ a < off + n) → memGet t.me.store.spad a = memGet s.me.store.spad a

/-- R93, R94, R97: LD of n bytes at off = base plus index or offset, a multiple of n, inside the scratchpad, not held by a range or lease, no word
uncorrectable: g[D] gets the little-endian value, sign- or zero-extended. ST under the same conditions (an uncorrectable word does not hold
it) stores the low n bytes at off: byte k of the value at off + k, every other byte of the scratchpad and of HBM, and all else of the
tile's store but the check bits of the words it writes, as before. A correctable error of a word that LD reads or ST writes in part is
corrected and counted (R468, R469). -/
def Sys2Proof.Machine.ScratchpadLoadAndStore : Prop :=
  (∀ (sg : Bool) (w : Width) (d : Fin 32) (m : MemOp) (sy : Sync) (s : State) (tv : Word64),
    Passes (.ld sg w d m sy) s tv [] →
    let off := ((s.withTv tv).memAddr m).toNat
    let n := w.bits / 8
    off % n = 0 → off + n ≤ spadBytes → spadHeld s off n false = false → spadBadAt s.me.store off n = none →
    let x : Nat := (List.range n).foldr (fun k a => (memGet s.me.store.spad (off + k)).toNat + 256 * a) 0
    ∃ t, exec (.ld sg w d m sy) s = .next t ∧ RegsOnly (s.spadSeen [(off, n)]) t sy (syncPost s sy) ∧
      t.regs = loopNext (s.regs.writeG d
        (if sg then (BitVec.ofNat w.bits x).signExtend 64 else BitVec.ofNat 64 x)) s.pc) ∧
  (∀ (w : Width) (m : MemOp) (c : GSrc) (sy : Sync) (s : State) (tv : Word64),
    Passes (.st w m c sy) s tv [] →
    let off := ((s.withTv tv).memAddr m).toNat
    let n := w.bits / 8
    off % n = 0 → off + n ≤ spadBytes → spadHeld s off n true = false →
    ∃ t, exec (.st w m c sy) s = .next t ∧ SameRest (countSoft s s.cur.tile (softWrite s.me.store [(off, n)])) t ∧
      TokensMoved s t sy (syncPost s sy) ∧ t.me.eng = s.me.eng ∧
      t.regs = loopNext s.regs s.pc ∧
      (∀ k, k < n → memGet t.me.store.spad (off + k) = ((s.withTv tv).src c).extractLsb' (8 * k) 8) ∧
      spadSameBut s t off n ∧
      t.me.store = { s.me.store with spad := t.me.store.spad, spadBad := t.me.store.spadBad, spadSoft := t.me.store.spadSoft } ∧
      (∀ word, word ∈ t.me.store.spadBad ↔ word ∈ s.me.store.spadBad ∧ ¬(off ≤ 4 * word ∧ 4 * word + 4 ≤ off + n)) ∧
      ∀ word, word ∈ t.me.store.spadSoft ↔ word ∈ s.me.store.spadSoft ∧ ¬(off < 4 * word + 4 ∧ 4 * word < off + n))

/-- R94, R115, R316, R469: what holds or stops LD and ST, in this order: an address not a multiple of n raises ALIGN, one past the scratchpad
SCRATCH_RANGE, a range or lease of an operation stalls it, and an uncorrectable word that LD reads raises MEM_UNCORRECTED. -/
def Sys2Proof.Machine.ScratchpadAccessChecks : Prop :=
  ∀ (store : Bool) (sg : Bool) (w : Width) (d : Fin 32) (m : MemOp) (c : GSrc) (sy : Sync) (s : State) (tv : Word64),
    let i : Instr := if store then .st w m c sy else .ld sg w d m sy
    Passes i s tv [] →
    let va := (s.withTv tv).memAddr m
    let off := va.toNat
    let n := w.bits / 8
    (off % n ≠ 0 → exec i s = .next (takeTrap s { cause := 0x12, info := va.setWidth 32, akind := 2, addr := va })) ∧
    (off % n = 0 → spadBytes < off + n →
      exec i s = .next (takeTrap s { cause := 0x14, info := va.setWidth 32, akind := 2, addr := va })) ∧
    (off % n = 0 → off + n ≤ spadBytes → spadHeld s off n store = true → exec i s = .next (markStall s .spad)) ∧
    (store = false → off % n = 0 → off + n ≤ spadBytes → spadHeld s off n false = false → ∀ b, spadBadAt s.me.store off n = some b →
      exec i s = .next (takeTrap s { cause := 0x20, info := BitVec.ofNat 32 (b % 2 ^ 25), akind := 2, addr := BitVec.ofNat 64 b }))

/-- A scalar global access of this core that is performed at a home of this module at once (R96, R276, R279, R284): no earlier access of the context is
outstanding, nor must it wait for one on an SO page (R300), a service context's address is not its firmware's, the address is aligned,
translates to page `p` in state `x` (which may only have cached translations more), no check refuses it, the home's HBM byte is `idx`,
reachable, and its sector can be read. -/
structure Sys2Proof.Machine.LocalAccess (s : State) (k : AccKind) (va : Word64) (n idx : Nat) (p : Page) (x : State) : Prop where
  free : (s.myCore.remote.filter fun r => r.ctx == s.cur.ctx) = none
  order : soHeld s k va n = false
  plain : s.cur.ctx = .user ∨ s.hk.fw = none
  aligned : va.toNat % n = 0
  xlate : translate (newTag s).2 (dieOf s.cur.tile).val (tileJob s.me) va.toNat = (.page p, x)
  allowed : accessCause x (tileJob s.me) k n false p = none
  home : ∃ h, targetOf x p.pa = .hbm h ∧ idx = hbmIndex p.striped h
  path : rafterOk x (dieOf s.cur.tile).val (dieOfIdx idx) = true
  ready : homeReady x (idx / 64) = none
  good : sectorOk x (idx / 64) p = true

/-- The value a local access reads: the n bytes at `idx`, lowest first; zeros where an encrypted page was never written (R463). -/
def Sys2Proof.Machine.ruleHomeValue (x : State) (p : Page) (idx n : Nat) : Nat :=
  if readsZero x (idx / 64) p then 0
  else (List.range n).foldr (fun k a => (memGet x.hbm (idx + k)).toNat + 256 * a) 0

/-- What a local global access leaves: all tiles but the acting one, HBM but `n` bytes at `idx` (and a never-written encrypted sector, which is zero
filled), the record of every other sector and the counters of every other page (a write to an encrypted page counts in its sector's counter, in HBM
and under the root of its stack's tree alike, and re-encrypts the page when that wraps, R289), and every unit but the cached translations, the
tag counter and the corrections that the walk and the sector had (R284, R468); a page whose counter block the access used is a verified one. -/
structure Sys2Proof.Machine.GlobalFrame (s t : State) (x : State) (p : Page) (idx n : Nat) : Prop where
  tiles : ∀ k, k ≠ s.cur.tile → t.tile k = s.tile k
  store : t.me.store = s.me.store
  eng : t.me.eng = s.me.eng
  tile : SameTileRest s.cur.stream s.me t.me
  core : SameCoreRest s.cur.ctx s.myCore t.myCore
  hbm : ∀ a, ¬(idx ≤ a ∧ a < idx + n) →
    memGet t.hbm a = if n ≠ 0 ∧ readsZero x (idx / 64) p ∧ a / 64 = idx / 64 then 0 else memGet s.hbm a
  sectors : ∀ k, n = 0 ∨ (k ≠ idx / 64 ∧ (schemeOf p ≠ 2 ∨ k / 64 ≠ idx / 4096 ∨ ((ctrsOf x (idx / 64)).minor (idx / 64)).toNat ≠ 127)) →
    smGet Sector.fresh k t.sectors = smGet Sector.fresh k s.sectors
  pages : ∀ k, n = 0 ∨ schemeOf p ≠ 2 ∨ k ≠ idx / 4096 → smGet PageCtr.fresh k t.pages = smGet PageCtr.fresh k s.pages
  counted : n ≠ 0 → schemeOf p = 2 →
    ((smGet PageCtr.fresh (idx / 4096) t.pages).minor (idx / 64)).toNat = (((ctrsOf x (idx / 64)).minor (idx / 64)).toNat + 1) % 128 ∧
    smGet PageCtr.fresh (idx / 4096) t.sec.roots = smGet PageCtr.fresh (idx / 4096) t.pages
  roots : ∀ k, n = 0 ∨ schemeOf p ≠ 2 ∨ k ≠ idx / 4096 → smGet PageCtr.fresh k t.sec.roots = smGet PageCtr.fresh k s.sec.roots
  vouched : ∀ k, k ∈ t.sec.vouched ↔ k ∈ s.sec.vouched ∨ (schemeOf p = 2 ∧ k = idx / 4096)
  disp : t.disp = { s.disp with tlb := t.disp.tlb }
  fab : t.fab = { s.fab with nextTag := t.fab.nextTag }
  sec : t.sec = { s.sec with touched := true, roots := t.sec.roots, vouched := t.sec.vouched }
  rest : t.host = s.host ∧ t.time = s.time ∧ t.gang = s.gang ∧ t.hk = s.hk
  ctrs : t.ctrs =
    (countFix (checkedSector x (idx / 64) p) idx (if n ≠ 0 ∧ schemeOf p = 2 then (reencFixes x (idx / 64)).length else 0)).ctrs

/-- R95, R97, R284: LDG of a word at a home of this module writes its value, extended, into g[D]; STG writes its n bytes there, and only those. -/
def Sys2Proof.Machine.GlobalLoadAndStore : Prop :=
  (∀ (sg : Bool) (w : Width) (o : Order) (sc : Scope) (d : Fin 32) (m : MemOp) (sy : Sync) (s : State) (tv : Word64)
      (idx : Nat) (p : Page) (x : State),
    Passes (.ldg sg w o sc d m sy) s tv [] →
    let va := (s.withTv tv).memAddr m
    let n := w.bits / 8
    LocalAccess (s.withTv tv) .load va n idx p x →
    let v := ruleHomeValue x p idx n
    ∃ t, exec (.ldg sg w o sc d m sy) s = .next t ∧ GlobalFrame s t x p idx 0 ∧ TokensMoved s t sy (syncPost s sy) ∧
      t.regs = loopNext (s.regs.writeG d (if sg then (BitVec.ofNat w.bits v).signExtend 64 else BitVec.ofNat 64 v)) s.pc) ∧
  (∀ (w : Width) (o : Order) (sc : Scope) (m : MemOp) (c : GSrc) (sy : Sync) (s : State) (tv : Word64)
      (idx : Nat) (p : Page) (x : State),
    Passes (.stg w o sc m c sy) s tv [] →
    let va := (s.withTv tv).memAddr m
    let n := w.bits / 8
    LocalAccess (s.withTv tv) .store va n idx p x →
    ∃ t, exec (.stg w o sc m c sy) s = .next t ∧ GlobalFrame s t x p idx n ∧ TokensMoved s t sy (syncPost s sy) ∧
      t.regs = loopNext s.regs s.pc ∧
      ∀ k, k < n → memGet t.hbm (idx + k) = ((s.withTv tv).src c).extractLsb' (8 * k) 8)

/-- The new word of the integer ATOM operations, old word m and operand c of w bits (R99-R101). -/
def Sys2Proof.Machine.ruleAtom (op : AtomOp) (w : Nat) (m c : BitVec w) : Option (BitVec w) :=
  match op with
  | .add => some (m + c)
  | .fadd => none
  | .and => some (m &&& c)
  | .or => some (m ||| c)
  | .xor => some (m ^^^ c)
  | .swap => some c
  | .smin => some (if m.sle c then m else c)
  | .smax => some (if c.sle m then m else c)
  | .zmin => some (if m.ule c then m else c)
  | .zmax => some (if c.ule m then m else c)
  | .amax =>
    let key := fun (v : BitVec w) => v.toNat / 2 ^ 32
    let idx := fun (v : BitVec w) => v.toNat % 2 ^ 32
    some (if key m < key c ∨ (key c = key m ∧ idx c < idx m) then c else m)
  | .arrive =>
    let count := m.toNat % 2 ^ 32
    let size := m.toNat / 2 ^ 32 % 2 ^ 31
    some (if 2 ≤ count then m - 1
      else BitVec.ofNat w ((if m.getLsbD 63 then 0 else 2 ^ 63) + size * 2 ^ 32 + size))

/-- R98-R103: ATOM at a home of this module returns the old word, zero-extended, and stores the operation's result in its n bytes; ACAS stores only if
the old word equals its expected value, and then stores the operand. .fadd stores the .f32 sum of the old word and the operand, rounded to nearest even
(R99, R125). -/
def Sys2Proof.Machine.AtomicAtHome : Prop :=
  (∀ (op : AtomOp) (dw : Bool) (o : Order) (sc : Scope) (d : Fin 32) (m : MemOp) (c : GSrc) (sy : Sync) (s : State) (tv : Word64)
      (idx : Nat) (p : Page) (x : State),
    Passes (.atom op dw o sc d m c sy) s tv [] →
    let n := if dw then 8 else 4
    LocalAccess (s.withTv tv) .rmw ((s.withTv tv).memAddr m) n idx p x →
    let old := ruleHomeValue x p idx n
    ∃ t, exec (.atom op dw o sc d m c sy) s = .next t ∧ GlobalFrame s t x p idx n ∧ TokensMoved s t sy (syncPost s sy) ∧
      t.regs = loopNext (s.regs.writeG d (BitVec.ofNat 64 old)) s.pc ∧
      (∀ new, ruleAtom op (8 * n) (BitVec.ofNat _ old) (((s.withTv tv).src c).setWidth _) = some new →
        ∀ k, k < n → memGet t.hbm (idx + k) = new.extractLsb' (8 * k) 8) ∧
      (op = .fadd → ∃ (new : BitVec 32) (fl : FFlags), SumIs ruleF32 Rnd.near false old (((s.withTv tv).src c).toNat % 2 ^ 32) (new.toNat, fl) ∧
        ∀ k, k < 4 → memGet t.hbm (idx + k) = new.extractLsb' (8 * k) 8)) ∧
  (∀ (dw : Bool) (o : Order) (sc : Scope) (d : Fin 32) (a b c : GSrc) (imm : BitVec 32) (sy : Sync) (s : State) (tv : Word64)
      (idx : Nat) (p : Page) (x : State),
    Passes (.acas dw o sc d a b c imm sy) s tv [] →
    let n := if dw then 8 else 4
    LocalAccess (s.withTv tv) .rmw ((s.withTv tv).src a + imm.signExtend 64) n idx p x →
    let old := ruleHomeValue x p idx n
    ∃ t, exec (.acas dw o sc d a b c imm sy) s = .next t ∧
      GlobalFrame s t x p idx (if old = ((s.withTv tv).src b).toNat % 2 ^ (8 * n) then n else 0) ∧ TokensMoved s t sy (syncPost s sy) ∧
      t.regs = loopNext (s.regs.writeG d (BitVec.ofNat 64 old)) s.pc ∧
      (old = ((s.withTv tv).src b).toNat % 2 ^ (8 * n) →
        ∀ k, k < n → memGet t.hbm (idx + k) = ((s.withTv tv).src c).extractLsb' (8 * k) 8))

/-- R106, R107, R108: WAITF at a home of this module: where the masked word meets the condition against the masked comparand the old word is in g[D];
otherwise the stream keeps waiting before acceptance, in a declared idle wait when it says so, and nothing is written. C = g0 masks nothing. -/
def Sys2Proof.Machine.WaitfTestsFlag : Prop :=
  ∀ (c : FlagCond) (idle dw acq : Bool) (sc : Scope) (d : Fin 32) (a : GSrc) (b : SrcLit) (m : GSrc) (sy : Sync) (s : State) (tv : Word64)
      (idx : Nat) (p : Page) (x : State),
    let i : Instr := .waitf c idle dw acq sc d a b m sy
    Passes i s tv [] →
    let n := if dw then 8 else 4
    LocalAccess (s.withTv tv) .waitf ((s.withTv tv).src a) n idx p x →
    let old := ruleHomeValue x p idx n
    let mask : Nat := if m = .g 0 then 2 ^ (8 * n) - 1 else ((s.withTv tv).src m).toNat % 2 ^ (8 * n)
    let k : Nat := (match b with | .reg r => ((s.withTv tv).src r).toNat | .lit v => v.toNat) % 2 ^ (8 * n)
    let holds := match c with
      | .eq => old &&& mask = k &&& mask
      | .ne => old &&& mask ≠ k &&& mask
      | .hs => k &&& mask ≤ old &&& mask
      | .lo => old &&& mask < k &&& mask
    (holds → ∃ t, exec i s = .next t ∧ GlobalFrame s t x p idx 0 ∧ TokensMoved s t sy (syncPost s sy) ∧
      t.regs = loopNext (s.regs.writeG d (BitVec.ofNat 64 old)) s.pc) ∧
    (¬ holds → ∃ t, exec i s = .next t ∧ t.regs = s.regs ∧ t.me.queues = s.me.queues ∧ (∀ a, memGet t.hbm a = memGet s.hbm a) ∧
      t.me.store = s.me.store ∧ (s.cur.ctx = .user → t.myCore.stall = some (if idle then .idleWait else .held)))

/-- What acceptance of an asynchronous instruction leaves and takes (R42, R72, R148): the wait's heads leave, a slot is reserved in each queue of its post,
`eng` are the engines with it, the store stays but for the record cache, and nothing outside the tile changes but cached translations, the
mark of an HBM access, the verified counter blocks, the corrections counted as a record is read, and the tag counter. -/
structure Sys2Proof.Machine.Accepted (s t : State) (sy : Sync) (eng : Engines) : Prop where
  eng : t.me.eng = { eng with order := s.me.eng.order + 1 }
  store : t.me.store = { s.me.store with recs := t.me.store.recs }
  tile : SameTileRest s.cur.stream s.me t.me
  core : SameCoreRest s.cur.ctx s.myCore t.myCore
  tokens : t.me.queues = (reservePost (popWait s.me s.cur.stream sy.wait) s.cur.stream (pendPost s sy)).queues
  tiles : ∀ k, k ≠ s.cur.tile → t.tile k = s.tile k
  hbm : ∀ a, memGet t.hbm a = memGet s.hbm a
  disp : t.disp = { s.disp with tlb := t.disp.tlb }
  fab : t.fab = { s.fab with nextTag := t.fab.nextTag }
  sec : t.sec = { s.sec with touched := t.sec.touched, vouched := t.sec.vouched }
  rest : t.sectors = s.sectors ∧ t.pages = s.pages ∧ t.host = s.host ∧ t.time = s.time ∧ t.gang = s.gang ∧ t.hk = s.hk
  ctrs : t.ctrs = { s.ctrs with cnt := t.ctrs.cnt }

/-- What an accepted operation keeps (R368): its stream and context, acceptance number, word, post, stochastic state, rounding mode and issue-time
registers; it has raised no flag and no fault. -/
def Sys2Proof.Machine.KeptAtIssue (s : State) (i : Instr) (mode : BitVec 3) (ra rb rc rf : Word64) (o : OpInfo) : Prop :=
  o = { stream := s.cur.stream, ctx := s.cur.ctx, order := s.me.eng.order, word := (encode i).getD 0, post := pendPost s (syncOf i),
        seed := s.regs.seed, ctr := s.regs.srctr, mode := mode, ra := ra, rb := rb, rc := rc, rf := rf, flags := 0, fault := none }

/-- An operation newly at the end of channel `ch`: nothing of it has happened yet (R308). -/
def Sys2Proof.Machine.NewOnChannel (s t : State) (i : Instr) (ch : Fin 8) (store : Bool) (layout : List Byte) (ra rb rc rf : Word64) : Prop :=
  ∃ o : XferOp,
    Accepted s t (syncOf i) (s.me.setChan store ch { s.me.chan store ch with ops := (s.me.chan store ch).ops ++ [o] }).eng ∧
    KeptAtIssue s i s.regs.round ra rb rc rf o.info ∧ o.inst = i ∧ o.ch = ch ∧ o.layout = layout ∧ o.started = false ∧ o.done = [] ∧
    o.out = [] ∧ o.air = [] ∧ o.arrived = [] ∧ o.bad = [] ∧ o.came = [] ∧ o.maq = [] ∧ o.maqTo = [] ∧ o.prefixBytes = 0 ∧ o.cancel = false ∧
    o.stag ≠ 0 ∧
    o.flag = (match i with
      | .dst _ (some _) _ => .waiting | .dstx _ (some _) _ => .waiting | .dred _ (some _) _ => .waiting | .rput _ (some _) _ => .waiting
      | .rflag _ _ _ _ _ _ => .waiting | _ => .none)

/-- The linear transfers, DFILL, DPF and RFLAG (R322, R325-R328): the channel, and whether it is the store core's. -/
def Sys2Proof.Machine.linearChan : Instr → Option (Fin 8 × Bool)
  | .dcpy x _ => some (x.ch, false)
  | .rget x _ => some (x.ch, false)
  | .dstl x _ => some (x.ch, true)
  | .rput x _ _ => some (x.ch, true)
  | .dfill x _ => some (x.ch, true)
  | .dpf ch _ _ _ _ => some (ch, false)
  | .rflag ch _ _ _ _ _ => some (ch, true)
  | _ => none

/-- The registers that they keep as read at issue, in the order of REGS (R368): address, offset, length, flag; an RFLAG's address and value; a DPF's
base. -/
def Sys2Proof.Machine.linearRegs (s : State) : Instr → Word64 × Word64 × Word64 × Word64
  | .dcpy x _ => (s.src x.base, s.src x.off, s.src x.len, 0)
  | .rget x _ => (s.src x.base, s.src x.off, s.src x.len, 0)
  | .dstl x _ => (s.src x.base, s.src x.off, s.src x.len, 0)
  | .rput x f _ => (s.src x.base, s.src x.off, s.src x.len, match f with | some f => s.readG f.reg | none => 0)
  | .dfill x _ => (s.src x.base, s.src x.off, s.src x.len, 0)
  | .dpf _ base _ _ _ => (s.src base, 0, 0, 0)
  | .rflag _ _ _ a b _ => (s.src a, match b with | .reg r => s.src r | .lit v => v.setWidth 64, 0, 0)
  | _ => (0, 0, 0, 0)

/-- The conditions of R325, R326 and R328 on their operands: an aligned flag, a range inside the scratchpad, a DFILL of fewer than 2^48 bytes. -/
def Sys2Proof.Machine.linearMay (s : State) : Instr → Prop
  | .dcpy x _ => (s.src x.off).toNat + (s.src x.len).toNat ≤ spadBytes
  | .rget x _ => (s.src x.off).toNat + (s.src x.len).toNat ≤ spadBytes
  | .dstl x _ => (s.src x.off).toNat + (s.src x.len).toNat ≤ spadBytes
  | .rput x f _ => (∀ y, f = some y → (s.readG y.reg).toNat % 8 = 0) ∧ (s.src x.off).toNat + (s.src x.len).toNat ≤ spadBytes
  | .dfill x _ => (s.src x.len).toNat < 2 ^ 48
  | .rflag _ _ _ a _ _ => (s.src a).toNat % 8 = 0
  | _ => True

/-- R308, R322, R325-R328, R368: DCPY RGET DSTL RPUT DFILL DPF RFLAG are accepted onto their channel when it has fewer than four operations and the tile
fewer than 32, once their alignment and range hold; otherwise, with those holding, they stall before acceptance. -/
def Sys2Proof.Machine.LinearTransferAccepted : Prop :=
  ∀ (i : Instr) (s : State) (tv : Word64) (ch : Fin 8) (store : Bool),
    linearChan i = some (ch, store) → Passes i s tv [] → linearMay (s.withTv tv) i →
    let r := linearRegs (s.withTv tv) i
    ((s.me.chan store ch).ops.length < 4 → asyncCount s.me < 32 →
      ∃ t, exec i s = .next t ∧ NewOnChannel s t i ch store [] r.1 r.2.1 r.2.2.1 r.2.2.2 ∧ t.regs = loopNext s.regs s.pc) ∧
    ((4 ≤ (s.me.chan store ch).ops.length ∨ 32 ≤ asyncCount s.me) → exec i s = .next (markStall s .blocked))

/-- The checked record of a transfer (R310, R312): in the tile's cache under its address and version, or read now at a home of this module and sealed,
of the version asked for. -/
def Sys2Proof.Machine.RecordFound (s : State) (a : Word64) (ver : BitVec 16) (bs : List Byte) : Prop :=
  recFind s.me a ver = some bs ∨
  recFind s.me a ver = none ∧ ∃ idx p x, LocalAccess s .record a 64 idx p x ∧
    bs = (if readsZero x (idx / 64) p then zeros 64 else memRead x.hbm idx 64) ∧
    sealOk bs 64 = true ∧ (ver = 0 ∨ fieldAt bs 0 2 = ver.toNat)

/-- The record transfers (R322-R324): the channel, and whether it is the store core's. -/
def Sys2Proof.Machine.recordChan : Instr → Option (Fin 8 × Bool)
  | .dld x _ => some (x.ch, false)
  | .dst x _ _ => some (x.ch, true)
  | .dred x _ _ => some (x.ch, true)
  | .dldx x _ => some (x.ch, false)
  | .dstx x _ _ => some (x.ch, true)
  | _ => none

/-- The address of the record and the version asked for. -/
def Sys2Proof.Machine.recordAt (s : State) : Instr → Word64 × BitVec 16
  | .dld x _ => (s.src x.base + x.imm.signExtend 64, x.ver)
  | .dst x _ _ => (s.src x.base + x.imm.signExtend 64, x.ver)
  | .dred x _ _ => (s.src x.base + x.imm.signExtend 64, x.ver)
  | .dldx x _ => (s.src x.base, x.ver)
  | .dstx x _ _ => (s.src x.base, x.ver)
  | _ => (0, 0)

/-- The value of the flag register, if there is a flag (R326). -/
def Sys2Proof.Machine.flagReg (s : State) : Option FlagSpec → Word64
  | some f => s.readG f.reg
  | none => 0

/-- The registers that they keep as read at issue, in the order of REGS (R368): record base, offset, list, flag. -/
def Sys2Proof.Machine.recordRegs (s : State) : Instr → Word64 × Word64 × Word64 × Word64
  | .dld x _ => (s.src x.base, s.src x.off, 0, 0)
  | .dst x f _ => (s.src x.base, s.src x.off, 0, flagReg s f)
  | .dred x f _ => (s.src x.base, s.src x.off, 0, flagReg s f)
  | .dldx x _ => (s.src x.base, s.src x.off, s.src x.list, 0)
  | .dstx x f _ => (s.src x.base, s.src x.off, s.src x.list, flagReg s f)
  | _ => (0, 0, 0, 0)

/-- The conditions of R323 on a tensor transfer and its record's bytes. -/
def Sys2Proof.Machine.tensorMay (s : State) (bs : List Byte) (x : RecXfer) (f : Option FlagSpec) : Prop :=
  (s.src x.base + x.imm.signExtend 64).toNat % 64 = 0 ∧ (s.src x.off).toNat % 64 = 0 ∧ (flagReg s f).toNat % 8 = 0 ∧
  (s.src x.off).toNat + tensorBytes (layOf bs) ≤ spadBytes

/-- The conditions of R324 on an index-list transfer and its record's bytes. -/
def Sys2Proof.Machine.slicesMay (s : State) (bs : List Byte) (x : ListXfer) (f : Option FlagSpec) : Prop :=
  1 ≤ x.count.toNat ∧ x.count.toNat ≤ 4096 ∧ (s.src x.base).toNat % 64 = 0 ∧
  (s.src x.list).toNat % 4 = 0 ∧ (flagReg s f).toNat % 8 = 0 ∧ (s.src x.list).toNat + 4 * x.count.toNat ≤ spadBytes ∧
  (layOf bs).sliceCount * (layOf bs).ws % 8 = 0 ∧ ((layOf bs).bsc = true → (layOf bs).sliceCount % 32 = 0) ∧
  (s.src x.off).toNat + sliceBytes (layOf bs) x.count.toNat ≤ spadBytes

/-- The conditions on operands and record of each form. -/
def Sys2Proof.Machine.recordMay (s : State) (bs : List Byte) : Instr → Prop
  | .dld x _ => layBad bs false = none ∧ tensorMay s bs x none
  | .dst x f _ => layBad bs false = none ∧ tensorMay s bs x f
  | .dred x f _ => layBad bs true = none ∧ tensorMay s bs x f
  | .dldx x _ => layBad bs false = none ∧ slicesMay s bs x none
  | .dstx x f _ => layBad bs false = none ∧ slicesMay s bs x f
  | _ => False

/-- R308, R310-R313, R322-R324, R343: DLD DST DRED DLDX DSTX are accepted onto their channel with their checked record, which meets the rules of R312
(a DRED's must name a maquette), when alignment, range and room hold; one whose record names a maquette takes one value of the stochastic
counter. -/
def Sys2Proof.Machine.RecordTransferAccepted : Prop :=
  ∀ (i : Instr) (s : State) (tv : Word64) (bs : List Byte) (ch : Fin 8) (store : Bool),
    recordChan i = some (ch, store) → Passes i s tv [] → recordMay (s.withTv tv) bs i →
    RecordFound (s.withTv tv) (recordAt (s.withTv tv) i).1 (recordAt (s.withTv tv) i).2 bs → bs ≠ [] →
    (s.me.chan store ch).ops.length < 4 → asyncCount s.me < 32 →
    let r := recordRegs (s.withTv tv) i
    ∃ t, exec i s = .next t ∧ NewOnChannel s t i ch store bs r.1 r.2.1 r.2.2.1 r.2.2.2 ∧
      t.regs = loopNext (if (layOf bs).maq = 0 then s.regs else { s.regs with srctr := s.regs.srctr + 1 }) s.pc

/-- R331: CFENCE is accepted while the tile holds fewer than 32 operations; it joins the operations that its stream's channels of the mask hold then. -/
def Sys2Proof.Machine.CfenceAccepted : Prop :=
  ∀ (mask : BitVec 8) (sy : Sync) (s : State) (tv : Word64),
    Passes (.cfence mask sy) s tv [] → asyncCount s.me < 32 →
    ∃ t c, exec (.cfence mask sy) s = .next t ∧ Accepted s t sy { s.me.eng with cf := s.me.eng.cf ++ [c] } ∧ c.mask = mask ∧
      KeptAtIssue s (.cfence mask sy) s.regs.round 0 0 0 0 c.info ∧ t.regs = loopNext s.regs s.pc

/-- R329, R330, R332: CHWM and CHSTAT write g[D] only, CHSTAT the counts, the fault, the remote piece and the stalls of the oldest operation; CHWAIT
issues once its channel is idle or its watermark reached, and else stalls; CHCAN of a channel whose operations have all stopped empties it and
counts them, releasing their reserved posts, and else tells every one to stop. For a service context in share mode beside a task, which changes
no state of the user context (R161), the operations meant are those of service contexts (log entry 27). -/
def Obligations.ChannelInquiryAndCancel : Prop :=
  (∀ (d : Fin 32) (ch : Fin 8) (sy : Sync) (s : State) (tv : Word64), Passes (.chwm d ch sy) s tv [] →
    let ops := (s.me.chan (s.cur.stream == .store) ch).ops
    ∃ t, exec (.chwm d ch sy) s = .next t ∧ RegsOnly s t sy (syncPost s sy) ∧
      t.regs = loopNext (s.regs.writeG d (match ops with
        | [] => BitVec.allOnes 64
        | o :: _ => if hasRange o.inst then BitVec.ofNat 64 (o.wm s.me.store) else 0x02000000)) s.pc) ∧
  (∀ (d : Fin 32) (ch : Fin 8) (sy : Sync) (s : State) (tv : Word64), Passes (.chstat d ch sy) s tv [] →
    let c := s.me.chan (s.cur.stream == .store) ch
    let bit := fun (b : XferOp → Bool) => (match c.ops with | [] => 0 | o :: _ => if b o then 1 else 0 : Nat)
    ∃ t, exec (.chstat d ch sy) s = .next t ∧ RegsOnly s t sy (syncPost s sy) ∧
      t.regs = loopNext (s.regs.writeG d (BitVec.ofNat 64
        (c.ops.length + bit (fun o => (chanStalls s.me o).2) * 2 ^ 4 + bit (fun o => (chanStalls s.me o).1) * 2 ^ 5 +
          bit (fun o => o.started && o.out != []) * 2 ^ 6 + bit (fun o => o.info.fault.isSome) * 2 ^ 7 + c.retired.toNat * 2 ^ 16))) s.pc) ∧
  (∀ (ch : Fin 8) (f : ChwaitForm) (sy : Sync) (s : State) (tv : Word64), Passes (.chwait ch f sy) s tv [] →
    let c := s.me.chan (s.cur.stream == .store) ch
    let met := c.ops = [] ∨ ∃ v, f = .wm v ∧ ((s.withTv tv).srcZ v).toNat ≤ (chwmVal s.me c).toNat
    (met → ∃ t, exec (.chwait ch f sy) s = .next t ∧ RegsOnly s t sy (syncPost s sy) ∧ t.regs = loopNext s.regs s.pc) ∧
    (¬ met → exec (.chwait ch f sy) s = .next (markStall s .blocked))) ∧
  (∀ (d : Fin 32) (ch : Fin 8) (sy : Sync) (s : State) (tv : Word64), Passes (.chcan d ch sy) s tv [] →
    let store := s.cur.stream == .store
    let c := s.me.chan store ch
    let shared := s.cur.ctx = .service ∧ s.myCore.v.mode = .share ∧ s.me.task.isSome = true
    let mine := c.ops.filter fun o => decide (¬ shared ∨ o.info.ctx = .service)
    (mine.all (opStopped s.me) = true →
      let freed := mine.foldl (fun y o => releasePost y o.info.stream o.info.post) s.me
      ∃ t, exec (.chcan d ch sy) s = .next t ∧ t.regs = loopNext (s.regs.writeG d (BitVec.ofNat 64 mine.length)) s.pc ∧
        t.me.eng = (s.me.setChan store ch { c with ops := c.ops.filter fun o => decide (shared ∧ o.info.ctx = .user) }).eng ∧
        t.me.store = s.me.store ∧ SameTileRest s.cur.stream s.me t.me ∧
        t.me.queues = (makePosts (popWait freed s.cur.stream sy.wait) s.cur.stream (syncPost s sy)).queues ∧
        SameCoreRest s.cur.ctx s.myCore t.myCore ∧ SameOutside s t) ∧
    (mine.all (opStopped s.me) = false →
      ∃ t, exec (.chcan d ch sy) s = .next t ∧ t.regs = s.regs ∧ t.me.queues = s.me.queues ∧ t.me.store = s.me.store ∧
        t.me.eng = (s.me.setChan store ch { c with ops := c.ops.map fun o => if shared → o.info.ctx = .service then { o with cancel := true } else o }).eng ∧
        SameTileRest s.cur.stream s.me t.me ∧ SameOutside s t))

/-- Way `w` of a key's set holds the key (R293, R294). -/
def Sys2Proof.Machine.tagHolds (m : SMap Word64) (k : Nat) (w : Nat) : Prop :=
  let e := smGet 0 (16 * tagSet k + w) m
  e.getLsbD 63 = true ∧ e.toNat % 2 ^ 48 = k

/-- R293, R294: TLOOK of a key that a way holds writes that way (the lowest) and its slot and sets the predicate; of one that none holds it writes all
ones in 31:0 and clears it. TDEL does the same and empties the way. Without a tag table they raise ILLEGAL. -/
def Sys2Proof.Machine.TagLookupAndDelete : Prop :=
  ∀ (del : Bool) (d : Fin 32) (p : Fin 8) (a : GSrc) (sy : Sync) (s : State) (tv : Word64),
    let i : Instr := if del then .tdel d p a sy else .tlook d p a sy
    Passes i s tv [] →
    let k := ((s.withTv tv).src a).toNat % 2 ^ 48
    let m := s.me.store.tags
    ((tagTable s.me).isSome = true →
      (∀ w, w < 16 → tagHolds m k w → (∀ v, v < w → ¬ tagHolds m k v) →
        ∃ t, exec i s = .next t ∧
          StoreBecomes s t sy (syncPost s sy)
            (if del then { s.me.store with tags := smErase (16 * tagSet k + w) m } else s.me.store) ∧
          t.regs = loopNext ((s.regs.writeG d
            (BitVec.ofNat 64 ((smGet 0 (16 * tagSet k + w) m).toNat / 2 ^ 48 % 2 ^ 15 + w * 2 ^ 32))).writeP p true) s.pc) ∧
      ((∀ w, w < 16 → ¬ tagHolds m k w) →
        ∃ t, exec i s = .next t ∧ RegsOnly s t sy (syncPost s sy) ∧
          t.regs = loopNext ((s.regs.writeG d 0xFFFFFFFF).writeP p false) s.pc)) ∧
    (tagTable s.me = none → exec i s = .next (takeTrap s { cause := 0x01, info := 0 }))

/-- R293, R294: TINS of a key with a slot below NSLOT returns the way's old entry, and afterwards that way alone holds the key, with the slot; the other
ways that did not hold it, and the other sets, are as they were. A slot of NSLOT or more raises ILLEGAL with the slot. -/
def Sys2Proof.Machine.TagInsertReplacesWay : Prop :=
  ∀ (d : Fin 32) (a : GSrc) (b : SrcLit) (c : GSrc) (sy : Sync) (s : State) (tv : Word64) (base lg : Nat),
    Passes (.tins d a b c sy) s tv [] → tagTable s.me = some (base, lg) →
    let k := ((s.withTv tv).src a).toNat % 2 ^ 48
    let sl : Word64 := match b with | .reg r => (s.withTv tv).src r | .lit v => v.setWidth 64
    let w := ((s.withTv tv).src c).toNat % 16
    let m := s.me.store.tags
    (sl.toNat < nslot base lg →
      ∃ t, exec (.tins d a b c sy) s = .next t ∧ StoreBecomes s t sy (syncPost s sy) { s.me.store with tags := t.me.store.tags } ∧
        t.regs = loopNext (s.regs.writeG d (smGet 0 (16 * tagSet k + w) m)) s.pc ∧
        (∀ v, v < 16 → (tagHolds t.me.store.tags k v ↔ v = w)) ∧
        (smGet 0 (16 * tagSet k + w) t.me.store.tags).toNat / 2 ^ 48 % 2 ^ 15 = sl.toNat ∧
        (∀ e, (e / 16 ≠ tagSet k ∨ (e % 16 ≠ w ∧ (smGet 0 e m).toNat % 2 ^ 48 ≠ k)) → smWf 0 m = true →
          smGet 0 e t.me.store.tags = smGet 0 e m)) ∧
    (nslot base lg ≤ sl.toNat → exec (.tins d a b c sy) s = .next (takeTrap s { cause := 0x01, info := sl.setWidth 32 }))

/-- What a feed instruction leaves: registers of its context, the store as given, and of the rest of the module the feeds alone. -/
structure Sys2Proof.Machine.FeedFrame (s t : State) (x : Store) (feeds : SMap Feed) : Prop where
  store : t.me.store = x
  eng : t.me.eng = s.me.eng
  tile : SameTileRest s.cur.stream s.me t.me
  core : SameCoreRest s.cur.ctx s.myCore t.myCore
  tiles : ∀ k, k ≠ s.cur.tile → t.tile k = s.tile k
  hbm : ∀ a, memGet t.hbm a = memGet s.hbm a
  disp : t.disp = { s.disp with feeds := feeds }
  rest : t.sectors = s.sectors ∧ t.pages = s.pages ∧ t.fab = s.fab ∧ t.host = s.host ∧ t.time = s.time ∧ t.gang = s.gang ∧ t.hk = s.hk ∧ t.sec = s.sec ∧
    t.ctrs = s.ctrs

/-- R266-R268: FEEDPOP takes the oldest record that no stalled FEEDPOP has been given (or the one given to it), puts its 64 bytes at the scratchpad offset
and its sequence number into g[D]; with no record the .try form writes all ones, and the plain form stalls, idle, behind the waiters. FEEDPEEK
puts record number b there without taking it, or writes all ones. -/
def Obligations.FeedPopAndPeek : Prop :=
  (∀ (try_ : Bool) (d : Fin 32) (a : GSrc) (sy : Sync) (s : State) (tv : Word64) (f : Nat),
    let i : Instr := .feedpop try_ d a sy
    let off := ((s.withTv tv).src a).toNat
    let x := s.feed f
    let me := s.cur.tile.val
    Passes i s tv [] → myFeed s = some f → off % 64 = 0 → off + 64 ≤ spadBytes →
    (∀ r, (x.mine me s.cur.ctx = none ∧ x.unassigned = some r) ∨
        (∃ w q, x.mine me s.cur.ctx = some w ∧ w.got = some q ∧ x.recs.find? (fun e => e.1 == q) = some r) →
      spadHeld s off 64 true = false →
      ∃ t, exec i s = .next t ∧
        FeedFrame s t (spadWrite s.me.store off r.2) (smSet Feed.reset f (x.take r.1 me s.cur.ctx) s.disp.feeds) ∧
        TokensMoved s t sy (syncPost s sy) ∧ t.regs = loopNext (s.regs.writeG d r.1) s.pc) ∧
    (x.mine me s.cur.ctx = none → x.unassigned = none → try_ = true →
      ∃ t, exec i s = .next t ∧ RegsOnly s t sy (syncPost s sy) ∧ t.regs = loopNext (s.regs.writeG d (BitVec.allOnes 64)) s.pc) ∧
    (x.mine me s.cur.ctx = none → x.unassigned = none → try_ = false →
      ∃ t, exec i s = .next t ∧ t.regs = s.regs ∧ t.me.queues = s.me.queues ∧ t.me.store = s.me.store ∧
        (t.feed f).waiters = addWaiter ⟨me, s.cur.ctx, s.time.clk, none⟩ x.waiters ∧ (t.feed f).recs = x.recs)) ∧
  (∀ (d : Fin 32) (a : GSrc) (b : SrcLit) (sy : Sync) (s : State) (tv : Word64) (f : Nat),
    let i : Instr := .feedpeek d a b sy
    let off := ((s.withTv tv).src a).toNat
    let n : Nat := match b with | .reg r => ((s.withTv tv).src r).toNat | .lit v => v.toNat
    Passes i s tv [] → myFeed s = some f → off % 64 = 0 → off + 64 ≤ spadBytes →
    (∀ r, (s.feed f).recs[n]? = some r → spadHeld s off 64 true = false →
      ∃ t, exec i s = .next t ∧ StoreBecomes s t sy (syncPost s sy) (spadWrite s.me.store off r.2) ∧
        t.regs = loopNext (s.regs.writeG d r.1) s.pc) ∧
    ((s.feed f).recs[n]? = none →
      ∃ t, exec i s = .next t ∧ RegsOnly s t sy (syncPost s sy) ∧ t.regs = loopNext (s.regs.writeG d (BitVec.allOnes 64)) s.pc))

/-- R264, R265: ENQ to a queue whose qcfg allows it for the task's job, with no outstanding access of the context. A queue not RUNNING clears the predicate
and nothing else. A RUNNING one whose ring answers `h` (write index, read index) as full clears it. Otherwise the 64 bytes of g8-g15, with
their seal under .seal, go to slot base + 64 + 64 × (index mod 2^SIZE), the index goes up by one, the queue is notified and the predicate
is true. A queue that forbids it raises PERMISSION with its number, and one on a die that no live Rafter path reaches raises FABRIC of sub-code 3 (R398). -/
def Obligations.EnqueuePutsPacket : Prop :=
  ∀ (reseal : Bool) (p : Fin 8) (q : SrcLit) (sy : Sync) (s : State) (tv : Word64),
    let i : Instr := .enq reseal p q sy
    Passes i s tv [] →
    let n : Nat := (match q with | .reg r => ((s.withTv tv).src r).toNat | .lit v => v.toNat) % 1024
    let u := s.uq n
    let tag := s.fab.nextTag
    let s1 := (newTag (s.withTv tv)).2
    let asker := dispAsker u.die u.job
    let ends := fun (s2 : State) (v : Bool) (t : State) =>
      t.regs = loopNext (s.regs.writeP p v) s.pc ∧ TokensMoved s t sy (syncPost s sy) ∧ t.me.store = s2.me.store ∧
      (∀ a, memGet t.hbm a = memGet s2.hbm a) ∧ (∀ k, k ≠ s.cur.tile → t.tile k = s2.tile k)
    (u.devenq = false ∨ u.job ≠ tileJob s.me →
      exec i s = .next (takeTrap s { cause := 0x11, info := BitVec.ofNat 32 n })) ∧
    (u.devenq = true → u.job = tileJob s.me → (s.myCore.remote.filter fun r => r.ctx == s.cur.ctx && r.kind == .enq) = none →
      rafterOk s (dieOf s.cur.tile).val u.die.val = false →
      exec i s = .next (takeTrap s { cause := 0x28, info := BitVec.ofNat 32 (u.die.val * 65536 + 3 * 256 + 8) })) ∧
    (u.devenq = true → u.job = tileJob s.me → (s.myCore.remote.filter fun r => r.ctx == s.cur.ctx && r.kind == .enq) = none →
      rafterOk s (dieOf s.cur.tile).val u.die.val = true →
      (u.state ≠ 1 → ∃ t, exec i s = .next t ∧ ends s false t ∧ t.uq n = u) ∧
      (u.state = 1 → enqBusy s n = false → ∀ h s2,
        farKeepRead s1 asker farEnq tag (4 * u.gen) .dispAny u.base.toNat 16 = .ok h s2 →
        let wr := fieldAt h 0 8
        let rd := fieldAt h 8 8
        ((wr + 2 ^ 64 - rd) % 2 ^ 64 = u.slots → ∃ t, exec i s = .next t ∧ ends s2 false t) ∧
        ((wr + 2 ^ 64 - rd) % 2 ^ 64 ≠ u.slots → ∀ b3 s3 b4 s4,
          let bytes := (List.range 8).flatMap fun k => leBytes 8 (s.readG (Fin.ofNat 32 (8 + k))).toNat
          farKeepWrite s2 asker farEnq tag (4 * u.gen + 1) .dispAny (u.base.toNat + 64 + 64 * (wr % u.slots))
            (if reseal then withSeal bytes 64 else bytes) = .ok b3 s3 →
          farKeepWrite s3 asker farEnq tag (4 * u.gen + 2) .dispAny u.base.toNat (leBytes 8 ((wr + 1) % 2 ^ 64)) = .ok b4 s4 →
          ∃ t, exec i s = .next t ∧ ends s4 true t ∧ (t.uq n).notified = true ∧ t.agenda = s4.agenda ++ [.event (.qnotify (queueId n))])))

/-! ### Vectors -/

namespace Sys2Proof.Machine

/-- Sources of a vector instruction that do not clash with a destination of `ds` registers at `d` (R170): each is disjoint from it, or, where allowed,
coincides with it. -/
def SourcesClear (d ds : Nat) (coin : Bool) (srcs : List VSrc) : Prop :=
  ∀ v ∈ srcs, v.base + v.span ≤ d ∨ d + ds ≤ v.base ∨ (coin = true ∧ v.base = d ∧ v.span = ds)

/-- A vector group of `n` registers at `d` with elements of `w` bits written: element p is `val p`, every other vector register, the rest of the tile's
store and everything else is as before, and the context's registers are `r` before the loop check. -/
structure GroupWritten (s t : State) (sy : Sync) (d n w : Nat) (val : Nat → Nat) (r : Regs) : Prop where
  rest : SameRest s t
  eng : t.me.eng = s.me.eng
  tokens : TokensMoved s t sy (syncPost s sy)
  store : t.me.store = { s.me.store with v := t.me.store.v }
  elems : ∀ p, p < n * (4096 / w) → laneOf ((List.range n).map fun k => t.vreg (d + k)) w p = val p
  others : ∀ k, k < 64 → (k < d ∨ d + n ≤ k) → t.vreg k = s.vreg k
  regs : t.regs = loopNext r s.pc

/-- Element `p` of the group of `n` registers at `r` (R165, R167). -/
def State.lane (s : State) (r : Fin 64) (n w p : Nat) : Nat := laneOf (s.group r n) w p

/-- Element `p` of the B operand (R180). -/
def ruleB (s : State) (w n : Nat) (b : VB) (p : Nat) : BitVec w :=
  match b with
  | .vec r => BitVec.ofNat w (s.lane r n w p)
  | .reg r => (s.src r).setWidth w
  | .lit v => v.setWidth w

/-- The integer rows with sources A and B (R190-R192) on w-bit elements. -/
def ruleVInt (i : Instr) : Option (VBin × ((w : Nat) → BitVec w → BitVec w → BitVec w)) :=
  let clamp := fun (sg : Bool) (w : Nat) (x : Int) =>
    if sg then BitVec.ofInt w (max (-(2 ^ (w - 1))) (min (2 ^ (w - 1) - 1) x)) else BitVec.ofInt w (max 0 (min (2 ^ w - 1) x))
  let val := fun (sg : Bool) (w : Nat) (x : BitVec w) => if sg then x.toInt else (x.toNat : Int)
  match i with
  | .vadd o _ => some (o, fun _ a b => a + b)
  | .vsub o _ => some (o, fun _ a b => a - b)
  | .vmul o _ => some (o, fun _ a b => a * b)
  | .vmulh o _ => some (o, fun w a b => BitVec.ofInt w (val o.t.isSigned w a * val o.t.isSigned w b / 2 ^ w))
  | .vadds o _ => some (o, fun w a b => clamp o.t.isSigned w (val o.t.isSigned w a + val o.t.isSigned w b))
  | .vsubs o _ => some (o, fun w a b => clamp o.t.isSigned w (val o.t.isSigned w a - val o.t.isSigned w b))
  | .vabsd o _ => some (o, fun w a b => BitVec.ofNat w (val o.t.isSigned w a - val o.t.isSigned w b).natAbs)
  | .vmin o _ => some (o, fun _ a b => if (if o.t.isSigned then b.slt a else b.ult a) then b else a)
  | .vmax o _ => some (o, fun _ a b => if (if o.t.isSigned then a.slt b else a.ult b) then b else a)
  | .vand o _ => some (o, fun _ a b => a &&& b)
  | .vor o _ => some (o, fun _ a b => a ||| b)
  | .vxor o _ => some (o, fun _ a b => a ^^^ b)
  | .vshl o _ => some (o, fun w a b => a <<< (b.toNat % w))
  | .vshr o _ => some (o, fun w a b => if o.t.isSigned then a.sshiftRight (b.toNat % w) else a >>> (b.toNat % w))
  | .vcmp c o _ => some (o, fun w a b => if ruleCond c a b then BitVec.allOnes w else 0)
  | _ => none

/-- An element written under the top mask (R174, R182): where element `i` of width `w` is not active, the old element stays. -/
def masked (s : State) (w i : Nat) (new old : Nat) : Nat := if activeIn s.topMask w i then new else old

end Sys2Proof.Machine

/-- R165, R167: elements packed into a group in Lane order are the elements read from it, and no other register is involved: lane and pack are inverse, for
each element width. -/
def Obligations.LaneOrderRoundTrip : Prop :=
  (∀ (t : ElemType) (n : Nat) (es : List Nat), es.length = n * (4096 / t.width) →
    (packGroup t.width n es).length = n ∧
    ∀ p, p < es.length → laneOf (packGroup t.width n es) t.width p = es.getD p 0 % 2 ^ t.width) ∧
  (∀ (t : ElemType) (g : List (BitVec 4096)),
    packGroup t.width g.length ((List.range (g.length * (4096 / t.width))).map (laneOf g t.width)) = g)

/-- R174, R180-R182, R190-R192: VADD VSUB VMUL VMULH VADDS VSUBS VABSD VMIN VMAX VAND VOR VXOR VSHL VSHR VCMP: each active element of D is the row's result,
each inactive one keeps its value, no flag is raised, and nothing else changes. -/
def Obligations.VectorIntegerResult : Prop :=
  ∀ (i : Instr) (s : State) (tv : Word64) (o : VBin) (f : (w : Nat) → BitVec w → BitVec w → BitVec w),
    Passes i s tv [] → ruleVInt i = some (o, f) → OwnsTileState s →
    let n := o.n.size
    let w := o.t.width
    SourcesClear o.d.val n true (⟨1, o.a.val, n⟩ :: (match o.b with | .vec r => [⟨2, r.val, n⟩] | _ => [])) →
    ∃ t, exec i s = .next t ∧
      GroupWritten s t (syncOf i) o.d.val n w
        (fun p => masked s w p (f w (BitVec.ofNat w (s.lane o.a n w p)) (ruleB (s.withTv tv) w n o.b p)).toNat (s.lane o.d n w p)) s.regs

/-- R190, R193: VMADD, VSEL, VDOT4 and VDOT8: the third source; the dot product of each 32-bit lane added to D, wrapped or saturated once, with D distinct
from A and B. -/
def Sys2Proof.Machine.VectorThreeSourceResult : Prop :=
  (∀ (sel : Bool) (o : VBin) (c : Fin 64) (sy : Sync) (s : State) (tv : Word64),
    let i : Instr := if sel then .vsel o c sy else .vmadd o c sy
    let n := o.n.size
    let w := o.t.width
    Passes i s tv [] → OwnsTileState s →
    SourcesClear o.d.val n true (⟨1, o.a.val, n⟩ :: (match o.b with | .vec r => [⟨2, r.val, n⟩] | _ => []) ++ [⟨3, c.val, n⟩]) →
    ∃ t, exec i s = .next t ∧
      GroupWritten s t sy o.d.val n w
        (fun p =>
          let a := BitVec.ofNat w (s.lane o.a n w p)
          let b := ruleB (s.withTv tv) w n o.b p
          let c := BitVec.ofNat w (s.lane c n w p)
          masked s w p (if sel then (if c ≠ 0 then a else b) else a * b + c).toNat (s.lane o.d n w p)) s.regs) ∧
  (∀ (eight sa sb sat : Bool) (g : Group) (d a : Fin 64) (b : VB) (sy : Sync) (s : State) (tv : Word64),
    let i : Instr := if eight then .vdot8 sa sb sat g d a b sy else .vdot4 sa sb sat g d a b sy
    let n := g.size
    let m := if eight then 8 else 4
    let u := 32 / m
    Passes i s tv [] → OwnsTileState s →
    SourcesClear d.val n false (⟨1, a.val, n⟩ :: (match b with | .vec r => [⟨2, r.val, n⟩] | _ => [])) →
    let part := fun (sg : Bool) (x : BitVec 32) (e : Nat) =>
      let y := x.extractLsb' (u * e) u
      if sg then y.toInt else (y.toNat : Int)
    ∃ t, exec i s = .next t ∧
      GroupWritten s t sy d.val n 32
        (fun p =>
          let av := BitVec.ofNat 32 (s.lane a n 32 p)
          let bv := ruleB (s.withTv tv) 32 n b p
          let dot := ((List.range m).map fun e => part sa av e * part sb bv e).foldl (· + ·) 0
          let x := (BitVec.ofNat 32 (s.lane d n 32 p)).toInt + dot
          masked s 32 p (BitVec.ofInt 32 (if sat then max (-(2 ^ 31)) (min (2 ^ 31 - 1) x) else x)).toNat (s.lane d n 32 p)) s.regs)

/-- The moves and other entries that raise no flag and draw nothing (R189, R190, R198, R199, R204-R206, R211): type, span, destination, sources, and element
p of the result, inactive elements included. -/
def Sys2Proof.Machine.ruleVMove (i : Instr) (s : State) : Option (Nat × Nat × Fin 64 × List VSrc × (Nat → Nat)) :=
  let lit := fun (b : SrcLit) => match b with | .reg r => (s.src r).toNat | .lit v => v.toNat
  let un := fun (o : VUn) (f : Nat → Nat → Nat) =>
    let n := o.n.size
    let w := o.t.width
    some (w, n, o.d, [(⟨1, o.a.val, n⟩ : VSrc)], fun p => masked s w p (f p (s.lane o.a n w p)) (s.lane o.d n w p))
  match i with
  | .vmov g d a _ => un ⟨.z32, g, d, a⟩ fun _ x => x
  | .vclz o _ => un o fun _ x => (BitVec.ofNat o.t.width x).clz.toNat
  | .vpopc o _ => un o fun _ x => ((List.range o.t.width).countP fun k => x.testBit k) % 2 ^ o.t.width
  | .vfclass o _ => un o fun _ x => fclass o.t (decodeF o.t x)
  | .vfabs neg o _ => un o fun _ x => if neg then x ^^^ 2 ^ (o.t.width - 1) else x % 2 ^ (o.t.width - 1)
  | .vslide up t g d a b _ =>
    un ⟨t, g, d, a⟩ fun p _ =>
      let m := lit b
      if up then (if m ≤ p then s.lane a g.size t.width (p - m) else 0)
      else if p + m < g.size * (4096 / t.width) then s.lane a g.size t.width (p + m) else 0
  | .vsplat t g d b _ => some (t.width, g.size, d, [], fun p => masked s t.width p (lit b % 2 ^ t.width) (s.lane d g.size t.width p))
  | .vidx t g d b _ => some (t.width, g.size, d, [], fun p => masked s t.width p ((p + lit b) % 2 ^ t.width) (s.lane d g.size t.width p))
  | .vins t g d a b _ =>
    some (t.width, g.size, d, [], fun p =>
      if p = lit b % (g.size * (4096 / t.width)) then (s.src a).toNat % 2 ^ t.width else s.lane d g.size t.width p)
  | .vperm t g d a b _ =>
    let n := g.size
    let w := t.width
    some (w, n, d, [⟨1, a.val, n⟩, ⟨2, b.val, n⟩], fun p =>
      masked s w p (s.lane a n w (s.lane b n w p % (n * (4096 / w)))) (s.lane d n w p))
  | .vzip t g d a b _ =>
    let n := g.size
    let w := t.width
    some (w, 2 * n, d, [⟨1, a.val, n⟩, ⟨2, b.val, n⟩], fun p => if p % 2 = 0 then s.lane a n w (p / 2) else s.lane b n w (p / 2))
  | .vunzip t g d a _ =>
    let n := g.size
    let w := t.width
    let len := n * (4096 / w)
    some (w, 2 * n, d, [⟨1, a.val, 2 * n⟩], fun p => if p < len then s.lane a (2 * n) w (2 * p) else s.lane a (2 * n) w (2 * (p - len) + 1))
  | .vcompr o _ =>
    let n := o.n.size
    let w := o.t.width
    let act := (List.range (n * (4096 / w))).filter fun i => activeIn s.topMask w i
    some (w, n, o.d, [⟨1, o.a.val, n⟩], fun p => (act.map (s.lane o.a n w)).getD p 0)
  | .vexpnd o _ =>
    let n := o.n.size
    let w := o.t.width
    some (w, n, o.d, [⟨1, o.a.val, n⟩], fun p =>
      masked s w p (s.lane o.a n w ((List.range p).countP fun i => activeIn s.topMask w i)) (s.lane o.d n w p))
  | _ => none

/-- R174, R182, R189, R190, R198, R199, R204-R206, R211: VMOV VCLZ VPOPC VFCLASS VFABS VSLIDE VSPLAT VIDX VINS VPERM VZIP VUNZIP VCOMPR VEXPND. VEXT writes the chosen
element, extended by its type, into g[D] and no vector register. -/
def Sys2Proof.Machine.VectorMoveResult : Prop :=
  (∀ (i : Instr) (s : State) (tv : Word64) (w n : Nat) (d : Fin 64) (srcs : List VSrc) (val : Nat → Nat),
    Passes i s tv [] → ruleVMove i (s.withTv tv) = some (w, n, d, srcs, val) → OwnsTileState s → SourcesClear d.val n true srcs →
    ∃ t, exec i s = .next t ∧ GroupWritten s t (syncOf i) d.val n w val s.regs) ∧
  (∀ (ty : ElemType) (g : Group) (d : Fin 32) (a : Fin 64) (b : SrcLit) (sy : Sync) (s : State) (tv : Word64),
    Passes (.vext ty g d a b sy) s tv [] →
    let k := (match b with | .reg r => ((s.withTv tv).src r).toNat | .lit v => v.toNat) % (g.size * (4096 / ty.width))
    let x := BitVec.ofNat ty.width (s.lane a g.size ty.width k)
    ∃ t, exec (.vext ty g d a b sy) s = .next t ∧ RegsOnly s t sy (syncPost s sy) ∧
      t.regs = loopNext (s.regs.writeG d (if ty.isSigned then x.signExtend 64 else x.setWidth 64)) s.pc)

/-- R170: where a source clashes with the destination, VMOV, VADD and the other entries with sources A, B and C raise REG_OVERLAP for the first such source:
operand number, its base and the destination in the information word. -/
def Obligations.RegisterOverlapTraps : Prop :=
  ∀ (i : Instr) (s : State) (tv : Word64) (w n : Nat) (d : Fin 64) (srcs : List VSrc) (val : Nat → Nat) (before : List VSrc) (v : VSrc)
      (after : List VSrc),
    Passes i s tv [] → ruleVMove i (s.withTv tv) = some (w, n, d, srcs, val) → srcs = before ++ v :: after →
    SourcesClear d.val n true before → ¬ SourcesClear d.val n true [v] →
    exec i s = .next (takeTrap s { cause := 0x05, info := BitVec.ofNat 32 (v.op * 4096 + v.base * 64 + d.val) })

namespace Sys2Proof.Machine

/-- The vector sources A and, where it is one, B. -/
def ruleSrcs (a : Fin 64) (b : VB) (n : Nat) : List VSrc :=
  ⟨1, a.val, n⟩ :: (match b with | .vec r => [⟨2, r.val, n⟩] | _ => [])

/-- The floating rows (R194-R197, R202): rounding, type, span, destination, sources, and the code and flags of an active element p under a rounding. -/
def ruleVFloat (i : Instr) (s : State) : Option (RoundCode × ElemType × Nat × Fin 64 × List VSrc × (Rnd → Nat → FRes)) :=
  let bin := fun (r : RoundCode) (o : VBin) (f : ElemType → Rnd → FVal → FVal → FRes) =>
    let n := o.n.size
    let w := o.t.width
    some (r, o.t, n, o.d, ruleSrcs o.a o.b n, fun rd p =>
      f o.t rd (decodeF o.t (s.lane o.a n w p)) (decodeF o.t (ruleB s w n o.b p).toNat))
  let un := fun (r : RoundCode) (o : VUn) (f : ElemType → Rnd → FVal → FRes) =>
    some (r, o.t, o.n.size, o.d, [(⟨1, o.a.val, o.n.size⟩ : VSrc)], fun rd p => f o.t rd (decodeF o.t (s.lane o.a o.n.size o.t.width p)))
  match i with
  | .vfadd r o _ => bin r o fAdd
  | .vfsub r o _ => bin r o fSub
  | .vfmul r o _ => bin r o fMul
  | .vfdiv r o _ => bin r o fDiv
  | .vfma r o c _ =>
    let n := o.n.size
    let w := o.t.width
    some (r, o.t, n, o.d, ruleSrcs o.a o.b n ++ [⟨3, c.val, n⟩], fun rd p =>
      fFma o.t rd (decodeF o.t (s.lane o.a n w p)) (decodeF o.t (ruleB s w n o.b p).toNat) (decodeF o.t (s.lane c n w p)))
  | .vfmin o _ => bin .rne o fun t _ => fMin t
  | .vfmax o _ => bin .rne o fun t _ => fMax t
  | .vfcmp c o _ => bin .rne o fun t _ x y => (if (fCmp c x y).1 then 2 ^ t.width - 1 else 0, (fCmp c x y).2)
  | .vscale r o _ =>
    let n := o.n.size
    let w := o.t.width
    some (r, o.t, n, o.d, ruleSrcs o.a o.b n, fun rd p =>
      fScale o.t rd (decodeF o.t (s.lane o.a n w p))
        (match o.b with
         | .vec q => (BitVec.ofNat w (s.lane q n w p)).toInt
         | .reg q => (s.src q).toInt
         | .lit v => v.toInt))
  | .vfsqrt r o _ => un r o fSqrt
  | .vfrcp r o _ => un r o fRcp
  | .vfrsq r o _ => un r o fRsqrt
  | .vfexp2 r o _ => un r o fExp2
  | .vflog2 r o _ => un r o fLog2
  | .vftanh r o _ => un r o fTanh
  | _ => none

/-- The context's registers after a vector instruction that raised the flags `f` and rounded by `r` (R25, R132, R184). -/
def flagged (s : State) (r : RoundCode) (f : FFlags) : Regs :=
  { s.regs with flags := s.regs.flags ||| f, srctr := if roundMode s r = 5 then s.regs.srctr + 1 else s.regs.srctr }

/-- The flags of the elements below `len` that are counted. -/
def flagsOf (len : Nat) (act : Nat → Bool) (f : Nat → FRes) : FFlags :=
  (List.range len).foldl (fun a p => if act p then a ||| (f p).2 else a) 0

/-- The conversions of R200 and R201: saturation, rounding, result and source types, group, destination, source, and the result of narrow element i from
source code x. -/
def ruleVConv (i : Instr) : Option (Bool × RoundCode × ElemType × ElemType × Group × Fin 64 × Fin 64 × (Rnd → Nat → Nat → FRes)) :=
  match i with
  | .vcvt sat td ts r n d a _ => some (sat, r, td, ts, n, d, a, fun rd _ x => convert td ts rd x)
  | .vwiden td ts n d a _ =>
    some (false, .rne, td, ts, n, d, a, fun _ _ x =>
      let v := BitVec.ofNat ts.width x
      ((if ts.isSigned then v.signExtend td.width else v.setWidth td.width).toNat, 0))
  | .vnarrow sat td ts n d a _ =>
    some (false, .rne, td, ts, n, d, a, fun _ _ x =>
      let w := td.width
      let v : Int := if ts.isSigned then (BitVec.ofNat ts.width x).toInt else (x : Int)
      let lo : Int := if td.isSigned then -(2 ^ (w - 1)) else 0
      let hi : Int := if td.isSigned then 2 ^ (w - 1) - 1 else 2 ^ w - 1
      ((BitVec.ofInt w (if sat then max lo (min hi v) else v)).toNat, 0))
  | _ => none

/-- A code of type t brought exactly to an integer type of width `w` (R208). -/
def ruleWiden (t : ElemType) (w x : Nat) : Nat :=
  if t.isSigned then ((BitVec.ofNat t.width x).signExtend w).toNat else x

/-- An integer reduction (R138, R208): the codes combined, starting from the identity. -/
def ruleRedInt (op : RedOp) (t : ElemType) (xs : List Nat) : Nat :=
  let w := t.width
  let val := fun (x : Nat) => if t.isSigned then (BitVec.ofNat w x).toInt else (x : Int)
  let lo : Int := if t.isSigned then -(2 ^ (w - 1)) else 0
  let hi : Int := if t.isSigned then 2 ^ (w - 1) - 1 else 2 ^ w - 1
  let vs := xs.map val
  match op with
  | .add => (BitVec.ofInt w (vs.foldl (· + ·) 0)).toNat
  | .max | .amax => (BitVec.ofInt w (vs.foldl max lo)).toNat
  | .min => (BitVec.ofInt w (vs.foldl min hi)).toNat
  | .and => xs.foldl (· &&& ·) (2 ^ w - 1)
  | .or => xs.foldl (· ||| ·) 0
  | .xor => xs.foldl (· ^^^ ·) 0

end Sys2Proof.Machine

/-- R174, R182, R184, R194-R197, R202: VFADD VFSUB VFMUL VFMA VFDIV VFMIN VFMAX VFCMP VSCALE VFSQRT VFRCP VFRSQ VFEXP2 VFLOG2 VFTANH: each active element of D is
the row's rounded value of its operands, with the element's index for stochastic rounding; inactive elements keep their value and raise
nothing; the flags are ORed into ctl.flags, and ctl.srctr steps under stochastic rounding. -/
def Obligations.VectorFloatResult : Prop :=
  ∀ (i : Instr) (s : State) (tv : Word64) (r : RoundCode) (ty : ElemType) (n : Nat) (d : Fin 64) (srcs : List VSrc) (val : Rnd → Nat → FRes),
    Passes i s tv [] → ruleVFloat i (s.withTv tv) = some (r, ty, n, d, srcs, val) → OwnsTileState s → SourcesClear d.val n true srcs →
    let w := ty.width
    let at_ := fun p => val ⟨roundMode s r, s.regs.seed, s.regs.srctr, p, false⟩ p
    ∃ t, exec i s = .next t ∧
      GroupWritten s t (syncOf i) d.val n w (fun p => masked s w p ((at_ p).1 % 2 ^ w) (s.lane d n w p))
        (flagged s r (flagsOf (n * (4096 / w)) (activeIn s.topMask w) at_))

/-- R169, R182, R200, R201: VCVT VWIDEN VNARROW: narrow element i pairs with the wide element of its place, is converted where its lane is active, and the
flags of the active ones are ORed. -/
def Sys2Proof.Machine.VectorConversionResult : Prop :=
  ∀ (i : Instr) (s : State) (tv : Word64) (sat : Bool) (r : RoundCode) (td ts : ElemType) (g : Group) (d a : Fin 64)
      (val : Rnd → Nat → Nat → FRes),
    Passes i s tv [] → ruleVConv i = some (sat, r, td, ts, g, d, a, val) → OwnsTileState s →
    let wd := td.width
    let ws := ts.width
    let k := max wd ws / min wd ws
    let nd := if ws < wd then g.size * k else g.size
    let ns := if wd < ws then g.size * k else g.size
    SourcesClear d.val nd true [⟨1, a.val, ns⟩] →
    let idx := fun p => if ws < wd then narrowOf ws k p else p
    let at_ := fun p => val ⟨roundMode s r, s.regs.seed, s.regs.srctr, idx p, sat⟩ (idx p)
      (s.lane a ns ws (if wd < ws then widePlace wd k (idx p) else idx p))
    let act := fun p => activeIn s.topMask (min wd ws) (idx p)
    ∃ t, exec i s = .next t ∧
      GroupWritten s t (syncOf i) d.val nd wd (fun p => if act p then (at_ p).1 % 2 ^ wd else s.lane d nd wd p)
        (flagged s r (flagsOf (nd * (4096 / wd)) act at_))

/-- R123, R124, R203: VBSCALE, unmasked. The .dq form multiplies each element by its block's scale; the .q form finds each block's scale, writes the scale
codes into bytes 0 on of S, the rest of which stays, and the quantised elements into D. D, A and S do not meet. -/
def Sys2Proof.Machine.VectorBlockScaleResult : Prop :=
  ∀ (nt wt : ElemType) (r : RoundCode) (g : Group) (d a sc : Fin 64) (sy : Sync) (s : State) (tv : Word64),
    OwnsTileState s →
    let k := wt.width / nt.width
    let n := g.size
    let wn := nt.width
    let ww := wt.width
    let rd : Rnd := ⟨roundMode s r, s.regs.seed, s.regs.srctr, 0, false⟩
    (Passes (.vbscale true nt wt r g d a sc sy) s tv [] → SourcesClear d.val (n * k) false [⟨1, a.val, n⟩, ⟨2, sc.val, 1⟩] →
      let at_ := fun p =>
        let i := narrowOf wn k p
        dequant nt wt { rd with idx := i } (s.lane sc 1 8 (i / 32)) (s.lane a n wn i)
      ∃ t, exec (.vbscale true nt wt r g d a sc sy) s = .next t ∧
        GroupWritten s t sy d.val (n * k) ww (fun p => (at_ p).1 % 2 ^ ww)
          (flagged s r (flagsOf (n * k * (4096 / ww)) (fun _ => true) at_))) ∧
    (Passes (.vbscale false nt wt r g d a sc sy) s tv [] →
      SourcesClear d.val n false [⟨1, a.val, n * k⟩, ⟨3, sc.val, 1⟩] → SourcesClear sc.val 1 false [⟨3, a.val, n * k⟩] →
      let src := fun i => decodeF wt (s.lane a (n * k) ww (widePlace wn k i))
      let code := fun b => quantScale nt ((List.range 32).map fun j => src (32 * b + j))
      let at_ := fun i => match code (i / 32) with
        | none => (0, (16 : FFlags))
        | some e => quantElem nt rd e i (src i)
      ∃ t, exec (.vbscale false nt wt r g d a sc sy) s = .next t ∧ SameRest s t ∧ t.me.eng = s.me.eng ∧ TokensMoved s t sy (syncPost s sy) ∧
        t.me.store = { s.me.store with v := t.me.store.v } ∧
        (∀ i, i < n * (4096 / wn) → t.lane d n wn i = (at_ i).1 % 2 ^ wn) ∧
        (∀ b, b < 512 → t.lane sc 1 8 b = if b < n * (4096 / wn) / 32 then (code b).getD 0xFF % 256 else s.lane sc 1 8 b) ∧
        (∀ q, q < 64 → (q < d.val ∨ d.val + n ≤ q) → q ≠ sc.val → t.vreg q = s.vreg q) ∧
        t.regs = loopNext (flagged s r (flagsOf (n * (4096 / wn)) (fun _ => true) at_)) s.pc)

/-- R138, R139, R182, R207-R210: VRED: the integer operations over the active elements (and, under .acc, element 0 of D) go to element 0 of D; .amax keeps the
winner and its number; a floating sum, minimum or maximum follows the tree. VSCAN: each active element becomes the combination of the active
elements up to it. Other elements of D stay. -/
def Obligations.VectorReductionResult : Prop :=
  (∀ (op : RedOp) (wide acc : Bool) (r : RoundCode) (o : VUn) (sy : Sync) (s : State) (tv : Word64),
    let i : Instr := .vred op wide acc r o sy
    Passes i s tv [] → OwnsTileState s →
    let n := o.n.size
    let w := o.t.width
    SourcesClear o.d.val 1 true [⟨1, o.a.val, n⟩] →
    let rt : ElemType := if wide then (if o.t.isInt then (if o.t.isSigned then .s32 else .z32) else .f32) else o.t
    let wr := rt.width
    let act := (List.range (n * (4096 / w))).filter (activeIn s.topMask w)
    let first := if acc then [s.lane o.d 1 wr 0] else []
    (o.t.isInt = true → op ≠ .amax →
      ∃ t, exec i s = .next t ∧
        GroupWritten s t sy o.d.val 1 wr
          (fun p => if p = 0 then ruleRedInt op rt (act.map (fun e => if wide then ruleWiden o.t 32 (s.lane o.a n w e) else s.lane o.a n w e) ++ first)
            else s.lane o.d 1 wr p) s.regs) ∧
    (op = .amax →
      let leaves := (List.range (n * (4096 / w))).map fun e =>
        if activeIn s.topMask w e then (s.lane o.a n w e, e) else (redIdentity .amax o.t, 0xFFFFFFFF)
      let win := (reduceTree (0, 0) (amaxNode o.t) leaves (if acc then some (s.lane o.d 1 w 0, s.lane o.d 1 32 1) else none)).1
      ∃ t, exec i s = .next t ∧
        GroupWritten s t sy o.d.val 1 32
          (fun p => if p = 0 then win.1 % 2 ^ 32 else if p = 1 then win.2 % 2 ^ 32 else s.lane o.d 1 32 p) s.regs) ∧
    (o.t.isInt = false → op ≠ .amax →
      let elems := fun e => if activeIn s.topMask w e then redElem wide o.t (s.lane o.a n w e) else (redIdentity op rt, (0 : FFlags))
      let leaves := (List.range (n * (4096 / w))).map fun e => (elems e).1
      let out := reduceTree 0 (redNode op rt ⟨roundMode s r, s.regs.seed, s.regs.srctr, 0, false⟩) leaves (if acc then some (s.lane o.d 1 wr 0) else none)
      ∃ t, exec i s = .next t ∧
        GroupWritten s t sy o.d.val 1 wr (fun p => if p = 0 then out.1 % 2 ^ wr else s.lane o.d 1 wr p)
          (flagged s r (flagsOf (n * (4096 / w)) (fun _ => true) elems ||| out.2)))) ∧
  (∀ (op : ScanOp) (r : RoundCode) (o : VUn) (sy : Sync) (s : State) (tv : Word64),
    let i : Instr := .vscan op r o sy
    Passes i s tv [] → OwnsTileState s →
    let n := o.n.size
    let w := o.t.width
    SourcesClear o.d.val n true [⟨1, o.a.val, n⟩] →
    (o.t.isInt = true →
      ∃ t, exec i s = .next t ∧
        GroupWritten s t sy o.d.val n w
          (fun p => masked s w p
            (ruleRedInt (scanRed op) o.t (((List.range (p + 1)).filter (activeIn s.topMask w)).map (s.lane o.a n w))) (s.lane o.d n w p)) s.regs) ∧
    (o.t.isInt = false →
      let xs := (List.range (n * (4096 / w))).map fun e => if activeIn s.topMask w e then s.lane o.a n w e else redIdentity (scanRed op) o.t
      let at_ := fun p => (scanList (scanRed op) o.t ⟨roundMode s r, s.regs.seed, s.regs.srctr, 0, false⟩ xs).getD p (0, 0)
      ∃ t, exec i s = .next t ∧
        GroupWritten s t sy o.d.val n w (fun p => masked s w p ((at_ p).1 % 2 ^ w) (s.lane o.d n w p))
          (flagged s r (flagsOf (n * (4096 / w)) (activeIn s.topMask w) at_))))

namespace Sys2Proof.Machine

/-- A scratchpad access of n bytes at `a` is in range, held by no range or lease, and a read meets no uncorrectable word (R94, R316, R469). -/
def spadFree (s : State) (a n : Nat) (write : Bool) : Prop :=
  a + n ≤ spadBytes ∧ spadHeld s a n write = false ∧ (write = false → spadBadAt s.me.store a n = none)

/-- The little-endian value of n scratchpad bytes at `a`. -/
def spadValue (s : State) (a n : Nat) : Nat := (List.range n).foldr (fun k v => (memGet s.me.store.spad (a + k)).toNat + 256 * v) 0

/-- The elements of width w, of a group of n registers, that are active. -/
def activeOf (s : State) (w n : Nat) : List Nat := (List.range (n * (4096 / w))).filter (activeIn s.topMask w)

/-- The runs of `b` bytes of elements `es`. -/
def elemRuns (es : List Nat) (off : Nat → Nat) (b : Nat) : List (Nat × Nat) := es.map fun e => (off e, b)

/-- Elements `es` of `b` bytes stored in this order at `off` of each: every scratchpad byte holds what the last element over it gives, all others stay;
an uncorrectable word that one element fills is correct again, and a correctable one that an element touches, counted where it is written in
part (R469); nothing else changes. -/
structure ElementsStored (s t : State) (sy : Sync) (es : List Nat) (off : Nat → Nat) (b : Nat) (val : Nat → Nat) : Prop where
  rest : SameRest (countSoft s s.cur.tile (softWrite s.me.store (elemRuns es off b))) t
  eng : t.me.eng = s.me.eng
  tokens : TokensMoved s t sy (syncPost s sy)
  regs : t.regs = loopNext s.regs s.pc
  bytes : ∀ a, memGet t.me.store.spad a =
    match (es.filter fun e => off e ≤ a ∧ a < off e + b).getLast? with
    | some e => BitVec.ofNat 8 (val e / 2 ^ (8 * (a - off e)))
    | none => memGet s.me.store.spad a
  store : t.me.store = { s.me.store with spad := t.me.store.spad, spadBad := t.me.store.spadBad, spadSoft := t.me.store.spadSoft }
  bad : ∀ w, w ∈ t.me.store.spadBad ↔ w ∈ s.me.store.spadBad ∧ ¬ ∃ e ∈ es, off e ≤ 4 * w ∧ 4 * w + 4 ≤ off e + b
  soft : ∀ w, w ∈ t.me.store.spadSoft ↔ w ∈ s.me.store.spadSoft ∧ ¬ ∃ e ∈ es, off e < 4 * w + 4 ∧ 4 * w < off e + b

/-- An entry of the mask stack. -/
def State.maskEntry (s : State) (k : Fin 16) : BitVec 512 := s.me.store.mask[k.val]'k.isLt

/-- The mask stack after an instruction: depth `d`, entry `k` the mask `m`, every other entry and everything else as before. -/
def MaskWritten (s t : State) (sy : Sync) (d : Nat) (k : Nat) (m : BitVec 512) : Prop :=
  StoreBecomes s t sy (syncPost s sy) { s.me.store with mask := t.me.store.mask, depth := BitVec.ofNat 5 d } ∧
    t.regs = loopNext s.regs s.pc ∧ ∀ j : Fin 16, t.maskEntry j = if j.val = k then m else s.maskEntry j

end Sys2Proof.Machine

/-- R177, R186-R188: VLD and VLDX read the words or elements of the active lanes, which every check passes, into D; VST and VSTX write them, in ascending order
of the elements, and nothing else of the scratchpad. Correctable errors met are corrected and counted (R469). The offset of element i of VLDX and VSTX is base plus index of its place, shifted. -/
def Obligations.VectorScratchpadResult : Prop :=
  (∀ (g : Group) (d : Fin 64) (m : MemOp) (sy : Sync) (s : State) (tv : Word64),
    Passes (.vld g d m sy) s tv [] → OwnsTileState s →
    let n := g.size
    let off := ((s.withTv tv).memAddr m).toNat
    off % 4 = 0 → (∀ j, j ∈ activeOf s 32 n → spadFree s (off + 4 * j) 4 false) →
    ∃ t, exec (.vld g d m sy) s = .next t ∧
      GroupWritten (s.spadSeen (elemRuns (activeOf s 32 n) (fun j => off + 4 * j) 4)) t sy d.val n 32
        (fun j => masked s 32 j (spadValue s (off + 4 * j) 4) (s.lane d n 32 j)) s.regs) ∧
  (∀ (g : Group) (m : MemOp) (c : Fin 64) (sy : Sync) (s : State) (tv : Word64),
    Passes (.vst g m c sy) s tv [] →
    let n := g.size
    let off := ((s.withTv tv).memAddr m).toNat
    off % 4 = 0 → (∀ j, j ∈ activeOf s 32 n → spadFree s (off + 4 * j) 4 true) →
    ∃ t, exec (.vst g m c sy) s = .next t ∧ ElementsStored s t sy (activeOf s 32 n) (fun j => off + 4 * j) 4 (s.lane c n 32)) ∧
  (∀ (ty : ElemType) (g : Group) (d : Fin 64) (a : GSrc) (b : Fin 64) (sh : BitVec 2) (sy : Sync) (s : State) (tv : Word64),
    Passes (.vldx ty g d a b sh sy) s tv [] → OwnsTileState s →
    let n := g.size
    let w := ty.width
    let k := 32 / w
    let off := fun e => (((s.withTv tv).src a).toNat + s.lane b (k * n) 32 (widePlace w k e) * 2 ^ sh.toNat) % 2 ^ 64
    SourcesClear d.val n true [⟨2, b.val, k * n⟩] →
    (∀ e, e ∈ activeOf s w n → off e % (w / 8) = 0 ∧ spadFree s (off e) (w / 8) false) →
    ∃ t, exec (.vldx ty g d a b sh sy) s = .next t ∧
      GroupWritten (s.spadSeen (elemRuns (activeOf s w n) off (w / 8))) t sy d.val n w
        (fun e => masked s w e (spadValue s (off e) (w / 8)) (s.lane d n w e)) s.regs) ∧
  (∀ (ty : ElemType) (g : Group) (a : GSrc) (b c : Fin 64) (sh : BitVec 2) (sy : Sync) (s : State) (tv : Word64),
    Passes (.vstx ty g a b c sh sy) s tv [] →
    let n := g.size
    let w := ty.width
    let k := 32 / w
    let off := fun e => (((s.withTv tv).src a).toNat + s.lane b (k * n) 32 (widePlace w k e) * 2 ^ sh.toNat) % 2 ^ 64
    (∀ e, e ∈ activeOf s w n → off e % (w / 8) = 0 ∧ spadFree s (off e) (w / 8) true) →
    ∃ t, exec (.vstx ty g a b c sh sy) s = .next t ∧ ElementsStored s t sy (activeOf s w n) off (w / 8) (s.lane c n w))

/-- R171-R174, R212, R213: VMPUSH and VMSET.push push (top and condition; the given mask), VMINV replaces the top by what its parent has and it has not, VMSET
replaces it, VMPOP drops it; VMGET and VMCNT read. Lanes beyond the group of VMPUSH count as true. -/
def Sys2Proof.Machine.MaskStackResult : Prop :=
  (∀ (g : Group) (a : Fin 64) (sy : Sync) (s : State) (tv : Word64), Passes (.vmpush g a sy) s tv [] → OwnsTileState s →
    s.me.store.depth.toNat < 16 →
    ∃ t m, exec (.vmpush g a sy) s = .next t ∧ MaskWritten s t sy (s.me.store.depth.toNat + 1) s.me.store.depth.toNat m ∧
      ∀ b, b < 512 → m.getLsbD b = (s.topMask.getLsbD b && (decide (128 * g.size ≤ b) || s.lane a g.size 32 b != 0))) ∧
  (∀ (a : Fin 64) (sy : Sync) (s : State) (tv : Word64), Passes (.vmset true a sy) s tv [] → OwnsTileState s → s.me.store.depth.toNat < 16 →
    ∃ t, exec (.vmset true a sy) s = .next t ∧
      MaskWritten s t sy (s.me.store.depth.toNat + 1) s.me.store.depth.toNat ((s.vreg a.val).extractLsb' 0 512)) ∧
  (∀ (a : Fin 64) (sy : Sync) (s : State) (tv : Word64), Passes (.vmset false a sy) s tv [] → OwnsTileState s →
    0 < s.me.store.depth.toNat → s.me.store.depth.toNat ≤ 16 →
    ∃ t, exec (.vmset false a sy) s = .next t ∧
      MaskWritten s t sy s.me.store.depth.toNat (s.me.store.depth.toNat - 1) ((s.vreg a.val).extractLsb' 0 512)) ∧
  (∀ (sy : Sync) (s : State) (tv : Word64), Passes (.vminv sy) s tv [] → OwnsTileState s →
    ∀ h : 0 < s.me.store.depth.toNat ∧ s.me.store.depth.toNat ≤ 16,
    let parent := if s.me.store.depth.toNat = 1 then BitVec.allOnes 512 else s.maskEntry ⟨s.me.store.depth.toNat - 2, by omega⟩
    ∃ t, exec (.vminv sy) s = .next t ∧
      MaskWritten s t sy s.me.store.depth.toNat (s.me.store.depth.toNat - 1) (parent &&& ~~~ s.topMask)) ∧
  (∀ (sy : Sync) (s : State) (tv : Word64), Passes (.vmpop sy) s tv [] → OwnsTileState s → 0 < s.me.store.depth.toNat →
    ∃ t, exec (.vmpop sy) s = .next t ∧ StoreBecomes s t sy (syncPost s sy) { s.me.store with depth := s.me.store.depth - 1 } ∧
      t.regs = loopNext s.regs s.pc) ∧
  (∀ (d : Fin 64) (sy : Sync) (s : State) (tv : Word64), Passes (.vmget (.mask d) sy) s tv [] → OwnsTileState s →
    ∃ t, exec (.vmget (.mask d) sy) s = .next t ∧
      GroupWritten s t sy d.val 1 32 (fun p => if p < 16 then s.topMask.toNat / 2 ^ (32 * p) % 2 ^ 32 else 0) s.regs) ∧
  (∀ (d : Fin 32) (sy : Sync) (s : State) (tv : Word64), Passes (.vmget (.depth d) sy) s tv [] →
    ∃ t, exec (.vmget (.depth d) sy) s = .next t ∧ RegsOnly s t sy (syncPost s sy) ∧
      t.regs = loopNext (s.regs.writeG d (BitVec.ofNat 64 s.me.store.depth.toNat)) s.pc) ∧
  (∀ (d : Fin 32) (g : Group) (sy : Sync) (s : State) (tv : Word64), Passes (.vmcnt d g sy) s tv [] →
    ∃ t, exec (.vmcnt d g sy) s = .next t ∧ RegsOnly s t sy (syncPost s sy) ∧
      t.regs = loopNext (s.regs.writeG d (BitVec.ofNat 64 ((List.range (128 * g.size)).countP fun b => s.topMask.getLsbD b))) s.pc)

/-- R173, R213: a push at depth 16 and VMINV, VMPOP or VMSET at depth 0 raise MASK_STACK with the depth in byte 0 and the operation (0 push, 1 VMINV, 2 VMPOP, 3
VMSET) in byte 1. -/
def Sys2Proof.Machine.MaskStackTraps : Prop :=
  ∀ (i : Instr) (s : State) (tv : Word64) (full : Bool) (op : Nat), Passes i s tv [] →
    (match i with
     | .vmpush _ _ _ => some (true, 0)
     | .vmset true _ _ => some (true, 0)
     | .vminv _ => some (false, 1)
     | .vmpop _ => some (false, 2)
     | .vmset false _ _ => some (false, 3)
     | _ => none) = some (full, op) →
    s.me.store.depth = (if full then 16 else 0) →
    exec i s = .next (takeTrap s { cause := 0x0C, info := BitVec.ofNat 32 ((if full then 16 else 0) + 256 * op) })

/-- R161: a service context in share mode with a task on its tile changes nothing of the user state, whatever instruction it issues and however that ends:
of no stream the general registers, predicates, loop counters, control registers, PC, life or EXIT value; no token, ceiling, mark or closing of a queue; no vector
register, mask, accumulator or shadow nest register. -/
def Obligations.ShareModeKeepsUserState : Prop :=
  ∀ (i : Instr) (s t : State), (opOf i).isSome = true → s.cur.ctx = .service → s.myCore.v.mode = .share → s.me.task.isSome = true →
    exec i s = .next t →
    t.me.store.v = s.me.store.v ∧ t.me.store.mask = s.me.store.mask ∧ t.me.store.depth = s.me.store.depth ∧
    t.me.store.acc = s.me.store.acc ∧ t.me.store.accBad = s.me.store.accBad ∧ t.me.store.shadow = s.me.store.shadow ∧
    (∀ st, (t.me.core st).u = (s.me.core st).u) ∧
    ∀ q : Fin 6, (t.me.queue q).ents = (s.me.queue q).ents ∧ (t.me.queue q).count = (s.me.queue q).count ∧ (t.me.queue q).ceil = (s.me.queue q).ceil ∧
      (t.me.queue q).closed = (s.me.queue q).closed ∧ (t.me.queue q).endMark = (s.me.queue q).endMark

/-- R233: MCFG writes the 64-bit value g[A], or ZeroExtend(IMM, 32), into shadow register D, whatever the value, and leaves every other shadow register;
the running and the pending nest are as before, and so is everything else but the PC, the loop counts and the tokens of the SYNC field. -/
def Obligations.ShadowRegisterWritten : Prop :=
  ∀ (reg : Fin 64) (v : SrcLit) (sy : Sync) (s : State) (tv : Word64), Passes (.mcfg reg v sy) s tv [] → OwnsTileState s →
    ∃ t, exec (.mcfg reg v sy) s = .next t ∧ StoreBecomes s t sy (syncPost s sy) { s.me.store with shadow := t.me.store.shadow } ∧
      t.regs = loopNext s.regs s.pc ∧ t.me.eng.running = s.me.eng.running ∧ t.me.eng.pending = s.me.eng.pending ∧
      ∀ k : Fin 20, t.me.store.shadow[k] = if k.val = reg.val then
        (match v with | .reg r => (s.withTv tv).src r | .lit x => x.setWidth 64) else s.me.store.shadow[k]

/-- R217, R225, R236-R240: MZERO clears the named tiles; MGET reads active accumulator elements into D; MPUT stores them
from A, or adds to them (flags of the floating sums ORed); MSTAT reads; MSYNC issues when array and output path are idle and else stalls.
What a nest or MOUT uses must not clash, and rows read must be correct. -/
def Sys2Proof.Machine.MatrixSynchronousResult : Prop :=
  (∀ (mask : BitVec 8) (sy : Sync) (s : State) (tv : Word64), Passes (.mzero mask sy) s tv [] → OwnsTileState s →
    (∀ n ∈ s.me.nests, ∀ k ∈ nestTiles n.regs, mask.getLsbD k = false) →
    (∀ n ∈ s.me.nests, (nestCfg n.regs).asrc = true → mask.getLsbD ((nestCfg n.regs).abase % 8) = false) →
    (∀ o, s.me.eng.mout = some o → mask.getLsbD (moutTile o.inst) = false) →
    ∃ t, exec (.mzero mask sy) s = .next t ∧
      StoreBecomes s t sy (syncPost s sy) { s.me.store with acc := t.me.store.acc, accBad := t.me.store.accBad } ∧ t.regs = loopNext s.regs s.pc ∧
      ∀ k row, k < 8 → row < 128 → t.me.store.accRow k row = (if mask.getLsbD k then 0 else s.me.store.accRow k row) ∧
        (128 * k + row ∈ t.me.store.accBad ↔ 128 * k + row ∈ s.me.store.accBad ∧ mask.getLsbD k = false)) ∧
  (∀ (g : Group) (d : Fin 64) (a : Fin 8) (e : SrcLit) (sy : Sync) (s : State) (tv : Word64),
    Passes (.mget g d a e sy) s tv [] → OwnsTileState s →
    let n := g.size
    let e0 := ((s.withTv tv).srcZ e).toNat
    e0 % 128 = 0 → e0 + 128 * n ≤ 32768 → (∀ m ∈ s.me.nests, a.val ∉ nestTiles m.regs) →
    (∀ j ∈ activeOf s 32 n, 128 * a.val + (e0 + j) / 256 ∉ s.me.store.accBad) →
    ∃ t, exec (.mget g d a e sy) s = .next t ∧
      GroupWritten s t sy d.val n 32 (fun j => masked s 32 j (s.me.store.accElem a.val (e0 + j)) (s.lane d n 32 j)) s.regs) ∧
  (∀ (f32 add : Bool) (g : Group) (d : Fin 8) (a : Fin 64) (e : SrcLit) (sy : Sync) (s : State) (tv : Word64),
    Passes (.mput f32 add g d a e sy) s tv [] → OwnsTileState s →
    let n := g.size
    let e0 := ((s.withTv tv).srcZ e).toNat
    e0 % 128 = 0 → e0 + 128 * n ≤ 32768 →
    (∀ m ∈ s.me.nests, d.val ∉ nestTiles m.regs ∧ ((nestCfg m.regs).asrc = true → (nestCfg m.regs).abase % 8 ≠ d.val)) →
    (∀ o, s.me.eng.mout = some o → moutTile o.inst ≠ d.val) →
    (add = true → ∀ j ∈ activeOf s 32 n, 128 * d.val + (e0 + j) / 256 ∉ s.me.store.accBad) →
    let at_ := fun j =>
      let m := s.me.store.accElem d.val (e0 + j)
      let x := s.lane a n 32 j
      if add then (if f32 then fAdd .f32 ⟨0, 0, 0, 0, false⟩ (decodeF .f32 m) (decodeF .f32 x) else ((m + x) % 2 ^ 32, 0)) else (x, 0)
    ∃ t, exec (.mput f32 add g d a e sy) s = .next t ∧
      StoreBecomes s t sy (syncPost s sy) { s.me.store with acc := t.me.store.acc } ∧
      t.regs = loopNext (flagged s .rne (flagsOf (128 * n) (activeIn s.topMask 32) at_)) s.pc ∧
      ∀ k j, k < 8 → j < 32768 → t.me.store.accElem k j =
        if k = d.val ∧ e0 ≤ j ∧ j < e0 + 128 * n ∧ activeIn s.topMask 32 (j - e0) = true then (at_ (j - e0)).1 % 2 ^ 32
        else s.me.store.accElem k j) ∧
  (∀ (d : Fin 32) (residue : Bool) (sy : Sync) (s : State) (tv : Word64), Passes (.mstat d residue sy) s tv [] →
    ∃ t v, exec (.mstat d residue sy) s = .next t ∧ RegsOnly s t sy (syncPost s sy) ∧ t.regs = loopNext (s.regs.writeG d v) s.pc ∧
      (residue = true → v = s.me.residues.setWidth 64) ∧
      (residue = false → v.getLsbD 0 = s.me.eng.running.isSome ∧ v.getLsbD 1 = s.me.eng.pending.isSome ∧
        v.getLsbD 2 = s.me.eng.mout.isSome ∧ v.getLsbD 3 = s.me.degraded ∧
        v.toNat / 2 ^ 8 % 2 ^ 8 = 8 - sparesUsed s.me ∧
        v.toNat / 2 ^ 16 = (match s.me.eng.running with | some n => n.steps % 2 ^ 16 | none => 0))) ∧
  (∀ (sy : Sync) (s : State) (tv : Word64), Passes (.msync sy) s tv [] →
    let idle := s.me.eng.running = none ∧ s.me.eng.pending = none ∧ s.me.eng.mout = none
    (idle → ∃ t, exec (.msync sy) s = .next t ∧ RegsOnly s t sy (syncPost s sy) ∧ t.regs = loopNext s.regs s.pc) ∧
    (¬ idle → exec (.msync sy) s = .next (markStall s .blocked)))

/-- R224, R225, R234, R235: MGO, its checks passed, no nest pending and no MOUT in its way, becomes the running nest, or the pending one, with the shadow
registers of now; MOUT, aligned, in range, its tile in no nest and no other MOUT under way, becomes the MOUT at row 0. Both reserve their post.
Otherwise, the checks passed, they stall. -/
def Sys2Proof.Machine.MatrixOperationAccepted : Prop :=
  (∀ (sy : Sync) (s : State) (tv : Word64), Passes (.mgo sy) s tv [] → mgoTrap s.me = none →
    let r := s.me.store.shadow
    let mode := if (nestCfg r).asrc then (if (nestCfg r).rnd = 6 then s.regs.round.toNat else (nestCfg r).rnd) else 0
    (s.me.eng.pending = none → nestMeetsMout s.me r = false → asyncCount s.me < 32 →
      ∃ t n, exec (.mgo sy) s = .next t ∧ n.regs = r ∧ n.steps = 0 ∧ KeptAtIssue s (.mgo sy) (BitVec.ofNat 3 mode) 0 0 0 0 n.info ∧
        Accepted s t sy (if s.me.eng.running = none then { s.me.eng with running := some n } else { s.me.eng with pending := some n }) ∧
        t.regs = loopNext (if mode = 5 then { s.regs with srctr := s.regs.srctr + 1 } else s.regs) s.pc) ∧
    (s.me.eng.pending.isSome = true ∨ nestMeetsMout s.me r = true → exec (.mgo sy) s = .next (markStall s .other))) ∧
  (∀ (td : ElemType) (r : RoundCode) (sat : Bool) (d : Fin 8) (a b : GSrc) (imm : BitVec 32) (sy : Sync) (s : State) (tv : Word64),
    let i : Instr := .mout td r sat d a b imm sy
    Passes i s tv [] →
    let u := s.withTv tv
    let off := (u.src a + imm.signExtend 64).toNat
    let st := (u.src b).toNat
    off % 64 = 0 → st % 64 = 0 → 32 * td.width ≤ st → off + 127 * st + 32 * td.width ≤ spadBytes →
    (s.me.eng.mout = none → (∀ n ∈ s.me.nests, d.val ∉ nestTiles n.regs) → asyncCount s.me < 32 →
      ∃ t o, exec i s = .next t ∧ o.inst = i ∧ o.rows = 0 ∧ KeptAtIssue s i (BitVec.ofNat 3 (roundMode s r)) (u.src a) (u.src b) 0 0 o.info ∧
        Accepted s t sy { s.me.eng with mout := some o } ∧ t.regs = loopNext (flagged s r 0) s.pc) ∧
    (s.me.eng.mout.isSome = true ∨ (∃ n ∈ s.me.nests, d.val ∈ nestTiles n.regs) → exec i s = .next (markStall s .other)))

namespace Sys2Proof.Machine

/-- A state access by an entered service context of a drained tile: its index, and the space it must lie in (R376, R377). -/
structure StateAccess (i : Instr) (s : State) (a : GSrc) (imm : BitVec 32) (k : Nat) : Prop where
  passes : Passes i s 0 []
  mode : s.myCore.v.mode = .entered
  drained : s.me.drain.drained = true
  index : ((s.withTv 0).src a + imm.setWidth 64).toNat = k

/-- A read of a state space: g[D] is `v`, nothing else but the PC changes. -/
def StateRead (i : Instr) (s : State) (d : Fin 32) (v : Word64) : Prop :=
  ∃ t, exec i s = .next t ∧ RegsOnly s t {} [] ∧ t.regs = loopNext (s.regs.writeG d v) s.pc

/-- A write of a state space that changes the tile's store to `x`, and nothing else but the PC. -/
def StateWrite (i : Instr) (s t : State) (x : Store) : Prop :=
  exec i s = .next t ∧ StoreBecomes s t {} [] x ∧ t.regs = loopNext s.regs s.pc

/-- A doubleword of a wide word. -/
def dwordOf {w : Nat} (x : BitVec w) (k : Nat) : Word64 := x.extractLsb' (64 * k) 64

/-- A write that changes one queue only. -/
structure QueueWritten (i : Instr) (s t : State) (q : Fin 6) : Prop where
  runs : exec i s = .next t
  rest : SameRest s t
  store : t.me.store = s.me.store
  eng : t.me.eng = s.me.eng
  regs : t.regs = loopNext s.regs s.pc
  others : ∀ r, r ≠ q → t.me.queue r = s.me.queue r
  reserved : (t.me.queue q).reserved = (s.me.queue q).reserved

end Sys2Proof.Machine

/-- R376, R377: the reads of firmware. SAVEQ: four tokens of a queue, 0 beyond COUNT; its status; a tag entry. INFLRD: a doubleword of the in-flight table.
STKSAVE: a mask entry or the depth. NESTRD: a shadow nest register, two accumulator elements, a vector register's doubleword. -/
def Sys2Proof.Machine.FirmwareReadsState : Prop :=
  ∀ (d : Fin 32) (a : GSrc) (imm : BitVec 32) (s : State) (k : Nat),
    (StateAccess (.saveq d a imm {}) s a imm k →
      (∀ (q : Fin 6) (w : Fin 4), k = 8 * q.val + w.val →
        ∃ v, StateRead (.saveq d a imm {}) s d v ∧
          ∀ j : Fin 4, ∀ h : 4 * w.val + j.val < 16,
            v.extractLsb' (16 * j.val) 16 =
              if 4 * w.val + j.val < (s.me.queue q).count.toNat then (s.me.queue q).ents[4 * w.val + j.val] else 0) ∧
      (∀ q : Fin 6, k = 8 * q.val + 4 → (s.me.queue q).reserved < 32 →
        ∃ v, StateRead (.saveq d a imm {}) s d v ∧
          v.extractLsb' 0 5 = (s.me.queue q).count ∧ v.extractLsb' 8 5 = (s.me.queue q).ceil ∧
          (v.extractLsb' 16 8).toNat = (s.me.queue q).reserved ∧ v.getLsbD 24 = (s.me.queue q).closed ∧
          v.getLsbD 25 = (s.me.queue q).endMark.isSome ∧ v.extractLsb' 32 12 = (s.me.queue q).endMark.getD 0) ∧
      (∀ n, n < 4096 → k = 0x100 + n → StateRead (.saveq d a imm {}) s d (smGet 0 n s.me.store.tags))) ∧
    (StateAccess (.inflrd d a imm {}) s a imm k → k < 1024 → StateRead (.inflrd d a imm {}) s d (smGet 0 k s.me.store.infl)) ∧
    (StateAccess (.stksave d a imm {}) s a imm k →
      (∀ m : Fin 16, ∀ w, w < 8 → k = 8 * m.val + w → StateRead (.stksave d a imm {}) s d (dwordOf (s.maskEntry m) w)) ∧
      (k = 128 → StateRead (.stksave d a imm {}) s d (s.me.store.depth.setWidth 64))) ∧
    (StateAccess (.nestrd d a imm {}) s a imm k →
      (∀ r : Fin 20, (r.val ≤ 4 ∨ 8 ≤ r.val) → k = r.val → StateRead (.nestrd d a imm {}) s d s.me.store.shadow[r]) ∧
      (∀ n e, n < 8 → e < 16384 → k = 0x10000 + 16384 * n + e → 128 * n + 2 * e / 256 ∉ s.me.store.accBad →
        StateRead (.nestrd d a imm {}) s d
          (BitVec.ofNat 64 (s.me.store.accElem n (2 * e) + s.me.store.accElem n (2 * e + 1) * 2 ^ 32))) ∧
      (∀ (r : Fin 64) (w : Nat), w < 64 → k = 0x40000 + 64 * r.val + w → StateRead (.nestrd d a imm {}) s d (dwordOf s.me.store.v[r] w)))

/-- R376, R377: the writes of firmware: each sets what the read of the same index gives back (a tag entry without its bits 62:60; a status without RESERVED), and
leaves the rest of the tile. -/
def Sys2Proof.Machine.FirmwareWritesState : Prop :=
  ∀ (a : GSrc) (imm : BitVec 32) (c : GSrc) (s : State) (k : Nat),
    let v := (s.withTv 0).src c
    (StateAccess (.loadq a imm c {}) s a imm k →
      (∀ (q : Fin 6) (w : Fin 4), k = 8 * q.val + w.val →
        ∃ t, QueueWritten (.loadq a imm c {}) s t q ∧ (t.me.queue q).count = (s.me.queue q).count ∧
          (t.me.queue q).ceil = (s.me.queue q).ceil ∧ (t.me.queue q).closed = (s.me.queue q).closed ∧
          ∀ j : Fin 16, (t.me.queue q).ents[j] =
            if j.val / 4 = w.val then v.extractLsb' (16 * (j.val % 4)) 16 else (s.me.queue q).ents[j]) ∧
      (∀ q : Fin 6, k = 8 * q.val + 4 → (v.extractLsb' 0 5).toNat ≤ 16 → (v.extractLsb' 8 5).toNat ≤ 16 →
        (v.extractLsb' 0 5).toNat ≤ (v.extractLsb' 8 5).toNat →
        ∃ t, QueueWritten (.loadq a imm c {}) s t q ∧ (t.me.queue q).count = v.extractLsb' 0 5 ∧
          (t.me.queue q).ceil = v.extractLsb' 8 5 ∧ (t.me.queue q).closed = v.getLsbD 24 ∧
          (t.me.queue q).endMark = (if v.getLsbD 25 then some (v.extractLsb' 32 12) else none) ∧
          (t.me.queue q).ents = (s.me.queue q).ents) ∧
      (∀ n, n < 4096 → k = 0x100 + n →
        ∃ t, StateWrite (.loadq a imm c {}) s t { s.me.store with tags := t.me.store.tags } ∧
          ∀ m, smGet 0 m t.me.store.tags = if m = n then v &&& 0x8FFFFFFFFFFFFFFF else smGet 0 m s.me.store.tags)) ∧
    (StateAccess (.inflwr a imm c {}) s a imm k → k < 1024 →
      ∃ t, StateWrite (.inflwr a imm c {}) s t { s.me.store with infl := t.me.store.infl } ∧
        ∀ m, smGet 0 m t.me.store.infl = if m = k then v else smGet 0 m s.me.store.infl) ∧
    (StateAccess (.stkload a imm c {}) s a imm k →
      (∀ (m : Fin 16) (w : Nat), w < 8 → k = 8 * m.val + w →
        ∃ t, StateWrite (.stkload a imm c {}) s t { s.me.store with mask := t.me.store.mask } ∧
          ∀ (n : Fin 16) (u : Nat), u < 8 → dwordOf (t.maskEntry n) u = if n = m ∧ u = w then v else dwordOf (s.maskEntry n) u) ∧
      (k = 128 → v.toNat ≤ 16 → ∃ t, StateWrite (.stkload a imm c {}) s t { s.me.store with depth := v.setWidth 5 })) ∧
    (StateAccess (.nestwr a imm c {}) s a imm k →
      (∀ r : Fin 20, (r.val ≤ 4 ∨ 8 ≤ r.val) → k = r.val →
        ∃ t, StateWrite (.nestwr a imm c {}) s t { s.me.store with shadow := t.me.store.shadow } ∧
          ∀ n : Fin 20, t.me.store.shadow[n] = if n = r then v else s.me.store.shadow[n]) ∧
      (∀ n e, n < 8 → e < 16384 → k = 0x10000 + 16384 * n + e →
        ∃ t, StateWrite (.nestwr a imm c {}) s t { s.me.store with acc := t.me.store.acc } ∧
          ∀ m j, m < 8 → j < 32768 → t.me.store.accElem m j =
            if m = n ∧ j = 2 * e then v.toNat % 2 ^ 32 else if m = n ∧ j = 2 * e + 1 then v.toNat / 2 ^ 32 else s.me.store.accElem m j) ∧
      (∀ (r : Fin 64) (w : Nat), w < 64 → k = 0x40000 + 64 * r.val + w →
        ∃ t, StateWrite (.nestwr a imm c {}) s t { s.me.store with v := t.me.store.v } ∧
          ∀ (q : Fin 64) (u : Nat), u < 64 → dwordOf t.me.store.v[q] u = if q = r ∧ u = w then v else dwordOf s.me.store.v[q] u))

/-- R376: SAVEQ, LOADQ, INFLRD, INFLWR, STKSAVE, STKLOAD, NESTRD and NESTWR outside entered mode raise ILLEGAL; entered, before the drain is complete, those
whose index lies in the space stall. -/
def Sys2Proof.Machine.FirmwareStateAccessChecks : Prop :=
  ∀ (i : Instr) (s : State) (a : GSrc) (imm : BitVec 32) (inSpace : Nat → Bool),
    (match i with
     | .saveq _ a imm _ => some (a, imm, queueSpace)
     | .loadq a imm _ _ => some (a, imm, queueSpace)
     | .inflrd _ a imm _ => some (a, imm, fun k => decide (k < 1024))
     | .inflwr a imm _ _ => some (a, imm, fun k => decide (k < 1024))
     | .stksave _ a imm _ => some (a, imm, fun k => decide (k ≤ 128))
     | .stkload a imm _ _ => some (a, imm, fun k => decide (k ≤ 128))
     | .nestrd _ a imm _ => some (a, imm, nestSpace)
     | .nestwr a imm _ _ => some (a, imm, nestSpace)
     | _ => none) = some (a, imm, inSpace) →
    Passes i s 0 [] →
    let k := ((s.withTv 0).src a + imm.setWidth 64).toNat
    (s.myCore.v.mode ≠ .entered → exec i s = .next (takeTrap s { cause := 0x01, info := 0 })) ∧
    (s.myCore.v.mode = .entered → s.me.drain.drained = false → inSpace k = true → exec i s = .next (markStall s .other))

/-- R378: IDLE, but in a context entered alone, stops its context before the next instruction with its limit and destination kept; the PC stands. -/
def Sys2Proof.Machine.IdleStopsContext : Prop :=
  ∀ (d : Fin 32) (a : GSrc) (s : State), Passes (.idle d a {}) s 0 [] →
    (s.myCore.v.mode ≠ .alone →
      ∃ t, exec (.idle d a {}) s = .next t ∧ 
        t.myCore.v = { payShare s.me.task.isSome s.myCore.v with idle := some ((s.withTv 0).src a, d), held := false, woke := none } ∧
        t.myCore.u = s.myCore.u ∧ t.me.queues = s.me.queues ∧ t.me.store = s.me.store ∧ t.me.eng = s.me.eng ∧
        SameTileRest s.cur.stream s.me t.me ∧ SameOutside s t) ∧
    (s.myCore.v.mode = .alone → exec (.idle d a {}) s = .next (takeTrap s { cause := 0x01, info := 0 }))

namespace Sys2Proof.Machine

/-- The decision of a stream's context when the current one decides `v` (R369). -/
def voteAfter (s : State) (v : Vote) (st : Stream) : Option Vote := if st = s.cur.stream then some v else (s.me.core st).v.vote

/-- Every other entered context has decided, and no stream still waits to be entered (R364, R370). -/
def LastToDecide (s : State) : Prop :=
  (∀ st, st ≠ s.cur.stream → (s.me.core st).v.mode = .entered → (s.me.core st).v.vote ≠ none) ∧ ∀ st, (s.me.core st).pend = none

/-- No decision is .done or .leave. -/
def AllGoOn (s : State) (v : Vote) : Prop := ∀ st, voteAfter s v st = none ∨ voteAfter s v st = some .resume ∨ voteAfter s v st = some .skip

/-- Nothing of another tile, of HBM or of the acting tile's task changes. -/
def TileAlone (s t : State) : Prop := (∀ u, u ≠ s.cur.tile → t.tile u = s.tile u) ∧ t.hbm = s.hbm ∧ t.me.task = s.me.task

/-- Every live stream is entered again with a record of the cause, at ctl.svvec; the tile's state and table stay (R371, R374). -/
structure Reentered (s t : State) (cause : BitVec 8) (info : BitVec 32) (infl : BitVec 8) : Prop where
  tile : TileAlone s t ∧ t.me.queues = s.me.queues ∧ t.me.store = s.me.store ∧ t.me.eng = s.me.eng
  user : ∀ st, (t.me.core st).u = (s.me.core st).u
  live : ∀ st, (s.me.core st).u.life = .live → heldAccess (s.me.core st) = false →
    let v := (t.me.core st).v
    v.mode = .entered ∧ v.vote = none ∧ v.regs.pc = (s.me.core st).v.vec ∧ v.trec.cause = cause ∧ v.trec.info = info ∧ v.trec.infl = infl ∧
      v.trec.tpc = (s.me.core st).u.regs.pc ∧ v.trec.peer = false ∧ (t.me.core st).stopped = true
  gone : ∀ st, (s.me.core st).u.life ≠ .live → (t.me.core st).v.mode = .share ∧ (t.me.core st).v.vote = none

/-- Every stream restarts, one whose context decided .skip past its instruction; the caches and the in-flight table are empty (R370, R374). -/
structure Resumed (s t : State) (v : Vote) : Prop where
  tile : TileAlone s t ∧ t.me.drain = Drain.none ∧ t.me.store = { s.me.store with infl := [] }
  cores : ∀ st, (t.me.core st).v.mode = .share ∧ (t.me.core st).v.vote = none ∧ (t.me.core st).stopped = false ∧ (t.me.core st).ic = [] ∧
    (t.me.core st).u =
      if voteAfter s v st = some .skip then
        { (s.me.core st).u with regs := { (s.me.core st).u.regs with pc := (s.me.core st).v.trec.tpc + 16 } }
      else (s.me.core st).u

/-- An entry of the in-flight table and its KIND and ORDER (R368). -/
def entryAt (s : State) (e : Nat) : List Byte := tableEntry s.me.store.infl e
/-- KIND. -/
def kindAt (s : State) (e : Nat) : Nat := fieldAt (entryAt s e) 0 1
/-- ORDER. -/
def orderAt (s : State) (e : Nat) : Nat := fieldAt (entryAt s e) 4 4
/-- WORD. -/
def wordAt (s : State) (e : Nat) : Word128 := BitVec.ofNat 128 (fieldAt (entryAt s e) 0x10 16)

/-- An entry that is checked before every other non-empty one (R374). -/
def FirstEntry (s : State) (e : Nat) : Prop :=
  e < 32 ∧ kindAt s e ≠ 0 ∧ ∀ k, k < 32 → k ≠ e → kindAt s k ≠ 0 → orderAt s e < orderAt s k ∨ orderAt s e = orderAt s k ∧ e < k

/-- The only non-empty entry of the table. -/
def OnlyEntry (s : State) (e : Nat) : Prop := e < 32 ∧ kindAt s e ≠ 0 ∧ ∀ k, k < 32 → k ≠ e → kindAt s k = 0

/-- The OPs of a KIND (R374). -/
def ruleKindOps (kind : Nat) : List Nat :=
  if kind = 1 then [0x40, 0x41, 0x42, 0x43, 0x44, 0x60, 0x61, 0x62, 0x63, 0x64, 0x66, 0x67]
  else if kind = 2 then [0xE1] else if kind = 3 then [0xE3] else if kind = 4 then [0x52] else []

/-- Whether a stream's class issues an OP of a KIND. -/
def ruleKindStream (kind op : Nat) (st : Stream) : Prop :=
  if kind = 1 then st = (if op < 0x60 then .load else .store) else if kind = 4 then st ≠ .compute else st = .compute

/-- The ways in which the first entry fails its check (R374), but for the range of a transfer. -/
def EntryFails (s : State) (e : Nat) : Prop :=
  let bs := entryAt s e
  let w := wordAt s e
  let kind := kindAt s e
  4 < kind ∨ (∀ i, decode w ≠ .ok i) ∨ wordOp w ∉ ruleKindOps kind ∨ 2 < fieldAt bs 1 1 ∨
  (∃ st, fieldAt bs 1 1 = streamCode st ∧ (¬ruleKindStream kind (wordOp w) st ∨ (s.me.core st).u.life ≠ .live)) ∨
  fieldAt bs 2 1 ≠ (if kind = 1 then (w.extractLsb' 80 3).toNat else 0xFF) ∨
  (kind = 3 ∧ 128 < fieldAt bs 8 8) ∨ (kind = 4 ∧ fieldAt bs 8 8 ≠ 0) ∨
  (∃ (st : Stream) (b : Bool), fieldAt bs 1 1 = streamCode st ∧ fieldAt bs 0x20 8 / (if b then 2 else 1) % 2 = 1 ∧
    (s.me.core (peerOf st b)).u.life = .live ∧ (s.me.queue (queueOut st b)).ceil.toNat ≤ (s.me.queue (queueOut st b)).count.toNat)

/-- What an entry gives of its operation (R368, R374). -/
structure EntryGives (s : State) (e : Nat) (o : OpInfo) : Prop where
  stream : streamCode o.stream = fieldAt (entryAt s e) 1 1
  word : o.word = wordAt s e
  seed : o.seed.toNat = fieldAt (entryAt s e) 0x28 8
  ctr : o.ctr.toNat = fieldAt (entryAt s e) 0x30 8
  mode : o.mode.toNat = fieldAt (entryAt s e) 0x38 1 % 8
  regs : o.ra.toNat = fieldAt (entryAt s e) 0x40 8 ∧ o.rb.toNat = fieldAt (entryAt s e) 0x48 8 ∧ o.rc.toNat = fieldAt (entryAt s e) 0x50 8 ∧
    o.rf.toNat = fieldAt (entryAt s e) 0x58 8
  order : o.order = s.me.eng.order
  fresh : o.fault = none ∧ o.post = none

/-- R370, R374: the last decision with one operation in the table and no post. A transfer whose range holds its PROGRESS joins its channel again, not
started, with that prefix; a nest whose steps do goes on from it. -/
def TableReissued (s t : State) (v : Vote) (e : Nat) : Prop :=
  let bs := entryAt s e
  Resumed s t v ∧ t.me.queues = s.me.queues.map (fun q => { q with reserved := 0 }) ∧ t.me.eng.order = s.me.eng.order + 1 ∧
  (∀ ch : Fin 8, kindAt s e = 1 → ch.val = fieldAt bs 2 1 →
    ∃ o : XferOp, let store := o.info.stream == .store
      EntryGives s e o.info ∧ decode (wordAt s e) = .ok o.inst ∧ o.ch = ch ∧ o.prefixBytes = fieldAt bs 8 8 ∧ o.started = false ∧ o.done = [] ∧
      (t.me.chan store ch).ops = (s.me.chan store ch).ops ++ [o]) ∧
  (kindAt s e = 2 → ∃ n : NestOp, t.me.eng.running = some n ∧ EntryGives s e n.info ∧ n.steps = fieldAt bs 8 8 ∧
    ∀ r : Fin 20, n.regs[r].toNat = fieldAt bs (0x60 + 8 * r.val) 8)

end Sys2Proof.Machine

/-- R369-R372, R374: SVRET. Alone, .resume and .skip return the core to share mode with the user PC unchanged, or past its SVCALL; .done starts a drain, with
the SVCALL's record as its first trap, that enters the other live streams. Entered, the tile drained and
its channels idle, the context returns to share mode with its decision recorded, while another entered context has none. With the last one, a .done, the
lowest ctl.stream's, completes the task with its status; else a .leave takes the task off the tile without a record; else a pending STRAGGLER or PREEMPT enters every
live stream again; else the table's entries are checked and reissued and the tile resumes, or the first that fails enters every live stream with ILLEGAL. -/
def Obligations.SvretDecides : Prop :=
  ∀ (var : SvretVar) (vote : Vote) (s : State), Passes (.svret var {}) s 0 [] → svretIllegal (s.withTv 0) var = false →
    vote = (match var with
      | .resume => .resume | .skip => .skip | .leave => .leave | .done a => .done (((s.withTv 0).src a).setWidth 16)) →
    let i : Instr := .svret var {}
    (s.myCore.v.mode = .alone → (var = .resume ∨ var = .skip) →
      ∃ t, exec i s = .next t ∧ t.myCore.v.mode = .share ∧ t.regs = loopNext s.regs s.pc ∧
        t.myCore.u = { s.myCore.u with regs := { s.myCore.u.regs with
          pc := if var = .skip then s.myCore.v.trec.tpc + 16 else s.myCore.u.regs.pc } } ∧
        t.me.queues = s.me.queues ∧ t.me.store = s.me.store ∧ t.me.eng = s.me.eng ∧ SameTileRest s.cur.stream s.me t.me ∧ SameOutside s t) ∧
    (s.myCore.v.mode = .alone → ∀ v, vote = .done v → s.myCore.u.life = .live → s.me.drain.draining = false → s.me.drain.drained = false →
      ∃ t, exec i s = .next t ∧ TileAlone s t ∧ t.me.store = s.me.store ∧ t.me.queues = s.me.queues ∧
        t.me.drain = { s.me.drain with draining := true, trig := 0x3F, first := some s.myCore.v.trec, quiet := false, cancel := false,
                                       mark := s.me.eng.order } ∧
        t.myCore.v.mode = .share ∧ t.myCore.v.vote = some vote ∧ t.myCore.stopped = true ∧ t.regs = loopNext s.regs s.pc ∧
        (∀ st, (t.me.core st).u = (s.me.core st).u) ∧
        ∀ st, st ≠ s.cur.stream → (s.me.core st).u.life = .live → (s.me.core st).v.mode = .share → (s.me.core st).v.vote = none →
          heldAccess (s.me.core st) = false →
          let v := (t.me.core st).v
          v.mode = .entered ∧ v.regs.pc = (s.me.core st).v.vec ∧ v.trec.peer = true ∧ v.trec.cause = 0 ∧ (t.me.core st).stopped = true ∧
            v.trec.pstream.toNat = streamCode s.cur.stream ∧ v.trec.tpc = (s.me.core st).u.regs.pc) ∧
    (s.myCore.v.mode = .entered → (s.me.drain.drained = false ∨ chanBusy s.me s.cur.stream = true) → exec i s = .next (markStall s .other)) ∧
    (s.myCore.v.mode = .entered → s.me.drain.drained = true → chanBusy s.me s.cur.stream = false →
      ((∃ st, st ≠ s.cur.stream ∧ (s.me.core st).v.mode = .entered ∧ (s.me.core st).v.vote = none) →
        ∃ t, exec i s = .next t ∧ t.myCore.v.vote = some vote ∧ t.regs = loopNext s.regs s.pc ∧ t.myCore.v.mode = .share ∧
          t.myCore.u = s.myCore.u ∧ t.me.queues = s.me.queues ∧ t.me.store = s.me.store ∧ t.me.eng = s.me.eng ∧
          SameTileRest s.cur.stream s.me t.me ∧ SameOutside s t) ∧
      (LastToDecide s → s.me.drain.timeout = false → ∀ k, s.me.task = some k →
        (∀ st v, voteAfter s vote st = some (.done v) → (∀ st', streamCode st' < streamCode st → ∀ u, voteAfter s vote st' ≠ some (.done u)) →
          ∃ t, exec i s = .next t ∧ t.me.task = none ∧ t.me.drain = Drain.none ∧ (∀ st, (t.me.core st).u.life = .absent) ∧
            (∀ u, u ≠ s.cur.tile → t.tile u = s.tile u) ∧ t.hbm = s.hbm ∧
            ∀ p ∈ t.disp.pkts, p.id = k.pkt → ∃ rec, smGet .waiting k.index p.tasks = .done v rec ∧ fieldAt rec 0 2 = v.toNat) ∧
        ((∀ st v, voteAfter s vote st ≠ some (.done v)) → (∃ st, voteAfter s vote st = some .leave) →
          ∃ t, exec i s = .next t ∧ t.me.task = none ∧ t.me.drain = Drain.none ∧ (∀ st, (t.me.core st).u.life = .absent) ∧
            (∀ u, u ≠ s.cur.tile → t.tile u = s.tile u) ∧ t.hbm = s.hbm ∧ t.me.eng = { Engines.reset with order := s.me.eng.order } ∧
            t.me.store = { s.me.store with infl := [] } ∧ t.me.queues = Vector.replicate 6 TokQ.reset ∧
            t.disp.saved = s.disp.saved ++
              [(s.cur.tile.val, k, #v[(s.me.core .load).u.life, (s.me.core .compute).u.life, (s.me.core .store).u.life])] ∧
            ∀ p ∈ t.disp.pkts, p.id = k.pkt → smGet .waiting k.index p.tasks = .saved s.cur.tile.val) ∧
        (AllGoOn s vote → ∀ x, s.me.drain.spend = some x →
          ∃ t, exec i s = .next t ∧ Reentered s t 0x31 x 0xFF ∧ t.me.drain = { s.me.drain with spend := none }) ∧
        (AllGoOn s vote → s.me.drain.spend = none → s.me.drain.preq = true →
          ∃ t, exec i s = .next t ∧ Reentered s t 0x38 (if s.me.drain.ridge then 1 else 0) 0xFF ∧ t.me.drain = { s.me.drain with preq := false }) ∧
        (AllGoOn s vote → s.me.drain.spend = none → s.me.drain.preq = false →
          ((∀ e, e < 32 → kindAt s e = 0) → s.myCore.u.life = .live →
            ∃ t, exec i s = .next t ∧ Resumed s t vote ∧ t.me.queues = s.me.queues.map (fun q => { q with reserved := 0 })) ∧
          (∀ e, FirstEntry s e → EntryFails s e →
            ∃ t, exec i s = .next t ∧ Reentered s t 0x01 (BitVec.ofNat 32 e) (BitVec.ofNat 8 e) ∧ t.me.drain = s.me.drain) ∧
          (∀ e, OnlyEntry s e → ¬EntryFails s e → s.myCore.u.life = .live → fieldAt (entryAt s e) 0x20 8 % 4 = 0 → s.me.eng.kept = [] →
            (kindAt s e = 1 ∧ (∀ i st, decode (wordAt s e) = .ok i → fieldAt (entryAt s e) 1 1 = streamCode st →
                i.wf = true ∧
                  fieldAt (entryAt s e) 8 8 ≤ (entryXfer (entryAt s e) (entryInfo s.me (entryAt s e) st none) i (s.fab.nextTag + e)).rangeLen) ∨
              kindAt s e = 2 ∧ s.me.eng.running = none ∧ (∀ i, decode (wordAt s e) = .ok i → i.wf = true) ∧
                fieldAt (entryAt s e) 8 8 ≤ nestTotal (entryNest (entryAt s e))) →
            ∃ t, exec i s = .next t ∧ TableReissued s t vote e))))

/-! ### Events of tiles and tasks -/

namespace Sys2Proof.Machine

/-- A tile cause taken (R359, R363, R364): tile `k` drains; every live stream in share mode that holds no access and has not decided stops with its own record,
its service context entered; user contexts, queues, stores and operations stay, a CHCAN's marks ended, and nothing outside the tile changes but
stalled FEEDPOPs and counters. -/
structure TileDrains (s t : State) (k : TileId) (cause : BitVec 8) (infoOf : Stream → BitVec 32) : Prop where
  draining : (t.tile k).drain.draining = true
  trig : (t.tile k).drain.trig = cause
  mark : (t.tile k).drain.mark = (s.tile k).eng.order
  entered : ∀ st, ((s.tile k).core st).u.life = .live → ((s.tile k).core st).v.mode = .share → heldAccess ((s.tile k).core st) = false →
    ((s.tile k).core st).v.vote = none →
    ((t.tile k).core st).v.mode = .entered ∧ ((t.tile k).core st).v.regs.pc = ((s.tile k).core st).v.vec ∧ ((t.tile k).core st).stopped = true ∧
    ((t.tile k).core st).v.trec = { TrapRec.zero with
      cause := cause, valid := true, stream := BitVec.ofNat 8 (streamCode st), info := infoOf st, tpc := ((s.tile k).core st).u.regs.pc,
      word := recordWord ((s.tile k).core st), infl := 0xFF, pstream := 0xFF, time := s.ns64, cycle := (s.tile k).cycle }
  user : ∀ st, ((t.tile k).core st).u = ((s.tile k).core st).u
  queues : (t.tile k).queues = (s.tile k).queues
  store : (t.tile k).store = (s.tile k).store
  eng : (t.tile k).eng =
    { (s.tile k).eng with chLoad := (s.tile k).eng.chLoad.map Chan.keep, chStore := (s.tile k).eng.chStore.map Chan.keep }
  task : (t.tile k).task = (s.tile k).task
  tiles : ∀ u, u ≠ k → t.tile u = s.tile u
  hbm : t.hbm = s.hbm

/-- A tile may take a tile cause: it holds a task and does not drain, and a stream of it is live. -/
def mayDrain (x : Tile) : Prop := x.task.isSome = true ∧ x.drain.draining = false ∧ x.drain.drained = false ∧ ∃ st, (x.core st).u.life = .live

/-- The live streams as bits 6:4 (R156). -/
def ruleLiveBits (x : Tile) : Nat :=
  (if x.ld.u.life = .live then 16 else 0) + (if x.cp.u.life = .live then 32 else 0) + (if x.st.u.life = .live then 64 else 0)

/-- IDLEs of a tile ended with a code: destination written and PC moved on; of several wakes in one clock the highest code stands (R378). -/
def idleEnded (c : Core) (code : Word64) : Core :=
  match c.v.idle, c.v.woke with
  | some (_, d), _ => { c with v := { c.v with idle := none, woke := some (code, d), regs := loopNext (c.v.regs.writeG d code) c.v.regs.pc } }
  | none, some (k, d) => if k < code then { c with v := { c.v with woke := some (code, d), regs := c.v.regs.writeG d code } } else c
  | none, none => c

/-- A tile that has lost its task (R164, R370). -/
structure TileIdle (s t : State) (k : TileId) : Prop where
  task : (t.tile k).task = none
  drain : (t.tile k).drain = Drain.none
  lives : ∀ st, ((t.tile k).core st).u.life = .absent
  spad : (t.tile k).store.spad = (s.tile k).store.spad
  tiles : ∀ u, u ≠ k → t.tile u = s.tile u
  hbm : t.hbm = s.hbm

/-- The task of a tile completed with a status: its packet has its record. -/
def TaskEnded (t : State) (k : TaskSt) (status : Nat) : Prop :=
  ∀ p ∈ t.disp.pkts, p.id = k.pkt → ∃ v bs, p.ent k.index = .done v bs ∧ v.toNat = status ∧ fieldAt bs 0 2 = status

end Sys2Proof.Machine

/-- R162, R243, R245, R257, R258: TASK_PLACE puts the oldest ready task of a die's only ready queue on its lowest idle tile. TASK_START, its preloads and
arguments read, releases every stream with an entry: live at the entry, g1-g8 the arguments, other registers 0, queues empty under their
ceilings, and those of absent producers closed. Model choices: every mask entry is 0 (log entry 9; R166: the stack is empty), and a
preload and the arguments are read at any alignment (log entry 60). -/
def Obligations.TaskPlacedAndStarted : Prop :=
  (∀ (die : DieId) (s : State) (k : TileId) (q : Nat) (r : ReadyTask),
    dieOf k = die → freeTile s k = true → (∀ u : TileId, u.val < k.val → dieOf u = die → freeTile s u = false) →
    readyQueues s die.val = [q] → placeable s die.val q = some r →
    ∃ t, exec (.taskPlace die) s = .next t ∧ (t.tile k).task = some (taskOf r.pkt r.index) ∧ (t.tile k).drain = Drain.none ∧
      (∀ st, ((t.tile k).core st).u.life = .absent) ∧ (∀ u, u ≠ k → t.tile u = s.tile u) ∧ t.hbm = s.hbm ∧
      ∀ p ∈ t.disp.pkts, p.id = r.pkt.id → p.ent r.index = .placed k.val) ∧
  (∀ (k : TileId) (s s1 s2 : State) (x : TaskSt) (st1 : Store) (args : List Byte),
    (s.tile k).task = some x → x.tstart = none → (∃ e ∈ x.entries.toList, e ≠ 0) →
    (s.tile k).drain.spend = none → (s.tile k).drain.preq = false →
    preload (dispAsker (dieOf k) x.job.val) k x.preloads (List.range 8) (s.tile k).store s = .ok st1 s1 → s1.tile k = s.tile k →
    (x.argptr = 0 ∧ args = [] ∧ s2 = s1 ∨
      x.argptr ≠ 0 ∧ farKeepRead s1 (dispAsker (dieOf k) x.job.val) farStart k.val 8 .dispRead x.argptr.toNat 64 = .ok args s2 ∧
        s2.tile k = s.tile k) →
    ∃ t, exec (.taskStart k) s = .next t ∧ (t.tile k).task = some { x with tstart := some s2.ns } ∧
      (∀ (st : Stream) (n : Fin 3), streamCode st = n.val →
        let u := ((t.tile k).core st).u
        (x.entries[n] = 0 → u.life = .absent) ∧
        (x.entries[n] ≠ 0 → u.life = .live ∧ u.wdog = x.wdog ∧ u.lost = 0 ∧ u.regs.pc = x.entries[n] ∧ u.regs.flags = 0 ∧ u.regs.srctr = 0 ∧
          u.regs.lc0.count = 0 ∧ u.regs.lc1.count = 0 ∧ (∀ p : Fin 8, u.regs.readP p = (p == 0)) ∧
          ∀ g : Fin 32, u.regs.readG g = if 1 ≤ g.val ∧ g.val ≤ 8 then BitVec.ofNat 64 (fieldAt args (8 * (g.val - 1)) 8) else 0)) ∧
      (∀ q : Fin 6, ((t.tile k).queue q).count = 0 ∧ ((t.tile k).queue q).ceil = x.ceils[q] ∧
        ((t.tile k).queue q).closed = (x.entries[(⟨q.val / 2, by omega⟩ : Fin 3)] == 0)) ∧
      (t.tile k).store = { Store.reset with spad := st1.spad, spadBad := st1.spadBad, spadSoft := st1.spadSoft } ∧ ∀ u, u ≠ k → t.tile u = s2.tile u)

/-- R156, R158, R319, R382, R383: the deadlock count of a tile reaching 4,096 clocks raises TOKEN_DEADLOCK in its live streams, with the live streams and each
stream's own reason and queue; its watchdog count reaching 2^WDOG raises HANG with the live streams and the exponent. -/
def Sys2Proof.Machine.DeadlockAndHangDrain : Prop :=
  ∀ (k : TileId) (s : State), mayDrain (s.tile k) →
    let x := s.tile k
    (4096 ≤ x.blocked →
      ∃ t, exec (.tokenDeadlock k) s = .next t ∧
        TileDrains s t k 0x0A fun st => BitVec.ofNat 32 (ruleLiveBits x +
          (match (x.core st).stall with | some (.wait c) => c.toNat | some (.post c) => 4 + c.toNat | _ => 8))) ∧
    (2 ^ wdogExp x ≤ x.wcount →
      ∃ t, exec (.hang k) s = .next t ∧ TileDrains s t k 0x30 fun _ => BitVec.ofNat 32 (ruleLiveBits x + 2 ^ 8 * wdogExp x)) ∧
    (x.blocked < 4096 → exec (.tokenDeadlock k) s = .next s) ∧ (x.wcount < 2 ^ wdogExp x → exec (.hang k) s = .next s)

/-- R263, R365, R366, R368, R373: DRAIN_COMPLETE, every stream of the tile stopped and entered and every operation at rest: DRAINED is 1, the operations accepted
before the trigger leave their units and stand in the in-flight table in acceptance order, their ranges and leases kept; a service context's
trap completes the task TRAP, otherwise a cancel's drain completes it CANCELLED. The table clause asks for a context that has not decided; where
every one has (R372) the decision follows at once. -/
def Sys2Proof.Machine.DrainCompletes : Prop :=
  ∀ (k : TileId) (s : State) (x : TaskSt), drainReady s k = true → (s.tile k).task = some x →
    let y := s.tile k
    (y.drain.dead = true → ∃ t, exec (.drainComplete k) s = .next t ∧ TileIdle s t k ∧ TaskEnded t x 1) ∧
    (y.drain.dead = false → y.drain.cancel = true → ∃ t, exec (.drainComplete k) s = .next t ∧ TileIdle s t k ∧ TaskEnded t x 2) ∧
    (y.drain.dead = false → y.drain.cancel = false → (∃ st, (y.core st).v.mode = .entered ∧ (y.core st).v.vote = none) →
      ∃ t, exec (.drainComplete k) s = .next t ∧ (t.tile k).drain = { y.drain with draining := false, drained := true } ∧
        (t.tile k).task = y.task ∧ (∀ st, ((t.tile k).core st).u = (y.core st).u) ∧
        (t.tile k).store = { y.store with infl := tableOf ((drainEntries y).map (·.2)) } ∧
        (∀ (b : Bool) (ch : Fin 8), ((t.tile k).chan b ch).ops = (y.chan b ch).ops.filter fun o => decide (y.drain.mark ≤ o.info.order)) ∧
        (∀ o ∈ (t.tile k).eng.frozenX, o.info.order < y.drain.mark) ∧
        (∀ q : Fin 6, ((t.tile k).queue q).count = (y.queue q).count ∧ ((t.tile k).queue q).ents = (y.queue q).ents) ∧
        (∀ u, u ≠ k → t.tile u = s.tile u) ∧ t.hbm = s.hbm)

/-- R378: a write of a tile's doorbell ends its IDLEs with 3; module time that reaches an IDLE's limit ends it with 1. -/
def Sys2Proof.Machine.IdleWakes : Prop :=
  (∀ (k : TileId) (s : State), ∃ t, exec (.serviceDoorbell k) s = .next t ∧ (∀ st, (t.tile k).core st = idleEnded ((s.tile k).core st) 3) ∧
    (t.tile k).store = (s.tile k).store ∧ (t.tile k).queues = (s.tile k).queues ∧ (∀ u, u ≠ k → t.tile u = s.tile u) ∧
    t = { s with tiles := t.tiles }) ∧
  (∀ (k : TileId) (st : Stream) (s : State) (lim : Word64) (d : Fin 32), ((s.tile k).core st).v.idle = some (lim, d) →
    (lim ≠ 0 → lim.toNat ≤ s.ns →
      ∃ t, exec (.idleTimeWake k st) s = .next t ∧ (t.tile k).core st = idleEnded ((s.tile k).core st) 1 ∧
        (∀ u, u ≠ st → (t.tile k).core u = (s.tile k).core u) ∧ (∀ u, u ≠ k → t.tile u = s.tile u) ∧ t = { s with tiles := t.tiles }) ∧
    (lim = 0 ∨ s.ns < lim.toNat → exec (.idleTimeWake k st) s = .next s))

/-- R379: JOB_PREEMPT of a RUNNING job with no record armed raises PREEMPT in every released, undrained tile that holds its tasks and makes it DRAINING, or SAVED
when none does; JOB_RESUME of a SAVED job makes it RESUMING, or RUNNING when it has no saved task; SAVED_TASK_PLACE brings a saved task
back to its tile, its contexts entered with a restore record and DRAINED 1. Model choices: every context is entered, also those of exited and
absent streams, and the scratchpad keeps its bytes (log entry 33). -/
def Obligations.JobPreemptionAndRestore : Prop :=
  (∀ (j : JobId) (s : State), (s.job j.val).pre = 0 → jobArmed s j.val = false →
    ∃ t, exec (.jobPreempt j) s = .next t ∧ (t.job j.val).pre = (if s.tiles.any (holdsJob j.val) then 1 else 2) ∧
      (∀ k, holdsJob j.val (s.tile k) = false → t.tile k = s.tile k) ∧
      (∀ k x, (s.tile k).task = some x → x.job = j → x.tstart.isSome = true → inDrain (s.tile k) = false →
        (t.tile k).drain.draining = true ∧ (t.tile k).drain.trig = 0x38 ∧ ∀ st, ((t.tile k).core st).u = ((s.tile k).core st).u) ∧
      t.hbm = s.hbm) ∧
  (∀ (j : JobId) (s : State), (s.job j.val).pre = 2 → jobArmed s j.val = false →
    ∃ t, exec (.jobResume j) s = .next t ∧ t = { s with disp := { s.disp with jobs := t.disp.jobs } } ∧
      (∀ u, u ≠ j.val → t.job u = s.job u) ∧
      t.job j.val = { s.job j.val with
        pre := if (s.disp.saved.any fun e => e.2.1.job.val == j.val) || (s.tiles.any fun x => holdsJob j.val x && x.drain.restore) then 3 else 0 }) ∧
  (∀ (k : TileId) (s : State) (x : TaskSt) (lives : Vector Life 3),
    savedFor s k.val = some (x, lives) → (s.tile k).task = none → k.val ∉ s.disp.nofit →
    ∃ t, exec (.savedTaskPlace k) s = .next t ∧ (t.tile k).task = some x ∧ (t.tile k).drain.drained = true ∧
      (t.tile k).drain.restore = true ∧ (t.tile k).store.spad = (s.tile k).store.spad ∧
      (∀ (st : Stream) (n : Fin 3), streamCode st = n.val →
        ((t.tile k).core st).u.life = lives[n] ∧ ((t.tile k).core st).v.mode = .entered ∧
        ((t.tile k).core st).v.regs.pc = ((s.tile k).core st).v.vec ∧ ((t.tile k).core st).v.trec.cause = 0x38 ∧
        ((t.tile k).core st).v.trec.restore = true ∧ ((t.tile k).core st).v.trec.info = 0x100) ∧
      (∀ u, u ≠ k → t.tile u = s.tile u) ∧ t.hbm = s.hbm)

/-! ### Events of the engines and of homes -/

namespace Sys2Proof.Machine

/-- Bytes of one sector of HBM that an access of a die can reach now (R276, R284, R398, R416). -/
structure HomeReached (x : State) (die : Nat) (p : Page) (idx n : Nat) : Prop where
  home : ∃ h, targetOf x p.pa = .hbm h ∧ idx = hbmIndex p.striped h
  path : rafterOk x die (dieOfIdx idx) = true
  ready : homeReady x (idx / 64) = none
  good : sectorOk x (idx / 64) p = true
  some_ : 0 < n
  sector : idx % 64 + n ≤ 64

/-- Byte `i` of what an access to `idx` reads: 0 where an encrypted page was never written (R463). -/
def homeByte (x : State) (p : Page) (idx i : Nat) : Byte :=
  if readsZero x (idx / 64) p then 0 else memGet x.hbm (idx + i)

/-- HBM after `n` bytes `f` were written at `idx` of one sector. -/
def HomeWritten (x t : State) (p : Page) (idx n : Nat) (f : Nat → Byte) : Prop :=
  (∀ i, i < n → memGet t.hbm (idx + i) = f i) ∧
  ∀ a, ¬(idx ≤ a ∧ a < idx + n) → memGet t.hbm a =
    if readsZero x (idx / 64) p ∧ a / 64 = idx / 64 then 0 else memGet x.hbm a

/-- A channel after its oldest operation has become `o`: it leaves, counted, when nothing of it is left (R308). -/
def HeadBecomes (s t : State) (pl : Place) (ch : Fin 8) (o : XferOp) (rest : List XferOp) : Prop :=
  if opOver (t.tile pl.t).store o then
    (t.tile pl.t).chan pl.store ch = { ops := rest, retired := ((s.tile pl.t).chan pl.store ch).retired + 1 }
  else (t.tile pl.t).chan pl.store ch = { (s.tile pl.t).chan pl.store ch with ops := o :: rest }

/-- The head of a channel, its acceptance number its own. -/
def HeadIs (s : State) (pl : Place) (ch : Fin 8) (o : XferOp) (rest : List XferOp) : Prop :=
  ((s.tile pl.t).chan pl.store ch).ops = o :: rest ∧ o.ch = ch ∧ ∀ q ∈ rest, q.info.order ≠ o.info.order

end Sys2Proof.Machine

/-! ### Pieces by the bit, and the memory-side array (R309, R313, R336-R346) -/

namespace Sys2Proof.Machine

/-- Bit `b` of a memory, bit 0 the lowest of byte 0. -/
def bitAt (m : SMap Byte) (b : Nat) : Bool := (memGet m (b / 8)).getLsbD (b % 8)
/-- Bit `b` of HBM as an access under a page reads it: 0 in an encrypted sector never written (R463). -/
def homeBit (x : State) (p : Page) (b : Nat) : Bool := !readsZero x (b / 512) p && bitAt x.hbm b

/-- The sectors of `n` bytes of HBM from `idx` on, the home of a page, can be reached by a die now (R276, R284, R398, R416). -/
structure HomeReachedN (x : State) (die : Nat) (p : Page) (idx n : Nat) : Prop where
  home : ∃ h, targetOf x p.pa = .hbm h ∧ idx = hbmIndex p.striped h
  path : rafterOk x die (dieOfIdx idx) = true
  some_ : 0 < n
  ready : ∀ a, idx ≤ a → a < idx + n → homeReady x (a / 64) = none
  good : ∀ a, idx ≤ a → a < idx + n → sectorOk x (a / 64) p = true

/-- HBM after the bits that `f` gives were written, counted from byte `idx`; the rest of a sector written to stays as it read. -/
structure HomePut (x t : State) (p : Page) (idx n : Nat) (f : Nat → Option Bool) : Prop where
  put : ∀ b v, b < 8 * n → f b = some v → bitAt t.hbm (8 * idx + b) = v
  beside : ∀ a, (∃ b, b < 8 * n ∧ f b ≠ none ∧ (8 * idx + b) / 512 = a / 512) → (∀ b, b < 8 * n → a = 8 * idx + b → f b = none) →
    bitAt t.hbm a = homeBit x p a
  rest : ∀ a, ¬(∃ b, b < 8 * n ∧ f b ≠ none ∧ (8 * idx + b) / 512 = a / 512) → bitAt t.hbm a = bitAt x.hbm a

/-- A scratchpad after the bits that `f` gives were written, counted from offset `off`. -/
def SpadPut (st st' : Store) (off : Nat) (f : Nat → Option Bool) : Prop :=
  (∀ b, bitAt st'.spad (8 * off + b) = (f b).getD (bitAt st.spad (8 * off + b))) ∧ ∀ a, a < 8 * off → bitAt st'.spad a = bitAt st.spad a

/-- The data and scales of a piece stand at whole places, each in a scratchpad place of its own (R312, R313). -/
structure Placed (p : Piece) : Prop where
  mem : ∀ e ∈ p.els, e.bit % p.mw = 0
  spad : ∀ e ∈ p.els, e.sp % p.sw = 0
  scale : ∀ e ∈ p.scs, e.bit % 8 = 0 ∧ e.sp % 8 = 0
  one : (p.els.map (·.sp)).Nodup ∧ (p.scs.map (·.sp)).Nodup ∧ ∀ e ∈ p.els, ∀ c ∈ p.scs, e.sp + p.sw ≤ c.sp ∨ c.sp + 8 ≤ e.sp
  runs : p.stop = none

/-- What a piece gives each bit of its scratchpad range: bit `i` of element `e` is `v e i`, of a scale `c e i`. -/
def spadImage (p : Piece) (v c : Elem → Nat → Bool) (b : Nat) : Option Bool :=
  match p.scs.find? fun e => e.sp ≤ b && b < e.sp + 8 with
  | some e => some (c e (b - e.sp))
  | none => (p.els.find? fun e => e.sp ≤ b && b < e.sp + p.sw).map fun e => v e (b - e.sp)

/-- What a piece gives each bit of memory from its lowest byte on: the last element of each place stands, and the scales. -/
def memImage (p : Piece) (v c : Elem → Nat → Bool) (b : Nat) : Option Bool :=
  let a := 8 * p.va + b
  match p.scs.reverse.find? fun e => e.bit ≤ a && a < e.bit + 8 with
  | some e => some (c e (a - e.bit))
  | none => (p.els.reverse.find? fun e => e.bit ≤ a && a < e.bit + p.mw).map fun e => v e (a - e.bit)

/-! #### The stages -/

/-- `n` bytes of a record from an offset, little-endian (R338). -/
def ruleRec (rec_ : List Byte) (off n : Nat) : Nat := (List.range n).foldr (fun k a => (rec_.getD (off + k) 0).toNat + 256 * a) 0
/-- Bits of stage word `s` (R339). -/
def ruleStage (maq : List Byte) (s lo n : Nat) : Nat := ruleRec maq (0x40 + 16 * s) 16 / 2 ^ lo % 2 ^ n

/-- An operand of stage `s` (R340). -/
def ruleSel (maq : List Byte) (s : Nat) (b : Box) (code : Nat) : Nat :=
  if code = 0 then b.x else if code = 1 then b.y else if code = 3 then ruleRec maq (8 + 4 * ruleStage maq s 32 3) 4
  else if code = 4 then b.sc else if code = 5 then b.l else 0

/-- The integer result of a stage (R341): wrapped, or saturated, and signed for T = 6. -/
def ruleMdaInt (t : Nat) (sat : Bool) (x : Int) : Nat :=
  let lo : Int := if t = 6 then -2 ^ 31 else 0
  let hi : Int := if t = 6 then 2 ^ 31 - 1 else 2 ^ 32 - 1
  (BitVec.ofInt 32 (if sat then max lo (min hi x) else x)).toNat

/-- The order of a comparison by code (R83, R197). -/
def ruleStageCmp (t cond a b : Nat) : Bool :=
  if t = 7 then
    (match [Cond.eq, .ne, .lt, .le, .gt, .ge, .lo, .ls, .hi, .hs, .tst, .ntst][cond]? with
     | some c => ruleCond c (BitVec.ofNat 32 a) (BitVec.ofNat 32 b)
     | none => false)
  else match [FCond.eq, .ne, .lt, .le, .gt, .ge, .un, .or][cond]? with | some c => ruleFcmp ruleF32 c a b | none => false

/-- The table of R341 but for NOP, QBLK and RED: `d` is the result of stage `s` on `a`, `b` and `c`, rounding as `r` says. -/
abbrev StageResult (maq : List Byte) (r : Rnd) (s a b c d : Nat) : Prop :=
  let t := ruleStage maq s 8 4
  let fl := t = 13
  let sat := ruleStage maq s 35 1 == 1
  let cond := ruleStage maq s 36 4
  let param := ruleStage maq s 40 8
  let v := fun (x : Nat) => if t = 6 then (BitVec.ofNat 32 x).toInt else (x : Int)
  match ruleStage maq s 0 8 with
  | 0x01 => if fl then ∃ f, SumIs ruleF32 r false a b (d, f) else d = ruleMdaInt t sat (v a + v b)
  | 0x02 => if fl then ∃ f, SumIs ruleF32 r true a b (d, f) else d = ruleMdaInt t sat (v a - v b)
  | 0x03 => if fl then ∃ f, ProdIs ruleF32 r a b (d, f) else d = ruleMdaInt t sat (v a * v b)
  | 0x04 =>
    if fl then ∃ f, FmaIs ruleF32 r (ruleF32.num a) (ruleF32.num b) (ruleF32.quiet a) (ruleF32.quiet b) c (d, f)
    else d = ruleMdaInt t sat (v a * v b + v c)
  | 0x05 => d = if fl then ((ruleNaN ruleF32 [a, b]).getD (if ruleF32.key b < ruleF32.key a then b else a, 0)).1 else if v b < v a then b else a
  | 0x06 => d = if fl then ((ruleNaN ruleF32 [a, b]).getD (if ruleF32.key a < ruleF32.key b then b else a, 0)).1 else if v a < v b then b else a
  | 0x07 => d = if ruleStageCmp t cond a b then 2 ^ 32 - 1 else 0
  | 0x08 => d = if c = 0 then b else a
  | 0x09 => d = a * 2 ^ param % 2 ^ 32
  | 0x0A => d = if t = 6 then ((BitVec.ofNat 32 a).sshiftRight param).toNat else a / 2 ^ param
  | 0x0B => d = a &&& b
  | 0x0C => d = a ||| b
  | 0x0D => d = a ^^^ b
  | 0x10 => d = (convert (typeOfCode (ruleStage maq s 12 4)) (typeOfCode t) r (a % 2 ^ (typeOfCode t).width)).1
  | 0x11 => ∃ f g w, ruleFmt (typeOfCode t) = some f ∧ ruleFmt (typeOfCode (ruleStage maq s 12 4)) = some g ∧ DequantIs f g r (b % 256) (a % 2 ^ f.width) (d, w)
  | 0x13 => d = (maq.getD (0xC0 + a % 256) 0).toNat
  | _ => True

/-- QBLK over the 32 operands of a block (R124, R341): its scale code `k`, and its results `d`; position `j` rounds as `r j` says. -/
abbrev BlockQuantIs (maq : List Byte) (r : Nat → Rnd) (s : Nat) (as : List Nat) (k : Nat) (d : Nat → Nat) : Prop :=
  ∃ f q, ruleFmt (typeOfCode (ruleStage maq s 8 4)) = some f ∧ ruleFmt (typeOfCode (ruleStage maq s 12 4)) = some q ∧
    let cs := as.map (· % 2 ^ f.width)
    match ruleBlockScale (typeOfCode (ruleStage maq s 12 4)) f cs with
    | none => k = 0xFF ∧ ∀ j, j < 32 → d j = 0
    | some e => k = e ∧ ∀ j, j < 32 → let c := cs.getD j 0
        if f.isInf c then d j = q.infCode (f.neg c) else ∃ w, QuantIs f q (r j) e c (d j, w)

/-- The total of RED by its operator (R346), on 32-bit values. -/
def ruleRed (cond : Nat) (xs : List Nat) : Nat :=
  let signed := fun (x : Nat) => (BitVec.ofNat 32 x).toInt
  match cond with
  | 0 => xs.foldl (· + ·) 0 % 2 ^ 32
  | 1 => xs.foldl (· ^^^ ·) 0
  | 2 => (BitVec.ofInt 32 (xs.foldl (fun a x => max a (signed x)) (-2 ^ 31))).toNat
  | 3 => (BitVec.ofInt 32 (xs.foldl (fun a x => min a (signed x)) (2 ^ 31 - 1))).toNat
  | 4 => xs.foldl max 0
  | _ => xs.foldl min (2 ^ 32 - 1)

/-- The position whose container position `q` holds after the permutation point in the record at `off`, if it applies after stage `s` (R345). -/
def rulePp (maq : List Byte) (off s q : Nat) : Nat :=
  let w := ruleRec maq off 4
  let param := w / 2 ^ 8 % 2 ^ 9
  let r := 2 ^ param
  if w % 2 ^ 4 ≠ s then q
  else
    match w / 2 ^ 4 % 2 ^ 4 with
    | 1 => q ^^^ param
    | 2 => (q + param) % 512
    | 3 => q % r * (512 / r) + q / r
    | _ => q

/-- What stage `s` does to a window (R341-R346): `mid` are its positions before the permutation points. -/
abbrev StageGives (m : MdaRun) (s : Nat) (w w' : Win) : Prop :=
  let op := ruleStage m.maq s 0 8
  let rnd := ruleStage m.maq s 16 3
  let at_ := fun p => w.bs.getD p Box.idle
  let sel := fun p lo => ruleSel m.maq s (at_ p) (ruleStage m.maq s lo 3)
  let r := fun p => (⟨if rnd = 6 then m.dyn else rnd, m.seed, m.ctr, ((m.widx * 512 + p) * 8 + s + (at_ p).pass * 2 ^ 56) % 2 ^ 64,
    ruleStage m.maq s 35 1 == 1⟩ : Rnd)
  ∃ (mid : Nat → Box) (d : Nat → Nat),
    (∀ p, p < 512 → mid p =
      if op = 0 ∨ op = 0x14 then at_ p else if ruleStage m.maq s 29 2 = 1 then { at_ p with y := d p } else { at_ p with x := d p }) ∧
    (op ≠ 0x12 → w'.codes = w.codes ∧ ∀ p, p < 512 → StageResult m.maq (r p) s (sel p 20) (sel p 23) (sel p 26) (d p)) ∧
    (op = 0x12 → w'.codes.length = 16 ∧ ∀ j, j < 16 →
      BlockQuantIs m.maq (fun i => { r (32 * j + i) with idx := ((m.widx * 512 + 32 * j + i) * 8 + s) % 2 ^ 64 }) s
        ((List.range 32).map fun i => sel (32 * j + i) 20) (w'.codes.getD j 0) fun i => d (32 * j + i)) ∧
    w'.total = (if op = 0x14 then
      ruleRed (ruleStage m.maq s 36 4) (((List.range 512).filter fun p => m.own.1 ≤ p && p < m.own.2 && (at_ p).act).map fun p => sel p 20)
     else w.total) ∧
    w'.bs.length = 512 ∧
    ∀ q, q < 512 → let f := mid (rulePp m.maq 0x28 s (rulePp m.maq 0x2C s q))
      w'.bs.getD q Box.idle = { mid q with x := f.x, y := f.y, act := f.act }

end Sys2Proof.Machine

namespace Sys2Proof.Machine

/-! #### Windows and pieces through the array -/

/-- How many elements of a piece at the place of `e` come before it (R336): lower logical numbers, then earlier in the list of a DLDX or DSTX. -/
def ruleRank (p : Piece) (e : Elem) : Nat := (p.els.filter fun f => f.bit == e.bit && (decide (f.l < e.l) || (f.l == e.l && decide (f.sp < e.sp)))).length
/-- The multiplicity of the place of `e` in a piece. -/
def ruleMult (p : Piece) (e : Elem) : Nat := (p.els.filter fun f => f.bit == e.bit).length

/-- The window of a pass (R336, R337, R340): `takes e` says that element `e` makes pass `k`; the other positions are inactive. -/
structure WindowIs (p : Piece) (k : Nat) (takes : Elem → Prop) (x y sc : Elem → Nat) (win : List Box) : Prop where
  len : win.length = 512
  at_ : ∀ e ∈ p.els, takes e → win[e.bit / p.mw % 512]? = some ⟨x e, y e, true, e.l % 2 ^ 32, sc e, k⟩
  idle : ∀ q, q < 512 → (∀ e ∈ p.els, takes e → e.bit / p.mw % 512 ≠ q) → win[q]? = some Box.idle

/-- How the array runs on the window of a piece (R342, R346). -/
def ruleRun (o : XferOp) (p : Piece) : MdaRun :=
  ⟨o.maq, o.info.seed, o.info.ctr, o.info.mode.toNat, (p.els.headD ⟨0, 0, 0⟩).bit / (512 * p.mw), (0, 512)⟩

/-- What the array gives for an element of a window: x at its position. -/
def arrayGives (m : MdaRun) (win : List Box) (p : Piece) (e : Elem) : Nat := ((runArray m win).bs.getD (e.bit / p.mw % 512) Box.idle).x

/-- A number of `w` bits given by bits. -/
def bitsNat (w : Nat) (f : Nat → Bool) : Nat := (List.range w).foldr (fun k a => (if f k then 1 else 0) + 2 * a) 0
/-- The memory value of an element at its home (R116, R337). -/
def ruleMem (x : State) (g : Page) (idx : Nat) (p : Piece) (e : Elem) : Nat := bitsNat p.mw fun k => homeBit x g (8 * idx + (e.bit - 8 * p.va) + k)
/-- The scratchpad value of an element (R116, R337). -/
def ruleSpad (st : Store) (off : Nat) (p : Piece) (e : Elem) : Nat := bitsNat p.sw fun k => bitAt st.spad (8 * off + e.sp + k)

/-- What it takes for piece `k`, not begun, of the oldest operation of a channel to be performed now at a home of this module through its array:
the order of R299, R300 and R309, its page `pg` with home `idx`, the scratchpad, and the scale operands `sc` of its elements, with which the
module is `y`. -/
structure ArrayPiece (s y : State) (pl : Place) (ch : Fin 8) (o : XferOp) (rest : List XferOp) (k : Nat) (p : Piece) (pg : Page) (idx : Nat) (sc : Elem → Nat) : Prop where
  head : HeadIs s pl ch o rest
  started : o.started = true
  piece : (o.pieces (s.tile pl.t).store)[k]? = some p
  todo : o.isDone k p = false ∧ o.begun k = false ∧ p.els ≠ []
  may : pieceMay s pl o (o.pieces (s.tile pl.t).store) k p = true
  maq : o.maq ≠ [] ∧ rstage o.maq = 0
  placed : Placed p
  free : pieceStall (s.tile pl.t) o p = none ∧ (inbound o.inst = false → pieceBad (s.tile pl.t) o p = none) ∧ ∀ l ∈ s.fab.locks, l.owner ≠ redOwner pl o k
  page : ∃ x, piecePage s pl o p = .ok pg x ∧ pieceScales x pl o k p = .ok sc y
  home : HomeReachedN y (dieOf pl.t).val pg idx p.memBytes

end Sys2Proof.Machine

/-- R339-R346: a window of 512 positions runs through the stages of a checked maquette in order: each takes its operands, gives the result of its row at every
position, puts it where DST names, applies its permutation points, and RED takes its total. Another module's share of the positions of RED is the
MdaRun's own. -/
def Sys2Proof.Machine.StagesCompute : Prop :=
  ∀ (m : MdaRun) (bs : List Box), maqFieldBad m.maq = none → m.maq.length = 512 → bs.length = 512 → m.dyn ≤ 5 →
    (∀ b ∈ bs, b.x < 2 ^ 32 ∧ b.y < 2 ^ 32 ∧ b.l < 2 ^ 32 ∧ b.sc < 256) →
    ∃ w : Nat → Win, w 0 = ⟨bs, [], 0⟩ ∧ w (ruleRec m.maq 6 1) = runArray m bs ∧ ∀ s, s < ruleRec m.maq 6 1 → StageGives m s (w s) (w (s + 1))

/-- R324, R336, R337, R344: PIECE_COMPLETE of a piece with a maquette at a home of this module. A read runs one pass, of the first element of each place,
and gives every element its position's x; a write runs one pass, of the last, and writes x; a combine runs its passes over memory as the one before
left it. Block scales that are delivered go unchanged. -/
def Sys2Proof.Machine.PieceThroughArray : Prop :=
  ∀ (pl : Place) (ch : Fin 8) (k : Nat) (s y : State) (o : XferOp) (rest : List XferOp) (p : Piece) (pg : Page) (idx : Nat) (sc : Elem → Nat),
    ArrayPiece s y pl ch o rest k p pg idx sc →
    let m := ruleRun o p
    let st := (s.tile pl.t).store
    let mem := ruleMem y pg idx p
    let spad := ruleSpad st o.off p
    let others := fun (t : State) => HeadBecomes s t pl ch (o.performed k) rest ∧ ∀ u, u ≠ pl.t → t.tile u = s.tile u
    (inbound o.inst = true → ∃ t win, exec (.pieceComplete pl.t pl.store ch k) s = .next t ∧ others t ∧ (∀ a, bitAt t.hbm a = bitAt s.hbm a) ∧
      WindowIs p 0 (fun e => ruleRank p e = 0) mem (fun _ => 0) sc win ∧
      SpadPut st (t.tile pl.t).store o.off
        (spadImage p (fun e i => (arrayGives m win p e).testBit i) fun e i => homeBit y pg (8 * idx + (e.bit - 8 * p.va) + i))) ∧
    (maqKind o.inst = 1 → o.writesCodes = false → ∃ t win, exec (.pieceComplete pl.t pl.store ch k) s = .next t ∧ others t ∧
      (t.tile pl.t).store = st ∧ WindowIs p 0 (fun e => ruleRank p e + 1 = ruleMult p e) spad (fun _ => 0) sc win ∧
      HomePut y t pg idx p.memBytes (memImage p (fun e i => (arrayGives m win p e).testBit i) fun e i => bitAt st.spad (8 * o.off + e.sp + i))) ∧
    (isDred o.inst = true → ∃ (t : State) (v : Nat → Nat → Nat) (n : Nat), exec (.pieceComplete pl.t pl.store ch k) s = .next t ∧ others t ∧
      (t.tile pl.t).store = st ∧ (∀ e ∈ p.els, ruleRank p e < n) ∧ (∀ e ∈ p.els, v 0 e.bit = mem e) ∧
      (∀ j, j < n → ∃ win, WindowIs p j (fun e => ruleRank p e = j) (fun e => v j e.bit) spad sc win ∧ ∀ e ∈ p.els,
        v (j + 1) e.bit = if j < ruleMult p e then arrayGives m win p e % 2 ^ p.mw else v j e.bit) ∧
      HomePut y t pg idx p.memBytes (memImage { p with scs := [] } (fun e i => (v n e.bit).testBit i) fun _ _ => false))

/-- R344: the scale operand of an element, where the record is block-scaled and a stage reads it: from memory, for a read or a combine whose codes
lie in one run at a home of this module; from the delivered scales of a write; 0 for a write to another format. -/
def Sys2Proof.Machine.ScaleOperand : Prop :=
  ∀ (pl : Place) (k : Nat) (s : State) (o : XferOp) (p : Piece), o.begun k = false →
    (o.lay.bsc = false ∨ usesScales o.maq = false → ∃ sc, pieceScales s pl o k p = .ok sc s ∧ ∀ e, sc e = 0) ∧
    (o.lay.bsc = true → usesScales o.maq = true → maqKind o.inst = 1 → o.lay.delivered = true → ∃ sc, pieceScales s pl o k p = .ok sc s ∧
      ∀ e, sc e = (memGet (s.tile pl.t).store.spad (o.off + round64 o.dataLen + e.sp / p.sw / 32)).toNat) ∧
    (o.lay.bsc = true → usesScales o.maq = true → maqKind o.inst = 1 → o.lay.sf ≠ o.lay.fmt →
      ∃ sc, pieceScales s pl o k p = .ok sc s ∧ ∀ e, sc e = 0) ∧
    (∀ (a idx : Nat) (bs : List Nat) (pg : Page) (x : State), o.lay.bsc = true → usesScales o.maq = true → maqKind o.inst ≠ 1 →
      o.scaleRuns p = [(a, bs)] → xferPage s pl o .mdaRead a bs.length false true = .ok pg x →
      HomeReached x (dieOf pl.t).val pg idx bs.length →
      ∃ sc y, pieceScales s pl o k p = .ok sc y ∧ (∀ n, memGet y.hbm n = memGet s.hbm n) ∧ y.tiles = s.tiles ∧
        ∀ e ∈ p.els, ∃ j, bs[j]? = some (e.l / 32) ∧ o.lay.scaleAddr e.l = a + j ∧ sc e = (homeByte x pg idx j).toNat)

/-- R346: the result ATOM of a piece, of total `tot` and not yet made, at a home of this module: the word becomes what the operator's ATOM gives. -/
def Sys2Proof.Machine.ResultAtom : Prop :=
  ∀ (pl : Place) (k tot idx : Nat) (s x : State) (o : XferOp) (pg : Page) (op : AtomOp),
    let r := rstage o.maq
    r ≠ 0 → o.begun k = false → tot < 2 ^ 32 →
    [AtomOp.add, .xor, .smax, .smin, .zmax, .zmin][ruleStage o.maq (r - 1) 36 4]? = some op →
    reach s (xferAsker s pl o) .rmw (BitVec.ofNat 64 (ruleRec o.maq 0x30 8)) 4 o.ch.val false = (.page pg, x) →
    HomeReached x (dieOf pl.t).val pg idx 4 →
    let old := (List.range 4).foldr (fun j v => (homeByte x pg idx j).toNat + 256 * v) 0
    ∃ t new, redAtomDo s pl o k tot = .ok () t ∧ ruleAtom op 32 (BitVec.ofNat 32 old) (BitVec.ofNat 32 tot) = some new ∧
      HomeWritten x t pg idx 4 (fun j => new.extractLsb' (8 * j) 8) ∧ t.tiles = s.tiles

namespace Sys2Proof.Machine

/-- A fault stops the oldest operation of a channel and starts the drain of its tile with the trap that it names (R320, R363); the operation is a user
context's, and the tile does not drain yet. -/
structure HeadFaulted (s t : State) (pl : Place) (ch : Fin 8) (o : XferOp) (f : OpFault) : Prop where
  head : ((t.tile pl.t).chan pl.store ch).ops.head? = some { o with info := { o.info with fault := some f } }
  drain : (t.tile pl.t).drain.draining = true ∧ (t.tile pl.t).drain.trig = f.cause
  first : ∃ r, (t.tile pl.t).drain.first = some r ∧ r.cause = f.cause ∧ r.info = f.info ∧ r.akind = f.akind ∧ r.addr = f.addr ∧ r.async = true ∧
    r.stream = BitVec.ofNat 8 (streamCode o.info.stream)
  store : (t.tile pl.t).store = (s.tile pl.t).store
  rest : (∀ u, u ≠ pl.t → t.tile u = s.tile u) ∧ t.hbm = s.hbm

/-- An operation that names a maquette and may start now (R308, R331, R347). -/
structure MayStart (s : State) (pl : Place) (ch : Fin 8) (o : XferOp) (rest : List XferOp) : Prop where
  head : HeadIs s pl ch o rest
  todo : o.started = false ∧ opStops (s.tile pl.t) o = false
  free : cfenceHolds (s.tile pl.t) o = false ∧ listStalled (s.tile pl.t) o = false ∧ ownOverlap s pl o = none
  maq : hasRecord o.inst = true ∧ o.lay.maq ≠ 0
  user : o.info.ctx = .user ∧ (s.tile pl.t).drain.draining = false ∧ (s.tile pl.t).drain.drained = false

/-- MAQUETTE (R350). -/
def ruleMaqFault (ch : Fin 8) (o : XferOp) (sub detail : Nat) : OpFault :=
  ⟨0x1A, BitVec.ofNat 32 (detail * 65536 + sub * 256 + ch.val), 1, BitVec.ofNat 64 o.lay.maq⟩

/-- A request of a transfer channel as it leaves its die, of kind `ty` on channel `vc`, with its stream's next SEQ (R401, R404). -/
def rulePiecePacket (x : State) (pl : Place) (ch : Fin 8) (pg : Page) (ty vc n : Nat) (bs : List Byte) : Packet :=
  { blankPacket with
    ty := BitVec.ofNat 8 ty, ctl := BitVec.ofNat 8 ((if isWindowPa pg.pa then 7 else vc) + if pg.ord = 0 then 8 else 0), len := BitVec.ofNat 16 n,
    dmod := BitVec.ofNat 12 (pg.pa / 2 ^ 52), ddie := destDie pg.pa pg.striped, sdie := dieOf pl.t,
    sch := BitVec.ofNat 16 (pl.t.val * 256 + (if pl.store then 2 else 0) * 64 + 32 + ch.val), addr := BitVec.ofNat 64 pg.pa,
    job := jobIdOf (tileJob (x.tile pl.t)), attr := attrBits pg, payload := bs }

/-- A request with its stream's next SEQ has left, and waits for its answer (R404, R405). -/
def LeftAs (x t : State) (ow : Owner) (va : Word64) (q : Packet) : Prop :=
  let q := { q with seq := BitVec.ofNat 32 (smGet 0 (streamKey q.sch q.dmod) x.fab.seqs), smod := x.fab.modnum }
  t.fab.reqs = x.fab.reqs ++ [⟨q.sdie, q, ow, va, 1, x.time.clk⟩] ∧ t.fab.out = x.fab.out ++ [sealPacket q]

/-- Piece `k`, not begun, of the oldest operation of a channel, whose page is on another module and whose packets may leave now. -/
structure AwayPiece (s x : State) (pl : Place) (ch : Fin 8) (o : XferOp) (rest : List XferOp) (k : Nat) (p : Piece) (pg : Page) : Prop where
  head : HeadIs s pl ch o rest
  started : o.started = true
  piece : (o.pieces (s.tile pl.t).store)[k]? = some p
  todo : o.isDone k p = false ∧ o.begun k = false ∧ p.els ≠ []
  may : pieceMay s pl o (o.pieces (s.tile pl.t).store) k p = true
  placed : Placed p
  page : piecePage s pl o p = .ok pg x
  away : ∃ a, targetOf x pg.pa = .remote a
  port : portsUp x (dieOf pl.t).val = true
  free : ∀ l ∈ s.fab.locks, l.owner ≠ redOwner pl o k

end Sys2Proof.Machine

/-- R96, R347, R350, R351: TRANSFER_START of an operation with a maquette. A part of it at a home of this module is read whole; a check of the access that
fails is MAQUETTE READ. Read whole, it is checked: seal, version and seal of a resumed one, fields, and agreement with the operation; the first
failure stops the operation before its first piece, and else it starts with its copy. -/
def Sys2Proof.Machine.MaquetteStarts : Prop :=
  (∀ (pl : Place) (s x : State) (o : XferOp) (i va n idx : Nat) (pg : Page), o.ans 0 (partMaq i) = none → o.sent 0 (partMaq i) = false →
    reach s (xferAsker s pl o) .record (BitVec.ofNat 64 va) n o.ch.val false = (.page pg, x) →
    mustFollow x pl o.info.order [touchAt x pg n] = false → HomeReachedN x (dieOf pl.t).val pg idx n →
    ∃ bs t, maqPart s pl o i va n = .ok (some bs) t ∧ bs.length = n ∧ t.tiles = s.tiles ∧ (∀ a, memGet t.hbm a = memGet s.hbm a) ∧
      ∀ j b, j < n → b < 8 → (bs.getD j 0).getLsbD b = homeBit x pg (8 * (idx + j) + b)) ∧
  (∀ (pl : Place) (ch : Fin 8) (s x : State) (o : XferOp) (rest : List XferOp) (va n : Nat) (cuts : List (Nat × Nat)) (c : BitVec 8) (i : BitVec 32),
    MayStart s pl ch o rest → maqCuts o.lay.maq = (va, n) :: cuts → o.ans 0 (partMaq 0) = none → o.sent 0 (partMaq 0) = false →
    reach s (xferAsker s pl o) .record (BitVec.ofNat 64 va) n o.ch.val false = (.fault c i, x) →
    ∃ t, exec (.transferStart pl.t pl.store ch) s = .next t ∧ HeadFaulted s t pl ch o (ruleMaqFault ch o 4 c.toNat)) ∧
  (∀ (pl : Place) (ch : Fin 8) (s x : State) (o : XferOp) (rest : List XferOp) (bs : List Byte),
    MayStart s pl ch o rest → maqParts pl o (maqCuts o.lay.maq).zipIdx s = .ok (some bs) x → bs.length = 512 → x.tiles = s.tiles → x.hbm = s.hbm →
    let kind := match o.inst with | .dst _ _ _ => 1 | .dstx _ _ _ => 1 | .dred _ _ _ => 2 | _ => 0
    let id : BitVec 16 × BitVec 32 := (BitVec.ofNat 16 (ruleRec bs 0 2), BitVec.ofNat 32 (ruleRec bs 0x1FC 4))
    let faults := fun (sub detail : Nat) =>
      ∃ t, exec (.transferStart pl.t pl.store ch) s = .next t ∧ HeadFaulted s t pl ch o (ruleMaqFault ch o sub detail)
    (crc32c (bs.take 508) ≠ ruleRec bs 0x1FC 4 → faults 1 (ruleRec bs 0 2)) ∧
    (crc32c (bs.take 508) = ruleRec bs 0x1FC 4 → (∃ d, o.maqId = some d ∧ d ≠ id) → faults 5 0) ∧
    (crc32c (bs.take 508) = ruleRec bs 0x1FC 4 → (o.maqId = none ∨ o.maqId = some id) →
      (∀ d, maqFieldBad bs = some d → faults 2 d) ∧
      (maqFieldBad bs = none →
        (ruleRec bs 2 1 ≠ kind → faults 3 2) ∧
        (ruleRec bs 2 1 = kind → ruleRec bs 4 1 ≠ o.lay.fmt → faults 3 4) ∧
        (ruleRec bs 2 1 = kind → ruleRec bs 4 1 = o.lay.fmt → ruleRec bs 5 1 ≠ o.lay.sf → faults 3 5) ∧
        (maqAgreeBad bs o.lay o.inst = none →
          ∃ t, exec (.transferStart pl.t pl.store ch) s = .next t ∧ t.hbm = s.hbm ∧ (t.tile pl.t).store = (s.tile pl.t).store ∧
            (∀ u, u ≠ pl.t → t.tile u = s.tile u) ∧
            HeadBecomes s t pl ch
              { o with maq := bs, maqId := some id, arrived := o.arrived.filter (fun a => !isMaqPart a.2.1), started := true } rest))))

/-- R309, R400-R404: PIECE_COMPLETE of a piece of another module's memory, without a maquette: an inbound one leaves as one READ, an outbound one of one run of
bytes as one WRITE with its data, ORDERED on an SO page; the answer to a READ lands when it has come. The packets of a piece with a maquette that
go to a module for the first time leave behind the two halves of its copy. -/
def Sys2Proof.Machine.RemotePieceTravels : Prop :=
  (∀ (pl : Place) (ch : Fin 8) (k : Nat) (s x : State) (o : XferOp) (rest : List XferOp) (p : Piece) (pg : Page),
    AwayPiece s x pl ch o rest k p pg → o.maq = [] → p.mw = p.sw → isDred o.inst = false → isDfill o.inst = false →
    let n := p.memBytes
    let va := BitVec.ofNat 64 p.va
    let ow := Owner.piece pl.t.val pl.store ch.val o.info.order k 0
    let sent := fun (t : State) => (∃ air, ((t.tile pl.t).chan pl.store ch).ops = { o with out := (k, 0) :: o.out, air := air } :: rest) ∧
      (t.tile pl.t).store = (s.tile pl.t).store ∧ (∀ u, u ≠ pl.t → t.tile u = s.tile u) ∧ t.hbm = s.hbm
    (inbound o.inst = true → canSend x (xferAsker x pl o) (rulePiecePacket x pl ch pg 0 1 n []) = true →
      ∃ t, exec (.pieceComplete pl.t pl.store ch k) s = .next t ∧ sent t ∧ LeftAs x t ow va (rulePiecePacket x pl ch pg 0 1 n [])) ∧
    (∀ bs : List Byte, inbound o.inst = false → pieceStall (s.tile pl.t) o p = none → pieceBad (s.tile pl.t) o p = none →
      (∃ b, memRuns p.mw p.els p.scs = [b]) → bs.length = n →
      (∀ b, b < 8 * n → memImage p (fun e i => bitAt (s.tile pl.t).store.spad (8 * o.off + e.sp + i))
        (fun e i => bitAt (s.tile pl.t).store.spad (8 * o.off + e.sp + i)) b = some ((bs.getD (b / 8) 0).getLsbD (b % 8))) →
      canSend x (xferAsker x pl o) (rulePiecePacket x pl ch pg 1 2 n bs) = true →
      ∃ t, exec (.pieceComplete pl.t pl.store ch k) s = .next t ∧ sent t ∧ LeftAs x t ow va (rulePiecePacket x pl ch pg 1 2 n bs))) ∧
  (∀ (pl : Place) (ch : Fin 8) (k : Nat) (s : State) (o : XferOp) (rest : List XferOp) (p : Piece) (bs : List Byte),
    HeadIs s pl ch o rest → o.started = true → (o.pieces (s.tile pl.t).store)[k]? = some p → o.isDone k p = false → k ∉ o.bad → Placed p →
    p.els ≠ [] → p.mw = p.sw → inbound o.inst = true → o.maq = [] → o.ans k (partData 0) = some bs → o.ans k partVals = none → bs.length = p.memBytes →
    pieceStall (s.tile pl.t) o p = none →
    let got := fun (e : Elem) i => (bs.getD ((e.bit - 8 * p.va + i) / 8) 0).getLsbD ((e.bit - 8 * p.va + i) % 8)
    ∃ t, exec (.pieceComplete pl.t pl.store ch k) s = .next t ∧ HeadBecomes s t pl ch (o.performed k) rest ∧
      SpadPut (s.tile pl.t).store (t.tile pl.t).store o.off (spadImage p got got) ∧ (∀ u, u ≠ pl.t → t.tile u = s.tile u) ∧ t.hbm = s.hbm) ∧
  (∀ (pl : Place) (ch : Fin 8) (k : Nat) (s x t : State) (o q : XferOp) (rest : List XferOp) (p : Piece) (pg : Page),
    AwayPiece s x pl ch o rest k p pg → inbound o.inst = true → o.maq.length = 512 → BitVec.ofNat 12 (pg.pa / 2 ^ 52) ∉ o.maqTo → (o.parts p).length = 1 →
    exec (.pieceComplete pl.t pl.store ch k) s = .next t → ((t.tile pl.t).chan pl.store ch).ops.head? = some q → q.out ≠ o.out →
    ∃ h0 h1 r, t.fab.reqs = x.fab.reqs ++ [h0, h1, r] ∧ h0.pkt.ty = 4 ∧ h1.pkt.ty = 4 ∧ r.pkt.ty = 0 ∧
      h0.pkt.payload = o.maq.take 256 ∧ h1.pkt.payload = o.maq.drop 256 ∧ h0.pkt.opc = 0 ∧ h1.pkt.opc = 1 ∧
      (∀ a ∈ [h0, h1, r], a.pkt.stag = o.stag ∧ a.pkt.dmod = BitVec.ofNat 12 (pg.pa / 2 ^ 52)))

/-- R335-R346, R349: what the memory-side array computes: a window through its stages, the pieces of reads, writes and combines that pass it at a home of this
module (those of maquettes without RED), their scale operands, and the result ATOM. -/
def Obligations.ArrayComputes : Prop := StagesCompute ∧ PieceThroughArray ∧ ScaleOperand ∧ ResultAtom

namespace Sys2Proof.Machine

/-- A matrix operand (R123, R216): the value of an element's code under its block scale, if it has one, and the .f32 NaN that it gives as a NaN. A scale code
0xFF gives the positive quiet NaN (log entry 57). -/
def ruleOperand (t : ElemType) (f : RuleFmt) (c : Nat) : Option Nat → RuleNum × Nat
  | none => (f.num c, (convert .f32 t Rnd.near c).1)
  | some sc =>
    if sc = 255 then (⟨true, false, false, false, 0, 276⟩, 0x7FC00000)
    else ({ f.num c with m := f.mag c * 2 ^ sc, u := 276 }, (convert .f32 t Rnd.near c).1)

/-- A(i, k) of a step (R222, R223). -/
def ruleA (st : Store) (g : StepCfg) (rd : Rnd) (f : RuleFmt) (i k : Nat) : RuleNum × Nat :=
  let t := typeOfCode g.c.afmt
  let e := i * 256 + g.i0 * g.c.kstep + k
  if g.c.asrc then ruleOperand t f (convert t .f32 { rd with idx := e } (st.accElem (g.c.abase % 8) e)).1 none
  else ruleOperand t f (spadElem st (g.ab + k * g.c.aks) t.width i)
    (if g.c.sca then some (memGet st.spad (g.sa + 128 * (k / 32) + i)).toNat else none)

/-- B(k, j) of a step (R222). -/
def ruleB_ (st : Store) (g : StepCfg) (f : RuleFmt) (k j : Nat) : RuleNum × Nat :=
  let t := typeOfCode g.c.bfmt
  ruleOperand t f (spadElem st (g.bb + k * g.c.bks) t.width j) (if g.c.scb then some (memGet st.spad (g.sb + 256 * (k / 32) + j)).toNat else none)

end Sys2Proof.Machine

/-- R216, R221, R222, R224: NEST_START makes the pending nest the running one. NEST_STEP, with no residue mismatch, no bad operand and no range in its way, commits
one step of a user context's nest, the replay of a squashed step also in a drain: each element of the tile is its start plus the sum of products, modulo 2^32, for integer formats, and for floating ones the chain of
fused multiply-adds by ascending k-index, each rounded once to nearest even (R140); other tiles stay, and the nest is one step further or retired after its last. -/
def Sys2Proof.Machine.NestStepCommits : Prop :=
  (∀ (k : TileId) (s : State) (n : NestOp), (s.tile k).eng.running = none → (s.tile k).eng.pending = some n →
    stopsNow (s.tile k) n.info = false →
    exec (.nestStart k) s = .next (s.setTile k { s.tile k with eng := { (s.tile k).eng with running := some n, pending := none } })) ∧
  (∀ (k : TileId) (s : State) (n : NestOp), (s.tile k).eng.running = some n → n.info.fault = none →
    (stopsNow (s.tile k) n.info = false ∨ n.replay = true) → n.steps < nestTotal n.regs → n.ghost = false → (s.tile k).degraded = false → stepStalled (s.tile k) n = false →
    let g := nestStepCfg n.regs n.steps
    let st := (s.tile k).store
    stepBad st g = none → g.t < 8 →
    let ta := typeOfCode g.c.afmt
    let tb := typeOfCode g.c.bfmt
    let start := fun e => if g.c.zf ∧ g.i0 = 0 then (if ta.isInt then 0 else 0x80000000) else st.accElem g.t e
    let sum := fun i j => ((List.range g.c.kstep).map fun q =>
      decodeI ta (spadElem st (g.ab + q * g.c.aks) ta.width i) * decodeI tb (spadElem st (g.bb + q * g.c.bks) tb.width j)).foldl (· + ·) 0
    ∃ t, exec (.nestStep k none) s = .next t ∧
      (ta.isInt = true → ∀ i j, i < 128 → j < 256 →
        (t.tile k).store.accElem g.t (256 * i + j) = (BitVec.ofInt 32 ((start (256 * i + j) : Int) + sum i j)).toNat) ∧
      (∀ fa fb, ruleFmt ta = some fa → ruleFmt tb = some fb → ∀ i j, i < 128 → j < 256 → ∃ acc : Nat → Nat,
        acc 0 = start (256 * i + j) ∧ (t.tile k).store.accElem g.t (256 * i + j) = acc g.c.kstep ∧
        ∀ q, q < g.c.kstep → ∃ fl,
          let x := ruleA st g (n.info.rnd false) fa i q
          let y := ruleB_ st g fb q j
          FmaIs ruleF32 Rnd.near x.1 y.1 x.2 y.2 (acc q) (acc (q + 1), fl)) ∧
      (∀ m e, m < 8 → m ≠ g.t → e < 32768 → (t.tile k).store.accElem m e = st.accElem m e) ∧
      (t.tile k).store = { st with acc := (t.tile k).store.acc, accBad := (t.tile k).store.accBad } ∧
      (if n.steps + 1 < nestTotal n.regs then
        ∃ f, (t.tile k).eng.running = some { n with steps := n.steps + 1, replay := false, info := { n.info with flags := f } }
       else (t.tile k).eng.running = none) ∧
      (t.tile k).eng.pending = (s.tile k).eng.pending ∧ (∀ u, u ≠ k → t.tile u = s.tile u) ∧ t.hbm = s.hbm)

/-- R235: MOUT_ROW, its row correct and its range free, writes one row: element c of the row, converted, at c times its width from offset plus row times stride;
the rest of the scratchpad stays, and the MOUT is one row further or retired after row 127. -/
def Sys2Proof.Machine.MoutRowWritten : Prop :=
  ∀ (k : TileId) (s : State) (o : MoutOp) (td : ElemType) (r : RoundCode) (sat : Bool) (d : Fin 8) (a b : GSrc) (imm : BitVec 32) (sy : Sync),
    (s.tile k).eng.mout = some o → o.inst = .mout td r sat d a b imm sy → moutOk td r sat = true → o.info.fault = none →
    stopsNow (s.tile k) o.info = false →
    let st := (s.tile k).store
    let at_ := o.off + o.rows * o.stride
    let n := 32 * td.width
    o.rows < 128 → spadStall (s.tile k) (some o.info.order) at_ n true = none → 128 * d.val + o.rows ∉ st.accBad →
    let elem := fun c => st.accElem d.val (256 * o.rows + c)
    let val := fun c =>
      if td = .f32 ∨ td = .s32 then elem c
      else if td.isInt then
        (let x := (BitVec.ofNat 32 (elem c)).toInt
         (BitVec.ofInt td.width (if sat then max (-(2 ^ (td.width - 1))) (min (2 ^ (td.width - 1) - 1) x) else x)).toNat)
      else (convert td .f32 ⟨o.info.mode.toNat, o.info.seed, o.info.ctr, 256 * o.rows + c, sat⟩ (elem c)).1 % 2 ^ td.width
    ∃ t, exec (.moutRow k) s = .next t ∧
      (∀ c, c < 256 → leNat (memRead (t.tile k).store.spad at_ n) / 2 ^ (td.width * c) % 2 ^ td.width = val c) ∧
      (∀ x, ¬(at_ ≤ x ∧ x < at_ + n) → memGet (t.tile k).store.spad x = memGet st.spad x) ∧
      (t.tile k).store =
        { st with spad := (t.tile k).store.spad, spadBad := (t.tile k).store.spadBad, spadSoft := (t.tile k).store.spadSoft } ∧
      (if o.rows + 1 < 128 then
        ∃ f, (t.tile k).eng.mout = some { o with rows := o.rows + 1, info := { o.info with flags := f } }
       else (t.tile k).eng.mout = none) ∧
      (∀ u, u ≠ k → t.tile u = s.tile u) ∧ t.hbm = s.hbm

/-- R308, R309, R313, R323-R326, R331, R344, R347, R350, R404: TRANSFER_START starts a channel's oldest operation, one with a maquette when that has been read and checked. PIECE_COMPLETE of a
piece that may be performed moves its bits at a home of this module, data and delivered scales alike: from HBM to the scratchpad inbound, from the
scratchpad (or DFILL's pattern) to HBM outbound, and no other bit; one of another module leaves as packets, and lands when they are answered. TRANSFER_FLAG, every piece done, adds 1
to its flag or writes it. MDA_WINDOW completes the pieces of a window, in ascending order. CFENCE_RETIRE retires a CFENCE that joins nothing any more. -/
def Obligations.TransferAdvances : Prop :=
  (∀ (pl : Place) (ch : Fin 8) (s : State) (o : XferOp) (rest : List XferOp), HeadIs s pl ch o rest → o.started = false →
    opStops (s.tile pl.t) o = false → cfenceHolds (s.tile pl.t) o = false → listStalled (s.tile pl.t) o = false → ownOverlap s pl o = none →
    (hasRecord o.inst && o.lay.maq != 0) = false →
    ∃ t, exec (.transferStart pl.t pl.store ch) s = .next t ∧ HeadBecomes s t pl ch { o with started := true } rest ∧
      (t.tile pl.t).store = (s.tile pl.t).store ∧ (∀ u, u ≠ pl.t → t.tile u = s.tile u) ∧ t.hbm = s.hbm) ∧
  (∀ (pl : Place) (ch : Fin 8) (k : Nat) (s x : State) (o : XferOp) (rest : List XferOp) (p : Piece) (pg : Page) (idx : Nat),
    HeadIs s pl ch o rest → o.started = true → (∀ c b i v y, o.inst ≠ .dpf c b i v y) → (o.pieces (s.tile pl.t).store)[k]? = some p →
    o.isDone k p = false → pieceMay s pl o (o.pieces (s.tile pl.t).store) k p = true → o.begun k = false →
    piecePage s pl o p = .ok pg x → HomeReached x (dieOf pl.t).val pg idx p.memBytes →
    pieceStall (s.tile pl.t) o p = none → o.maq = [] → (∀ l ∈ s.fab.locks, l.owner ≠ redOwner pl o k) →
    let o1 := o.performed k
    let st := (s.tile pl.t).store
    let home := fun (e : Elem) i => homeBit x pg (8 * idx + (e.bit - 8 * p.va) + i)
    let spad := fun (e : Elem) i => bitAt st.spad (8 * o.off + e.sp + i)
    (Placed p → p.mw = p.sw → inbound o.inst = true →
      ∃ t, exec (.pieceComplete pl.t pl.store ch k) s = .next t ∧ HeadBecomes s t pl ch o1 rest ∧ t.hbm = s.hbm ∧
        SpadPut st (t.tile pl.t).store o.off (spadImage p home home) ∧ ∀ u, u ≠ pl.t → t.tile u = s.tile u) ∧
    (Placed p → p.mw = p.sw → inbound o.inst = false → isDfill o.inst = false → pieceBad (s.tile pl.t) o p = none →
      ∃ t, exec (.pieceComplete pl.t pl.store ch k) s = .next t ∧ HeadBecomes s t pl ch o1 rest ∧
        HomePut x t pg idx p.memBytes (memImage p spad spad) ∧
        (t.tile pl.t).store = st ∧ ∀ u, u ≠ pl.t → t.tile u = s.tile u) ∧
    (isDfill o.inst = true → p.stop = none →
      ∃ t, exec (.pieceComplete pl.t pl.store ch k) s = .next t ∧ HeadBecomes s t pl ch o1 rest ∧
        HomeWritten x t pg idx p.memBytes (fun i => o.info.rb.extractLsb' (8 * ((p.va + i) % 8)) 8) ∧
        (t.tile pl.t).store = st ∧ ∀ u, u ≠ pl.t → t.tile u = s.tile u)) ∧
  (∀ (pl : Place) (ch : Fin 8) (s x : State) (o : XferOp) (rest : List XferOp) (va : Word64) (add : Bool) (c : Nat) (sc : Scope) (p : Page)
      (idx : Nat),
    HeadIs s pl ch o rest → o.started = true → o.cancel = false → o.info.fault = none → o.flag = .waiting →
    (isRflag o.inst = true → stopsNow (s.tile pl.t) o.info = false) → flagOf o = some (va, .atom (if add then 0 else 5) 8 c 0, sc) → o.dataLeft (s.tile pl.t).store = false →
    translate s (dieOf pl.t).val (tileJob (s.tile pl.t)) va.toNat = (.page p, x) →
    accessCause x (tileJob (s.tile pl.t)) .rmw 8 false p = none → HomeReached x (dieOf pl.t).val p idx 8 →
    mustFollow x pl o.info.order [⟨p.pa, 8, p.ord⟩] = false →
    let old := (List.range 8).foldr (fun k v => (homeByte x p idx k).toNat + 256 * v) 0
    ∃ t, exec (.transferFlag pl.t pl.store ch) s = .next t ∧ HeadBecomes s t pl ch { o with flag := .written } rest ∧
      HomeWritten x t p idx 8 (fun i => (BitVec.ofNat 64 (if add then old + c else c)).extractLsb' (8 * i) 8)) ∧
  (∀ (pl : Place) (ch : Fin 8) (w : Nat) (s : State) (o : XferOp) (rest : List XferOp) (ks : List Nat),
    HeadIs s pl ch o rest → o.maq ≠ [] → ks.Pairwise (· < ·) →
    (∀ k, k ∈ ks ↔ ∃ p e es, (o.pieces (s.tile pl.t).store)[k]? = some p ∧ p.stop = none ∧ p.els = e :: es ∧ e.bit / (512 * p.mw) = w) →
    ∃ run : Nat → State, run 0 = s ∧ exec (.mdaWindow pl.t pl.store ch w) s = .next (run ks.length) ∧
      ∀ i (h : i < ks.length), exec (.pieceComplete pl.t pl.store ch ks[i]) (run i) = .next (run (i + 1))) ∧
  MaquetteStarts ∧ RemotePieceTravels ∧
  (∀ (k : TileId) (s : State) (c : CfOp), (s.tile k).eng.cf.find? (fun d => d.info.order == c.info.order) = some c → stopsNow (s.tile k) c.info = false →
    ((∀ o ∈ (s.tile k).xfers, o.info.stream = c.info.stream → o.info.order < c.info.order → c.mask.getLsbD o.ch.val = false) →
      ∃ t, exec (.cfenceRetire k c.info.order) s = .next t ∧
        (t.tile k).eng = { (s.tile k).eng with cf := (s.tile k).eng.cf.filter fun d => d.info.order != c.info.order } ∧
        (t.tile k).store = (s.tile k).store ∧ (∀ u, u ≠ k → t.tile u = s.tile u) ∧ t.hbm = s.hbm) ∧
    ((∃ o ∈ (s.tile k).xfers, o.info.stream = c.info.stream ∧ o.info.order < c.info.order ∧ c.mask.getLsbD o.ch.val = true) →
      exec (.cfenceRetire k c.info.order) s = .next s))

namespace Sys2Proof.Machine

/-- The operations of ATOMIC by code (R99). -/
def ruleAtomOps : List AtomOp := [.add, .fadd, .and, .or, .xor, .swap, .smin, .smax, .zmin, .zmax, .amax, .arrive]

/-- A waiting request of another module that may be performed: none before it, reached, and nothing to wait for (R398, R403, R404, R411). -/
structure MayPerform (s : State) (i : Nat) (hr : HomeReq) : Prop where
  here : s.fab.homeq[i]? = some hr
  new : hr.held = none
  young : tooOld s hr = false
  order : orderedWaits s hr.pkt = false ∧ earlierFirst s i hr.pkt = false
  path : reachesDie s hr = true
  port : portsUp s hr.pkt.ddie.val = true

/-- A request is performed with response `q`: it leaves the queue, and its response leaves the die's gateway (R402, R405). -/
structure PerformedAs (s t : State) (i : Nat) (p q : Packet) (ty status : Nat) : Prop where
  gone : t.fab.homeq = s.fab.homeq.eraseIdx i
  out : t.fab.out = s.fab.out ++ [q]
  names : q.dmod = p.smod ∧ q.ddie = p.sdie ∧ q.sch = p.sch ∧ q.seq = p.seq
  kind : q.ty = BitVec.ofNat 8 ty ∧ q.status = BitVec.ofNat 8 status

/-- Element `n` of memory of width `w`, counted from address 0, at the home of a packet. -/
def ruleHomeEl (s : State) (p : Packet) (idx w n : Nat) : Nat := bitsNat w fun j => homeBit s (reqPage p) (8 * idx + (n * w - 8 * p.addr.toNat) + j)

/-- The windows in which a packet's elements `lo` to `lo + k - 1` pass the array of their home (R336, R337): `x` and `y` of each; the seed, counter, mode and
window number, and of each element its logical number, scale code and pass, which packets do not carry, are free (log entry 40). -/
structure PacketWindows (maq : List Byte) (lo k : Nat) (x y : Nat → Nat) (run : Nat → MdaRun) (win : Nat → List Box) : Prop where
  maq : ∀ w, (run w).maq = maq ∧ (run w).dyn ≤ 5
  len : ∀ w, (win w).length = 512
  mine : ∀ n, lo ≤ n → n < lo + k → ∃ l sc pass, l < 2 ^ 32 ∧ sc < 256 ∧ (win (n / 512))[n % 512]? = some ⟨x n, y n, true, l, sc, pass⟩
  idle : ∀ w q, q < 512 → ¬(lo ≤ 512 * w + q ∧ 512 * w + q < lo + k) → (win w)[q]? = some Box.idle

end Sys2Proof.Machine

/-- R337, R344, R349, R402: a READ, WRITE or COMBINE with a maquette whose copy is whole, without permutation points and RED, at a home of this module: its elements
pass the array, x from memory (WRITE: from the payload), y of a COMBINE from the payload; a READ answers their x, the others write it. -/
def Sys2Proof.Machine.RequestThroughArray : Prop :=
  ∀ (i : Nat) (s : State) (hr : HomeReq) (idx tag : Nat) (maq : List Byte), MayPerform s i hr →
    let p := hr.pkt
    let pg := reqPage p
    let mw := (typeOfCode (ruleRec maq 4 1)).width
    let sw := (typeOfCode (ruleRec maq 5 1)).width
    let lo := p.addr.toNat * 8 / mw
    let k := p.len.toNat * 8 / (if p.ty = 0 then mw else sw)
    let sent := fun n => bitsNat sw fun j => (p.payload.getD (((n - lo) * sw + j) / 8) 0).getLsbD (((n - lo) * sw + j) % 8)
    let got := fun (run : Nat → MdaRun) (win : Nat → List Box) n => ((runArray (run (n / 512)) (win (n / 512))).bs.getD (n % 512) Box.idle).x
    p.stag ≠ 0 → reqStatus s p = none → maqCopy s p = some (tag, maq) → ruleRec maq 0x28 8 = 0 → ruleRec maq 7 1 = 0 → p.addr.toNat * 8 % mw = 0 →
    HomeReachedN s (dieOfIdx idx) pg idx ((k * mw + 7) / 8) →
    (p.ty = 0 → ∃ t q run win, exec (.homeAccess i) s = .next t ∧ PerformedAs s t i p q 8 0 ∧ (∀ a, memGet t.hbm a = memGet s.hbm a) ∧ t.tiles = s.tiles ∧
      PacketWindows maq lo k (ruleHomeEl s p idx mw) (fun _ => 0) run win ∧
      ∀ n j, n < k → j < sw → (q.payload.getD ((n * sw + j) / 8) 0).getLsbD ((n * sw + j) % 8) = (got run win (lo + n)).testBit j) ∧
    (p.ty = 1 ∨ p.ty = 3 → ∃ t q run win, exec (.homeAccess i) s = .next t ∧ PerformedAs s t i p q 9 0 ∧ t.tiles = s.tiles ∧
      (if p.ty = 1 then PacketWindows maq lo k sent (fun _ => 0) run win else PacketWindows maq lo k (ruleHomeEl s p idx mw) sent run win) ∧
      HomePut s t pg idx ((k * mw + 7) / 8) fun b => if b < k * mw then some ((got run win (lo + b / mw)).testBit (b % mw)) else none)

/-- R99-R102, R274, R318, R399, R402, R404, R406: HOME_ACCESS of a waiting request of another module, none before it and nothing to wait for: a READ answers the bytes of its sector, a
WRITE stores its payload and answers ACK, an ATOMIC performs its operation, ACAS among them, and answers the old value (in OPND: log entry 39); a READ or WRITE of a
scratchpad window does so there; a MAQUETTE stores a half of a copy, and requests that name a whole copy pass the array; the request leaves the queue and its
response leaves the die's gateway when a port is up. -/
def Obligations.RequestPerformedAtHome : Prop :=
  (∀ (i : Nat) (s : State) (hr : HomeReq) (idx n : Nat), MayPerform s i hr →
    let p := hr.pkt
    let pg := reqPage p
    n = (if p.ty = 0 then p.len.toNat else if p.ty = 2 then (if p.opc.toNat / 16 % 4 = 3 then 8 else 4) else p.payload.length) → p.stag = 0 →
    reqStatus s p = none → HomeReached s (dieOfIdx idx) pg idx n →
    let old := (List.range n).foldr (fun k v => (homeByte s pg idx k).toNat + 256 * v) 0
    (p.ty = 0 → ∃ t q, exec (.homeAccess i) s = .next t ∧ PerformedAs s t i p q 8 0 ∧
      q.payload = (List.range n).map (homeByte s pg idx) ∧ t.hbm = s.hbm ∧ t.tiles = s.tiles) ∧
    (p.ty = 1 → ∃ t q, exec (.homeAccess i) s = .next t ∧ PerformedAs s t i p q 9 0 ∧
      HomeWritten s t pg idx n (fun k => p.payload.getD k 0) ∧ t.tiles = s.tiles) ∧
    (∀ op, p.ty = 2 → ruleAtomOps[p.opc.toNat % 16]? = some op → (op = .fadd → n = 4) →
      ∃ t q, exec (.homeAccess i) s = .next t ∧ PerformedAs s t i p q 10 0 ∧ q.opnd.toNat = old ∧ t.tiles = s.tiles ∧
        (∀ new, ruleAtom op (8 * n) (BitVec.ofNat _ old) (p.opnd.setWidth _) = some new → HomeWritten s t pg idx n (fun k => new.extractLsb' (8 * k) 8)) ∧
        (op = .fadd → ∃ (new : BitVec 32) (fl : FFlags), SumIs ruleF32 Rnd.near false old (p.opnd.toNat % 2 ^ 32) (new.toNat, fl) ∧
          HomeWritten s t pg idx n (fun k => new.extractLsb' (8 * k) 8))) ∧
    (p.ty = 2 → p.opc.toNat % 16 = 15 → ∃ t q, exec (.homeAccess i) s = .next t ∧ PerformedAs s t i p q 10 0 ∧ q.opnd.toNat = old ∧ t.tiles = s.tiles ∧
      (old = p.cmpv.toNat % 2 ^ (8 * n) → HomeWritten s t pg idx n (fun k => p.opnd.extractLsb' (8 * k) 8)) ∧
      (old ≠ p.cmpv.toNat % 2 ^ (8 * n) → ∀ a, memGet t.hbm a = memGet s.hbm a))) ∧
  (∀ (i : Nat) (s : State) (hr : HomeReq) (w : TileId) (off : Nat), MayPerform s i hr →
    let p := hr.pkt
    let x := s.tile w
    p.stag = 0 → reqStatus s p = none → targetOf s p.addr.toNat = .window w.val off →
    (p.ty = 0 → windowStall x hr.ord off p.len.toNat false = false → spadBadAt x.store off p.len.toNat = none →
      ∃ t q, exec (.homeAccess i) s = .next t ∧ PerformedAs s t i p q 8 0 ∧
        q.payload = (List.range p.len.toNat).map (fun k => memGet x.store.spad (off + k)) ∧ t.tiles = s.tiles ∧ t.hbm = s.hbm) ∧
    (p.ty = 0 → windowStall x hr.ord off p.len.toNat false = false → spadBadAt x.store off p.len.toNat ≠ none →
      ∃ t q, exec (.homeAccess i) s = .next t ∧ PerformedAs s t i p q 8 3 ∧ t.tiles = s.tiles ∧ t.hbm = s.hbm) ∧
    (p.ty = 1 → windowStall x hr.ord off p.payload.length true = false →
      ∃ t q, exec (.homeAccess i) s = .next t ∧ PerformedAs s t i p q 9 0 ∧ t.hbm = s.hbm ∧ (∀ u, u ≠ w → t.tile u = s.tile u) ∧
        ∀ a, memGet (t.tile w).store.spad a =
          if off ≤ a ∧ a < off + p.payload.length then p.payload.getD (a - off) 0 else memGet x.store.spad a)) ∧
  (∀ (i : Nat) (s : State) (hr : HomeReq), MayPerform s i hr →
    let p := hr.pkt
    let mine := fun (c : MaqCopy) => c.smod = p.smod ∧ c.stag = p.stag
    p.ty = 4 → ∃ t q c, exec (.homeAccess i) s = .next t ∧ PerformedAs s t i p q 9 0 ∧ t.tiles = s.tiles ∧ t.hbm = s.hbm ∧
      c ∈ t.fab.maqs ∧ mine c ∧ (if p.opc.getLsbD 0 then c.half1 else c.half0) = some p.payload ∧
      (∀ d, d ∈ t.fab.maqs ↔ d = c ∨ (d ∈ s.fab.maqs ∧ ¬mine d)) ∧
      (∀ d, s.fab.maqs.find? (fun d => d.smod == p.smod && d.stag == p.stag) = some d → d.half0 = none ∨ d.half1 = none →
        (if p.opc.getLsbD 0 then c.half0 else c.half1) = (if p.opc.getLsbD 0 then d.half0 else d.half1))) ∧
  RequestThroughArray

/-! ### Events of the dispatchers -/

namespace Sys2Proof.Machine

/-- The write index is more than 2^SIZE above the read index, modulo 2^64 (R251). -/
def ruleOverrun (u : UQueue) (wr rd : Nat) : Prop := 2 ^ (u.cfg.toNat % 32) < (wr + 2 ^ 64 - rd) % 2 ^ 64

/-- The home dispatcher of a queue, asking for the queue's job. -/
def queueAsker (u : UQueue) : Asker := dispAsker u.die u.job

/-- No access of a tile, of HBM, of the fabric's receiving side: what a step of a dispatcher that accesses no memory leaves. -/
structure DispatchOnly (s t : State) : Prop where
  tiles : t.tiles = s.tiles
  hbm : t.hbm = s.hbm
  fab : t.fab = s.fab
  time : t.time = s.time
  gang : t.gang = s.gang
  hk : t.hk = s.hk
  sec : t.sec = s.sec
  ctrs : t.ctrs = s.ctrs

/-- A packet with an identity is changed as a predicate says and none leaves. -/
def PktBecomes (s t : State) (id : Nat) (f : Pkt → Prop) : Prop :=
  t.disp.pkts.map (·.id) = s.disp.pkts.map (·.id) ∧ ∀ p ∈ t.disp.pkts, p.id = id → f p

end Sys2Proof.Machine

/-- R251, R252: QNOTIFY of a RUNNING queue, its header read, keeps the write index, or puts the queue in ERROR with OVERRUN when the write index is
too far ahead; a notification that came while the header was read has a read of its own next. PACKET_TAKE of the packet at the read index, the read index written, makes it the last taken packet, held; one that R247
rejects has its status, PACKET_CHECK for a bad seal, at once. With nothing to take, the queue waits for the next doorbell. A packet whose read index was
being written when its queue's run ended (log entry 37) is taken, with what was read of it then, once that write has been answered, and not when it failed. -/
def Sys2Proof.Machine.PacketsTaken : Prop :=
  (∀ (q : QueueId) (s s0 s1 : State) (h : List Byte), (s.uq q.val).state = 1 →
    (s.uq q.val).reading = true ∧ s0 = s ∨
      (s.uq q.val).reading = false ∧ (s.uq q.val).notified = true ∧ s0 = s.setUq q.val { s.uq q.val with notified := false, reading := true } →
    farKeepRead s0 (queueAsker (s.uq q.val)) farNotify ((s.uq q.val).farId q.val) 0 .dispAny (s.uq q.val).base.toNat 16 = .ok h s1 →
    let wr := fieldAt h 0 8
    let rd := fieldAt h 8 8
    ∃ t, exec (.qnotify q) s = .next t ∧ DispatchOnly s1 t ∧ (∀ u, u ≠ q.val → t.uq u = s1.uq u) ∧
      (ruleOverrun (s.uq q.val) wr rd → (t.uq q.val).state = 2 ∧ (t.uq q.val).err = 2) ∧
      (¬ruleOverrun (s.uq q.val) wr rd → t.uq q.val = { s1.uq q.val with reading := false, upto := some (BitVec.ofNat 64 wr) } ∧
        ((s.uq q.val).reading = true → (s1.uq q.val).notified = true → t.agenda = s1.agenda ++ [.event (.qnotify q)]))) ∧
  (∀ (q : QueueId) (s : State), (s.uq q.val).state ≠ 1 →
    exec (.qnotify q) s = .next (s.setUq q.val { s.uq q.val with notified := false })) ∧
  (∀ (q : QueueId) (s : State) (l : Landing), s.disp.landing.find? (fun l => l.q == q && l.run != (s.uq q.val).farId q.val) = some l →
    (farGet s ⟨farTake, l.run, 4, 0⟩ = none → exec (.packetTake q) s = .next s) ∧
    (∀ v va, farGet s ⟨farTake, l.run, 4, 0⟩ = some (.fault v va) →
      ∃ t, exec (.packetTake q) s = .next t ∧ DispatchOnly s t ∧ t.disp.pkts = s.disp.pkts ∧ ∀ x ∈ t.disp.landing, x.run ≠ l.run) ∧
    (∀ b, farGet s ⟨farTake, l.run, 4, 0⟩ = some (.data b) → l.status.isSome = true ∨ fieldAt l.bytes 2 1 ≠ 2 ∧ fieldAt l.bytes 2 1 ≠ 4 →
      ∃ t p, exec (.packetTake q) s = .next t ∧ DispatchOnly s t ∧ t.disp.pkts = s.disp.pkts ++ [p] ∧ (∀ x ∈ t.disp.landing, x.run ≠ l.run) ∧
        p.id = s.disp.nextPkt ∧ p.q = q ∧ p.bytes = l.bytes ∧ p.status = l.status)) ∧
  (∀ (q : QueueId) (s s1 : State) (wr : Word64) (h : List Byte), (s.uq q.val).upto = some wr → (s.uq q.val).state = 1 →
    (∀ l ∈ s.disp.landing, l.q = q → l.run = (s.uq q.val).farId q.val) →
    farKeepRead s (queueAsker (s.uq q.val)) farTake ((s.uq q.val).farId q.val) 0 .dispAny ((s.uq q.val).base.toNat + 8) 8 = .ok h s1 →
    let u := s.uq q.val
    let rd := leNat h
    (rd = wr.toNat → ∃ t, exec (.packetTake q) s = .next t ∧ DispatchOnly s1 t ∧ t.disp.pkts = s1.disp.pkts ∧ (t.uq q.val).upto = none) ∧
    (rd ≠ wr.toNat → ruleOverrun u wr.toNat rd →
      ∃ t, exec (.packetTake q) s = .next t ∧ DispatchOnly s1 t ∧ t.disp.pkts = s1.disp.pkts ∧ (t.uq q.val).state = 2 ∧ (t.uq q.val).err = 2) ∧
    (∀ (bs b : List Byte) (s2 s3 : State), rd ≠ wr.toNat → ¬ruleOverrun u wr.toNat rd →
      farKeepRead s1 (queueAsker u) farTake (u.farId q.val) 1 .dispAny (u.base.toNat + 64 + 64 * (rd % 2 ^ (u.cfg.toNat % 32))) 64 = .ok bs s2 →
      farKeepWrite s2 (queueAsker u) farTake (u.farId q.val) 4 .dispAny (u.base.toNat + 8) (leBytes 8 ((rd + 1) % 2 ^ 64)) = .ok b s3 →
      (fieldAt bs 0x3C 4 ≠ crc32c (bs.take 0x3C) → ∃ t p, exec (.packetTake q) s = .next t ∧ DispatchOnly s3 t ∧ t.disp.pkts = s3.disp.pkts ++ [p] ∧
        p.id = s3.disp.nextPkt ∧ p.q = q ∧ p.bytes = bs ∧ p.status = some 3 ∧ p.started = none) ∧
      (fieldAt bs 0x3C 4 = crc32c (bs.take 0x3C) → (commonFieldsOk bs && kindFieldsOk s2 u.job u.devenq bs) = false →
        ∃ t p, exec (.packetTake q) s = .next t ∧ DispatchOnly s3 t ∧ t.disp.pkts = s3.disp.pkts ++ [p] ∧
          p.id = s3.disp.nextPkt ∧ p.q = q ∧ p.bytes = bs ∧ p.status = some 7 ∧ p.started = none) ∧
      (fieldAt bs 0x3C 4 = crc32c (bs.take 0x3C) → (commonFieldsOk bs && kindFieldsOk s2 u.job u.devenq bs) = true →
        fieldAt bs 2 1 ≠ 2 → fieldAt bs 2 1 ≠ 4 →
        ∃ t p, exec (.packetTake q) s = .next t ∧ DispatchOnly s3 t ∧ t.disp.pkts = s3.disp.pkts ++ [p] ∧ p.id = s3.disp.nextPkt ∧ p.q = q ∧
          p.job.val = u.job ∧ p.bytes = bs ∧ p.status = none ∧ p.started = none ∧ p.tasks = [])))

/-- R244, R253, R257, R259: PACKET_START of a held packet that nothing holds, with no WAITCTR: a TASKS packet reads its descriptor and its tasks become ready,
unless the descriptor's seal or fields fail (statuses 3 and 4); a FEED packet keeps the records it has read; a PHASE packet starts. A held
packet stays as it is. -/
def Sys2Proof.Machine.PacketStarts : Prop :=
  ∀ (id : Nat) (s : State) (p : Pkt), s.pkt id = some p → p.status = none → p.stage = 0 →
    (p.kind = 0 ∨ p.kind = 1 ∨ p.kind = 3 → startHeld s p = true → exec (.packetStart id) s = .next s) ∧
    (startHeld s p = false → acqHeld s p = false → p.waitctr = 0 →
      (p.kind = 0 → ∀ (d : List Byte) (s1 : State),
        farKeepRead (updPkt s p.id fun p => { p with stage := 1 }) (pktAsker s p) farPkt p.id 1 .dispRead p.addr 256 = .ok d s1 →
        ∃ t, exec (.packetStart id) s = .next t ∧ DispatchOnly s1 t ∧
          PktBecomes s1 t id fun o =>
            (fieldAt d 0xFC 4 ≠ crc32c (d.take 0xFC) → o.status = some 3) ∧
            (fieldAt d 0xFC 4 = crc32c (d.take 0xFC) → descOk s1 p d = false → o.status = some 4) ∧
            (fieldAt d 0xFC 4 = crc32c (d.take 0xFC) → descOk s1 p d = true → o.desc = d ∧ o.started = some s1.ns ∧ o.stage = 2)) ∧
      (p.kind = 1 → ∀ (bs : List Byte) (s1 : State),
        feedRecs (pktAsker s p) p.id p.addr 0 p.count (updPkt s p.id fun p => { p with stage := 1, started := some s.ns }) = .ok bs s1 →
        ∃ t, exec (.packetStart id) s = .next t ∧ DispatchOnly s1 t ∧ PktBecomes s1 t id fun o => o.recs = bs ∧ o.stage = 2) ∧
      (p.kind = 3 → ∃ t, exec (.packetStart id) s = .next t ∧ DispatchOnly s t ∧ PktBecomes s t id fun o => o.started = some s.ns))

/-- R254, R257, R259, R262: PACKET_COMPLETE of a packet with nothing left to do, its records and its counter written, removes it, counts a TASKS packet in
jdone and signals its queue's vector when IRQ is set. FEED_PUSH with room appends the packet's records under the next sequence numbers.
PHASE_COMPLETE, every earlier packet of the job gone, counts the phase. -/
def Obligations.PacketsComplete : Prop :=
  (∀ (id : Nat) (s s1 s2 : State) (p : Pkt) (b1 b2 : List Byte), s.pkt id = some p → ridgeOf s p = none →
    (p.status.isSome = true ∨ p.kind = 0 ∧ p.started.isSome = true ∧ (∀ i, i < p.count → (p.ent i).isDone = true)) →
    doWrites (pktAsker s p) p.id (completionWrites s p) s = .ok b1 s1 → incDone s1 (pktAsker s p) p = .ok b2 s2 →
    ∃ t, exec (.packetComplete id) s = .next t ∧ t.disp.pkts = s2.disp.pkts.filter (fun o => o.id != id) ∧
      (t.job p.job.val).jdone = (s2.job p.job.val).jdone + (if p.kind = 0 then 1 else 0) ∧ (∀ j, j ≠ p.job.val → t.job j = s2.job j) ∧
      t.host.out = s2.host.out ++ (if p.irq then [HostMsg.msix p.q.val] else []) ∧ t.tiles = s2.tiles ∧ t.hbm = s2.hbm) ∧
  (∀ (id : Nat) (s : State) (p : Pkt), s.pkt id = some p → p.kind = 1 → p.stage = 2 → p.fin = false → p.status = none →
    let f := s.feed p.feedno
    f.recs.length + p.count ≤ 2 ^ f.cap.toNat →
    ∃ t, exec (.feedPush id) s = .next t ∧ DispatchOnly s t ∧
      (t.feed p.feedno).recs = f.recs ++ (List.range p.count).map (fun i => (f.seq + BitVec.ofNat 64 i, (p.recs.drop (64 * i)).take 64)) ∧
      (t.feed p.feedno).seq = f.seq + BitVec.ofNat 64 p.count ∧ (∀ n, n ≠ p.feedno → t.feed n = s.feed n) ∧
      PktBecomes s t id fun o => o.status = some 0 ∧ o.fin = true) ∧
  (∀ (id : Nat) (s : State) (p : Pkt), s.pkt id = some p → p.kind = 3 → p.started.isSome = true → p.status = none →
    (∀ o ∈ s.disp.pkts, o.job = p.job → id ≤ o.id) →
    ∃ t, exec (.phaseComplete id) s = .next t ∧ DispatchOnly s t ∧ (t.job p.job.val).jphase = (s.job p.job.val).jphase + 1 ∧
      (∀ j, j ≠ p.job.val → t.job j = s.job j) ∧ PktBecomes s t id fun o => o.status = some 0)

/-- R249, R250, R278, R283, R415, R422: QUEUE_ENABLE of a STOPPED queue takes the fields of qcfg and leaves it RUNNING, or in ERROR with CONFIG when HOME, WEIGHT or
SIZE is out of range; QUEUE_DISABLE stops it. REGISTER_WRITE writes the register at its offset, its low or high half with 4 bytes. JXINV sets
BUSY; JXINV_DONE, no request of the job unanswered, clears it and removes the job's cached translations. Model choices: a 4-byte write at
an offset not a multiple of 4 is an Unsupported Request (log entry 20), and a start leaves the error field 0 (log entry 35). -/
def Obligations.DeviceRegistersWritten : Prop :=
  (∀ (q : QueueId) (v : BitVec 64) (s : State), (s.uq q.val).state = 0 →
    let cfg := (v ||| 0x10000) &&& 0x000FFFFFFFFF001F
    let bad := 11 < cfg.toNat / 2 ^ 36 % 16 ∨ cfg.toNat / 2 ^ 20 % 256 = 0 ∨ cfg.toNat % 32 < 4 ∨ 16 < cfg.toNat % 32
    ∃ t, exec (.queueEnable q v) s = .next t ∧ DispatchOnly s t ∧ (t.uq q.val).base = (s.uq q.val).base ∧
      (bad → (t.uq q.val).state = 2 ∧ (t.uq q.val).err = 1) ∧
      (¬bad → (t.uq q.val).state = 1 ∧ (t.uq q.val).err = 0) ∧
      (t.uq q.val).cfg = (cfg ||| 0x10000) ∧ ∀ u, u ≠ q.val → t.uq u = s.uq u) ∧
  (∀ (q : QueueId) (s : State), ∃ t, exec (.queueDisable q) s = .next t ∧ DispatchOnly s t ∧ (t.uq q.val).state = 0 ∧
    (t.uq q.val).cfg.getLsbD 16 = false ∧ (t.uq q.val).base = (s.uq q.val).base ∧ ∀ u, u ≠ q.val → t.uq u = s.uq u) ∧
  (∀ (s : State) (v : BitVec 64) (f : Nat), 6 ≤ s.hk.bring →
    (f < 4096 →
      exec (.registerWrite (BitVec.ofNat 32 (0x200010 + 64 * f)) false v) s =
        .next (s.setJob f { s.job f with xpt := v &&& 0x000FFFFFFFFFF001 }) ∧
      exec (.registerWrite (BitVec.ofNat 32 (0x200038 + 64 * f)) false v) s =
        .next (s.setJob f { s.job f with jsave := v &&& 0x01FFFFFFFE000001 })) ∧
    (f < 1024 → (s.uq f).state = 0 →
      exec (.registerWrite (BitVec.ofNat 32 (0x100000 + 32 * f)) false v) s =
        .next (s.setUq f { s.uq f with base := v &&& 0x01FFFFFFFFFFFFC0 })) ∧
    exec (.registerWrite 8 true v) s =
      .next { s with fab := { s.fab with fabcfg := ((s.fab.fabcfg &&& 0xFFFFFFFF00000000) ||| (v &&& 0xFFFFFFFF)) &&& 0xFF0F } } ∧
    exec (.registerWrite 6 true v) s = .next (s.sendHost (.unsupported 6))) ∧
  (∀ (j : JobId) (s : State), ∃ t, exec (.jxinv j) s = .next t ∧ DispatchOnly s t ∧ t.job j.val = { s.job j.val with invBusy := true } ∧
    (∀ k, k ≠ j.val → t.job k = s.job k) ∧ t.disp.tlb = s.disp.tlb) ∧
  (∀ (j : JobId) (s : State), (s.job j.val).invBusy = true → (∀ r ∈ s.fab.reqs, r.pkt.job ≠ j) → s.host.win = [] →
    ∃ t, exec (.jxinvDone j) s = .next t ∧ DispatchOnly s t ∧ t.job j.val = { s.job j.val with invBusy := false } ∧
      (∀ k, k ≠ j.val → t.job k = s.job k) ∧ ∀ e, e ∈ t.disp.tlb ↔ e ∈ s.disp.tlb ∧ e.job ≠ j.val)

/-! ### Events of the time unit -/

namespace Sys2Proof.Machine

/-- Only the time unit and what the ridge logic makes of it change (R428). -/
structure TimeOnly (s t : State) : Prop where
  tiles : t.tiles = s.tiles
  hbm : t.hbm = s.hbm
  disp : t.disp = s.disp
  hk : t.hk = s.hk
  sec : t.sec = s.sec

/-- One second on the module's clock. -/
def ruleSecond : Nat := 1000000000 * 6486480

/-- U of HOLDOVER, `e` clock units after LOCKED was left: 50 ns and 10 ns for each started second, saturating (R421). -/
def ruleHoldover (e : Nat) : Nat := min 0xFFFFFFFF (50 + 10 * (e / ruleSecond + 1))

end Sys2Proof.Machine

/-- R420, R421, R422: PTP_SYNC of an enabled unit with PPSIN 0: the eighth measurement in a row within 50 ns locks with U 50 ns, the first lock after FREERUN stepping
module time to the grandmaster's, never backwards, or later while a record is armed; another offset slews; one above 50 ns leaves LOCKED for
HOLDOVER, as 4 s without a pair do, where U grows each second. EN 0 gives FREERUN with U all ones. With PPSIN 1 a pair gives only the
second's number, and PPS_IN the phase of the measurement. The 1PPS output goes high at a
whole second and low 100 ms later. Model choices (log entry 42): at an exact whole second U has grown, PPS_IN only slews, a first
step put off is LOCKED already, and the pulse is that of the first 100 ms of a second. -/
def Obligations.TimeUnitFollows : Prop :=
  (∀ (master : Nat) (o : Int) (s : State), s.time.tmctl.getLsbD 0 = true → s.time.tmctl.getLsbD 2 = true →
    ∃ t, exec (.ptpSync master o) s = .next t ∧ TimeOnly s t ∧
      t.time = { s.time with lastSync := s.time.clk, secs := some ((o + 500000000) / 1000000000) }) ∧
  (∀ (master : Nat) (o : Int) (s : State), s.time.tmctl.getLsbD 0 = true → s.time.tmctl.getLsbD 2 = false →
    let u := s.time
    let near := -50 ≤ o ∧ o ≤ 50
    ∃ t, exec (.ptpSync master o) s = .next t ∧ TimeOnly s t ∧ t.time.lastSync = u.clk ∧ t.time.tmctl = u.tmctl ∧
      (u.state = 1 → near → t.time.state = 1 ∧ t.time.unc = u.unc ∧ t.time.slew = -o * 6486480 ∧ t.time.now = u.now) ∧
      (u.state = 1 → ¬near → t.time.state = 2 ∧ t.time.leftAt = u.clk ∧ t.time.unc.toNat = 60 ∧ t.time.slew = -o * 6486480 ∧ t.time.now = u.now) ∧
      (u.state ≠ 1 → ¬near → t.time.state = u.state ∧ t.time.good = 0 ∧ t.time.now = u.now) ∧
      (u.state ≠ 1 → near → u.good + 1 < 8 → t.time.state = u.state ∧ t.time.good = u.good + 1 ∧ t.time.now = u.now) ∧
      (u.state ≠ 1 → near → 8 ≤ u.good + 1 → t.time.state = 1 ∧ t.time.unc = 50 ∧
        (u.state ≠ 0 → t.time.now = u.now ∧ t.time.slew = -o * 6486480) ∧
        (u.state = 0 → s.gang.ridges = [] →
          t.time.now = max u.now (u.now + ((master : Int) - (u.now / 6486480 : Nat)) * 6486480).toNat ∧ t.time.slew = u.slew) ∧
        (u.state = 0 → s.gang.ridges ≠ [] →
          t.time.now = u.now ∧ t.time.deferred = some ((master : Int) - (u.now / 6486480 : Nat))))) ∧
  (∀ s : State,
    (s.time.state = 1 → s.time.lastSync + 4 * ruleSecond ≤ s.time.clk →
      ∃ t, exec .holdoverTimeout s = .next t ∧ TimeOnly s t ∧ t.time.state = 2 ∧ t.time.unc.toNat = 60 ∧ t.time.now = s.time.now) ∧
    (s.time.state = 1 → s.time.clk < s.time.lastSync + 4 * ruleSecond → exec .holdoverTimeout s = .next s) ∧
    (s.time.state = 2 → ∃ t, exec .uncertaintyTick s = .next t ∧ TimeOnly s t ∧
      t.time = { s.time with unc := t.time.unc } ∧ t.time.unc.toNat = ruleHoldover (s.time.clk - s.time.leftAt))) ∧
  (∀ (v : BitVec 64) (s : State),
    ∃ t, exec (.tmctlWrite v) s = .next t ∧ TimeOnly s t ∧ t.time.now = s.time.now ∧
      t.time.tmctl.toNat = (if v.toNat / 2 ^ 16 % 256 < 128 then v.toNat / 2 ^ 16 % 256 else s.time.tmctl.toNat / 2 ^ 16) * 2 ^ 16 + v.toNat % 16 ∧
      (v.getLsbD 0 = false → t.time.state = 0 ∧ t.time.unc = 0xFFFFFFFF) ∧
      (v.getLsbD 0 = true → t.time.state = s.time.state ∧ t.time.unc = s.time.unc)) ∧
  (∀ (o n : Int) (s : State), s.time.tmctl.getLsbD 0 = true → s.time.tmctl.getLsbD 2 = true → s.time.secs = some n → s.time.state = 1 →
    let p := n * 1000000000 + o
    ∃ t, exec (.ppsIn o) s = .next t ∧ TimeOnly s t ∧ t.time.slew = -p * 6486480 ∧ t.time.now = s.time.now ∧
      (-50 ≤ p ∧ p ≤ 50 → t.time.state = 1 ∧ t.time.unc = s.time.unc) ∧
      (¬(-50 ≤ p ∧ p ≤ 50) → t.time.state = 2 ∧ t.time.leftAt = s.time.clk ∧ t.time.unc.toNat = 60)) ∧
  (∀ s : State,
    (s.time.tmctl.getLsbD 3 = true → s.time.pps = false → s.time.ppsNext ≤ s.ns / 1000000000 → s.ns % 1000000000 < 100000000 →
      ∃ t, exec .ppsOut s = .next t ∧ TimeOnly s t ∧ t.time = { s.time with pps := true, ppsNext := s.ns / 1000000000 + 1 } ∧
        t.host.out = s.host.out ++ [HostMsg.ptpLevel true]) ∧
    (s.time.pps = true → s.time.ppsNext = s.ns / 1000000000 + 1 → 100000000 ≤ s.ns % 1000000000 →
      ∃ t, exec .ppsOutEnd s = .next t ∧ TimeOnly s t ∧ t.time = { s.time with pps := false } ∧
        t.host.out = s.host.out ++ [HostMsg.ptpLevel false]) ∧
    (s.time.pps = true → s.time.ppsNext = s.ns / 1000000000 + 1 → s.ns % 1000000000 < 100000000 → exec .ppsOutEnd s = .next s))

/-! ### Events of the fabric -/

namespace Sys2Proof.Machine

/-- A packet that this module's gateways take in: CHECK right, its own module number, a port up that has room committed for it (R401, R403,
R413). -/
def TakenIn (s : State) (p : Packet) : Prop := packetOk p = true ∧ p.dmod = s.fab.modnum ∧ openPorts s p ≠ []

/-- The request events with the TYPEs they take (R402). -/
def requestEvents (p : Packet) : List (Nat × Instr) :=
  [(0, .purlinRead p), (1, .purlinWrite p), (2, .purlinAtomic p), (3, .purlinCombine p), (4, .purlinMaquette p)]

/-- The answer events with the TYPEs they take. -/
def answerEvents (p : Packet) : List (Nat × Instr) := [(8, .readRsp p), (9, .ack p), (10, .atomicRsp p)]

/-- Nothing of the tiles, HBM, waiting requests and unanswered requests changes. -/
structure FabricQuiet (s t : State) : Prop where
  tiles : t.tiles = s.tiles
  hbm : t.hbm = s.hbm
  disp : t.disp = s.disp
  homeq : t.fab.homeq = s.fab.homeq
  reqs : t.fab.reqs = s.fab.reqs

/-- A request as it waits at its die: when and where it came, and what its window's tile accepts next (R318, R403). -/
structure WaitsAtDie (s : State) (p : Packet) (h : HomeReq) : Prop where
  pkt : h.pkt = p
  at_ : h.at_ = s.time.clk
  port : h.port ∈ openPorts s p
  held : h.held = none
  ord : ∀ k, windowTile s p = some k → h.ord = (s.tile k).eng.order

/-- A tile as it was but perhaps for the mark of a sink event (R382). -/
def SinkAtMost (s t : State) (k : TileId) : Prop := t.tile k = s.tile k ∨ t.tile k = { s.tile k with sink := true }

/-- What an answer says (R399): the bytes read, the old value of an atomic, nothing for an ACK; ACCESS, PERMISSION or MEM_UNCORRECTED. -/
def ruleAnswer (r : FabReq) (p : Packet) : RemoteResp :=
  if p.status = 0 then
    .data (if r.pkt.ty = 0 then p.payload
           else if r.pkt.ty = 2 then leBytes (if r.pkt.opc.toNat / 16 % 4 = 3 then 8 else 4) p.opnd.toNat else [])
  else .fault (if p.status = 1 then 0x10 else if p.status = 2 then 0x11 else 0x20) (r.va.setWidth 32)

/-- A scalar access of a core gets an answer; nothing else of the tiles changes. -/
def CoreAnswered (s t : State) (k : TileId) (st : Stream) (rm : Remote) (a : RemoteResp) : Prop :=
  (t.tile k).core st = { (s.tile k).core st with remote := some { rm with resp := some a } } ∧
  (∀ u, u ≠ st → (t.tile k).core u = (s.tile k).core u) ∧ (∀ u, u ≠ k → t.tile u = s.tile u) ∧ t.hbm = s.hbm

/-- A request has left the list of unanswered ones (R405). -/
def RequestGone (s t : State) (r : FabReq) : Prop :=
  ∀ q, q ∈ t.fab.reqs ↔ q ∈ s.fab.reqs ∧ ¬(q.pkt.sch = r.pkt.sch ∧ q.pkt.dmod = r.pkt.dmod ∧ q.pkt.seq = r.pkt.seq)

end Sys2Proof.Machine

/-- R402, R406: a READ, WRITE, ATOMIC, COMBINE or MAQUETTE that arrives is handled by its source's replay state: a new one waits at its die and is tried
at once; one whose maquette copy is not here, or whose source finds no state, is answered NACK BUSY; a recorded one that has been performed
gets its recorded response again; one that is stale or being performed is dropped. A packet for another module, or that fails CHECK, is not
taken in, nor (the model's choice, log entry 39) one that no up port has room for. -/
def Obligations.RequestsArrive : Prop :=
  ∀ (p : Packet) (s : State), ∀ e ∈ requestEvents p,
    (packetOk p = false ∨ p.dmod ≠ s.fab.modnum ∨ openPorts s p = [] → exec e.2 s = .next s) ∧
    (p.ty.toNat = e.1 → TakenIn s p →
      (replayOf s p = none → (s.fab.replay.filter fun r => r.die == p.ddie).length < 8192 →
        (p.ty = 4 ∨ p.ty = 2 ∨ p.stag = 0 ∧ p.ty ≠ 3 ∨ p.stag ≠ 0 ∧ (maqCopy s p).isSome = true) →
        ∃ s' t, exec e.2 s = .next t ∧ exec (.homeAccess s.fab.homeq.length) s' = .next t ∧
          (∃ h, WaitsAtDie s p h ∧ s'.fab.homeq = s.fab.homeq ++ [h]) ∧ s'.fab.out = s.fab.out ∧ s'.hbm = s.hbm ∧
          (∀ k, s'.tile k = if windowTile s p = some k then { s.tile k with sink := true } else s.tile k) ∧
          ∃ r ∈ s'.fab.replay, r.die = p.ddie ∧ r.smod = p.smod ∧ r.sch = p.sch ∧ r.done = [] ∧ r.high = none) ∧
      (portsUp s p.ddie.val = true →
        (replayOf s p = none ∧ 8192 ≤ (s.fab.replay.filter fun r => r.die == p.ddie).length ∨
         replayOf s p = none ∧ (p.ty = 0 ∨ p.ty = 1 ∨ p.ty = 3) ∧ p.stag ≠ 0 ∧ maqCopy s p = none) →
        ∃ t q, exec e.2 s = .next t ∧ FabricQuiet s t ∧ t.fab.out = s.fab.out ++ [q] ∧ q.ty = 11 ∧ q.status = 4 ∧ q.dmod = p.smod ∧
          q.ddie = p.sdie ∧ q.sch = p.sch ∧ q.seq = p.seq) ∧
      (∀ (r : Replay) (rsp : Packet), replayOf s p = some r → p.ty ≠ 0 → portsUp s p.ddie.val = true →
        r.done.find? (fun d => d.1 == p.seq) = some (p.seq, rsp) →
        ∃ t, exec e.2 s = .next t ∧ FabricQuiet s t ∧ t.fab.out = s.fab.out ++ [sealPacket rsp]) ∧
      (∀ r : Replay, replayOf s p = some r → r.done.find? (fun d => d.1 == p.seq) = none →
        ((∃ h, r.high = some h ∧ 256 ≤ (h - p.seq).toNat ∧ (h - p.seq).toNat < 2 ^ 31) ∨
          p.ty ≠ 0 ∧ ∃ w ∈ s.fab.homeq, w.pkt.ddie = p.ddie ∧ w.pkt.smod = p.smod ∧ w.pkt.sch = p.sch ∧ w.pkt.seq = p.seq) →
        ∃ t, exec e.2 s = .next t ∧ FabricQuiet s t ∧ t.fab.out = s.fab.out))

/-- R399, R405, R407, R409, R410: READ_RSP, ACK or ATOMIC_RSP for an unanswered request of a scalar access gives its core the answer and ends the request; one that
names none changes no tile. NACK takes one attempt back. RETRANSMIT, the interval past and attempts left, sends the request again with its
retry bit. FABRIC_TIMEOUT, 64 µs after the last attempt, answers it with FABRIC. WAITF_POLL sends a WAITF's read again each microsecond; with no port up it ends the WAITF with
FABRIC NOPORT. -/
def Obligations.RequestsAnsweredOrRetried : Prop :=
  (∀ (p : Packet) (s : State), ∀ e ∈ answerEvents p, p.ty.toNat = e.1 → TakenIn s p →
    (∀ (r : FabReq) (k : TileId) (st : Stream) (tag : Nat) (rm : Remote),
      s.fab.reqs.find? (fun q => q.answeredBy p && rspType q == e.1) = some r → r.owner = .scalar k.val st tag →
      ((s.tile k).core st).remote = some rm → rm.tag = tag →
      ∃ t, exec e.2 s = .next t ∧ CoreAnswered s t k st rm (ruleAnswer r p) ∧ RequestGone s t r) ∧
    (∀ (r : FabReq) (pl : Place) (ch : Fin 8) (o : XferOp) (rest : List XferOp) (k part : Nat),
      s.fab.reqs.find? (fun q => q.answeredBy p && rspType q == e.1) = some r → HeadIs s pl ch o rest →
      r.owner = .piece pl.t.val pl.store ch.val o.info.order k part → dpfLeft o = false → p.status = 0 → s.gang.ridges = [] →
      let bs := if r.pkt.ty = 0 then p.payload else if r.pkt.ty = 2 then leBytes (if r.pkt.opc.toNat / 16 % 4 = 3 then 8 else 4) p.opnd.toNat else []
      (inbound o.inst = true → ∃ t air, exec e.2 s = .next t ∧ RequestGone s t r ∧ (∀ u, u ≠ pl.t → t.tile u = s.tile u) ∧ t.hbm = s.hbm ∧
        ((t.tile pl.t).chan pl.store ch).ops =
          { o with out := o.out.erase (k, part), air := air, arrived := (k, part, bs) :: o.arrived } :: rest) ∧
      (∀ q : Piece, inbound o.inst = false → (o.pieces (s.tile pl.t).store)[k]? = some q → part = 0 → (o.parts q).length = 1 → o.writesCodes = false →
        o.arrived = [] → (o.out.filter fun a => a.1 == k) = [(k, 0)] →
        ∃ t, exec e.2 s = .next t ∧ RequestGone s t r ∧ HeadBecomes s t pl ch (o.performed k) rest ∧ (∀ u, u ≠ pl.t → t.tile u = s.tile u) ∧
          t.hbm = s.hbm)) ∧
    (s.fab.reqs.find? (fun q => q.answeredBy p && rspType q == e.1) = none →
      ∃ t, exec e.2 s = .next t ∧ FabricQuiet s t ∧ t.fab.out = s.fab.out)) ∧
  (∀ (p : Packet) (s : State), p.ty = 11 → TakenIn s p →
    ∃ t, exec (.nack p) s = .next t ∧ (∀ k, SinkAtMost s t k) ∧ t.hbm = s.hbm ∧ t.fab.out = s.fab.out ∧
      t.fab.reqs = s.fab.reqs.map fun r => if r.pkt.sch = p.sch ∧ r.pkt.dmod = p.smod ∧ r.pkt.seq = p.seq then { r with tries := r.tries - 1 } else r) ∧
  (∀ (k : FabKey) (seq : BitVec 32) (s : State) (r : FabReq), findReq s k seq = some r →
    let same := fun (q : FabReq) => q.pkt.sch = k.sch ∧ q.pkt.dmod = k.dmod ∧ q.pkt.seq = seq
    let tries := max 1 (s.fab.fabcfg.toNat % 16)
    let rto := max 4 (s.fab.fabcfg.toNat / 256 % 256) * 1000 * 6486480
    (r.tries < tries → rto ≤ s.time.clk - r.at_ → portsUp s r.die.val = true →
      ∃ t, exec (.retransmit k seq) s = .next t ∧ t.tiles = s.tiles ∧ t.hbm = s.hbm ∧
        t.fab.out = s.fab.out ++ [sealPacket { r.pkt with ctl := r.pkt.ctl ||| 16 }] ∧
        t.fab.reqs = s.fab.reqs.map fun q => if same q then { q with tries := q.tries + 1, at_ := s.time.clk } else q) ∧
    (tries ≤ r.tries ∨ s.time.clk - r.at_ < rto → exec (.retransmit k seq) s = .next s) ∧
    (∀ (j : TileId) (st : Stream) (tag : Nat) (rm : Remote), r.owner = .scalar j.val st tag → ((s.tile j).core st).remote = some rm → rm.tag = tag →
      tries ≤ r.tries → 64000 * 6486480 ≤ s.time.clk - r.at_ →
      ∃ t, exec (.fabricTimeout k seq) s = .next t ∧ RequestGone s t r ∧
        CoreAnswered s t j st rm (.fault 0x28 (BitVec.ofNat 32 (r.pkt.dmod.toNat * 65536 + 1 * 256 + 8)))) ∧
    (r.tries < tries ∨ s.time.clk - r.at_ < 64000 * 6486480 → exec (.fabricTimeout k seq) s = .next s)) ∧
  (∀ (k : TileId) (st : Stream) (s : State) (rm : Remote) (q : Packet), ((s.tile k).core st).remote = some rm → rm.kind = .waitf q → rm.sent = true →
    rm.resp = none → rm.at_ + 1000 * 6486480 ≤ s.time.clk → portsUp s (dieOf k).val = true →
    canSend s { die := dieOf k, sch := schScalar k st, job := tileJob (s.tile k), ofTile := true } q = true →
    ∃ t p, exec (.waitfPoll k st) s = .next t ∧ t.fab.out = s.fab.out ++ [p] ∧ p.payload = q.payload ∧ p.ty = q.ty ∧ p.addr = q.addr ∧ p.dmod = q.dmod ∧
      p.seq = BitVec.ofNat 32 (smGet 0 (streamKey q.sch q.dmod) s.fab.seqs) ∧
      (t.tile k).core st = { (s.tile k).core st with remote := some { rm with at_ := s.time.clk } } ∧ (∀ u, u ≠ k → t.tile u = s.tile u)) ∧
  (∀ (k : TileId) (st : Stream) (s : State) (rm : Remote) (q : Packet), ((s.tile k).core st).remote = some rm → rm.kind = .waitf q → rm.sent = true →
    rm.resp = none → rm.at_ + 1000 * 6486480 ≤ s.time.clk → portsUp s (dieOf k).val = false →
    ∃ t, exec (.waitfPoll k st) s = .next t ∧ CoreAnswered s t k st rm (.fault 0x28 (BitVec.ofNat 32 (2 * 256 + 8))))

namespace Sys2Proof.Machine

/-- Eight limits of a port that may be announced: the last announced stand in the epoch in force, none announced since the last acknowledged
epoch is above what is committed, and that is 4,096 flits at most in all (R411, R413). -/
def LendOk (l : Lend) : Prop :=
  (∃ r, l.hist = (l.epoch, l.limits) :: r) ∧ (∀ h ∈ l.hist, ∀ i : Fin 8, h.2[i].toNat ≤ l.committed[i].toNat) ∧
  (limitNats l.committed).foldl (· + ·) 0 ≤ 4096 ∧ ∀ i : Fin 8, l.targets[i].toNat ≤ 4096

/-- The flits in flight are within limits. -/
abbrev FlyingWithin (l : Lend) (v : Vector (BitVec 16) 8) : Prop := ∀ i : Fin 8, l.flying[i] ≤ v[i].toNat

/-- The new target of a channel: 64 flits, its share of 3,584 by the flits received, and its part of what is left over (R412). -/
def ruleLendTarget (used : Vector Nat 8) (i : Nat) : Nat :=
  let u := used.toList.foldl (· + ·) 0
  let share := fun n => 64 + 3584 * used.toList.getD n 0 / u
  if u = 0 then 512
  else
    let left := 4096 - ((List.range 8).map share).foldl (· + ·) 0
    share i + left / 8 + (if i < left % 8 then 1 else 0)

/-- The lending state of a port. -/
def lendOf (s : State) (p : PortId) : Lend := s.fab.lend[p.val]'p.isLt

/-- New limits leave in a flit of a new epoch; unchanged ones do not (R413). -/
def LimitsSent (s t : State) (p : PortId) : Prop :=
  if (lendOf t p).limits = (lendOf s p).limits then t.fab.ctl = s.fab.ctl ∧ (lendOf t p).epoch = (lendOf s p).epoch
  else (lendOf t p).epoch = (lendOf s p).epoch + 1 ∧
    t.fab.ctl = s.fab.ctl ++ [.limits p.val ((lendOf s p).epoch + 1) (lendOf t p).limits]

/-- Nothing but one port's lending and the control flits changes. -/
def LendOnly (s t : State) (p : PortId) : Prop :=
  t = { s with fab := { s.fab with lend := t.fab.lend, ctl := t.fab.ctl } } ∧ ∀ q : PortId, q ≠ p → lendOf t q = lendOf s q

end Sys2Proof.Machine

/-- R411, R412, R413: CREDIT_INTERVAL, 1,024 tile clocks after the last, sets the targets from the flits received and lowers the limits at once; LIMIT_ACK of an
announced epoch frees what the decreases up to it gave up; both raise limits only into room that nothing is committed to, so the limits stay
within the 4,096 flits of the port. LIMIT_FLIT takes the peer's limits; each epoch of the peer, also one that a later one has superseded, is acknowledged once the flits in flight are within
its limits. -/
def Obligations.BuffersAreLent : Prop :=
  ∀ (p : PortId) (s : State), s.fab.portup.getLsbD p.val = true →
    let l := lendOf s p
    (1024 ≤ ((s.tile 0).cycle - l.since).toNat →
      ∃ t, exec (.creditInterval p) s = .next t ∧ LendOnly s t p ∧ LimitsSent s t p ∧
        (∀ i : Fin 8, (lendOf t p).targets[i].toNat = ruleLendTarget l.used i.val) ∧ (lendOf t p).used = Vector.replicate 8 0 ∧
        (lendOf t p).since = (s.tile 0).cycle ∧
        (LendOk l → LendOk (lendOf t p) ∧ ∀ i : Fin 8, (lendOf t p).limits[i].toNat ≤ (lendOf t p).targets[i].toNat)) ∧
    (((s.tile 0).cycle - l.since).toNat < 1024 → exec (.creditInterval p) s = .next s) ∧
    (∀ e : BitVec 16, (∃ h ∈ l.hist, h.1 = e) →
      ∃ t, exec (.limitAck p e) s = .next t ∧ LendOnly s t p ∧ LimitsSent s t p ∧ (lendOf t p).acked = e ∧
        (LendOk l → LendOk (lendOf t p) ∧ ∀ i : Fin 8, l.limits[i].toNat ≤ (lendOf t p).limits[i].toNat)) ∧
    (∀ e : BitVec 16, (∀ h ∈ l.hist, h.1 ≠ e) → exec (.limitAck p e) s = .next s) ∧
    (∀ (e : BitVec 16) (v : Vector (BitVec 16) 8), s.fab.stay = [] →
      ∃ t, exec (.limitFlit p e v) s = .next t ∧ LendOnly s t p ∧
        lendOf t p = { l with peer := v, peerEpoch := e, owed := (l.owed ++ [(e, v)]).filter fun x => !decide (FlyingWithin l x.2) } ∧
        t.fab.ctl = s.fab.ctl ++ ((l.owed ++ [(e, v)]).filter fun x => decide (FlyingWithin l x.2)).map fun x => .ack p.val x.1)

/-- R398, R401, R403, R406, R409, R458: RAFTER_LINK_DOWN and PURLIN_PORT_DOWN mark their link or port; PURLIN_TRAIN brings a port up once modnum is written and 4 ms have
passed (both sides' limits are then 512, the model's choice, log entry 22). REQUEST_DISCARD drops a request that could not begin within 10 µs. REPLAY_STATE_FREE frees a source's state 4 ms after its last
request. PURLIN_PACKET_DISCARD drops a packet that fails CHECK or has an unassigned TYPE. -/
def Obligations.LinksPortsAndDiscards : Prop :=
  (∀ (l : LinkId) (s : State), ∃ t, exec (.rafterLinkDown l) s = .next t ∧ t = { s with fab := { s.fab with linkdown := t.fab.linkdown } } ∧
    ∀ n, n < 66 → t.fab.linkdown.getLsbD n = (s.fab.linkdown.getLsbD n || n == l.val)) ∧
  (∀ (p : PortId) (s : State), ∃ t, exec (.purlinPortDown p) s = .next t ∧ t = { s with fab := { s.fab with portup := t.fab.portup } } ∧
    ∀ n, n < 48 → t.fab.portup.getLsbD n = (s.fab.portup.getLsbD n && n != p.val)) ∧
  (∀ (p : PortId) (s : State), 6 ≤ s.hk.bring → s.fab.modset = true → 4000000 * 6486480 ≤ s.time.clk - s.hk.resetAt →
    s.fab.portup.getLsbD p.val = false →
    ∃ t, exec (.purlinTrain p) s = .next t ∧ t = { s with fab := { s.fab with portup := t.fab.portup, lend := t.fab.lend } } ∧
      (∀ n, n < 48 → t.fab.portup.getLsbD n = (s.fab.portup.getLsbD n || n == p.val)) ∧
      (lendOf t p).limits = Vector.replicate 8 512 ∧ ∀ q : PortId, q ≠ p → lendOf t q = lendOf s q) ∧
  (∀ (p : PortId) (s : State), s.fab.modset = false ∨ s.time.clk - s.hk.resetAt < 4000000 * 6486480 → exec (.purlinTrain p) s = .next s) ∧
  (∀ (i : Nat) (s : State) (r : HomeReq), s.fab.homeq[i]? = some r → r.held = none →
    (10000 * 6486480 ≤ s.time.clk - r.at_ →
      ∃ t, exec (.requestDiscard i) s = .next t ∧ t.fab.homeq = s.fab.homeq.eraseIdx i ∧ t.fab.discarded = s.fab.discarded + 1 ∧
        t.hbm = s.hbm ∧ t.tiles = s.tiles ∧ t.fab.replay = s.fab.replay ∧ t.fab.out = s.fab.out) ∧
    (s.time.clk - r.at_ < 10000 * 6486480 → exec (.requestDiscard i) s = .next s)) ∧
  (∀ (die : DieId) (m : BitVec 12) (c : BitVec 16) (s : State),
    (∀ e ∈ s.fab.homeq, ¬(e.pkt.ddie = die ∧ e.pkt.smod = m ∧ e.pkt.sch = c)) →
    ∃ t, exec (.replayStateFree die m c) s = .next t ∧ t = { s with fab := { s.fab with replay := t.fab.replay, floors := t.fab.floors } } ∧
      ∀ r, r ∈ t.fab.replay ↔ r ∈ s.fab.replay ∧ ¬(r.die = die ∧ r.smod = m ∧ r.sch = c ∧ 4000000 * 6486480 ≤ s.time.clk - r.last)) ∧
  (∀ (p : Packet) (s : State), openPorts s p ≠ [] → packetOk p = false ∨ p.ty.toNat ∉ [0, 1, 2, 3, 4, 8, 9, 10, 11, 13] →
    ∃ t, exec (.purlinPacketDiscard p) s = .next t ∧ FabricQuiet s t ∧ t.fab.discarded = s.fab.discarded + 1 ∧ t.fab.out = s.fab.out ∧
      t.fab.replay = s.fab.replay)

/-! ### Events of gang time -/

namespace Sys2Proof.Machine

/-- A GANG message with its fields (R430). -/
def ruleMessage (s : State) (sub : Nat) (dst : BitVec 12) (g t cmpv : Word64) : Packet :=
  sealPacket { blankPacket with
    ty := 13, ctl := 6, dmod := dst, smod := s.fab.modnum, sch := 0xFF00, addr := t, opnd := g, cmpv := cmpv, opc := BitVec.ofNat 16 sub }

/-- The time of a lead's first decision has come: T - DELTA / 2 (R431). -/
def FirstTime (s : State) (l : LeadSt) : Prop := fieldAt l.bytes 0x10 8 ≤ s.ns + fieldAt l.bytes 0x18 4 / 2

/-- The time of a lead's second decision has come: T + GRACE (R433). -/
def SecondTime (s : State) (l : LeadSt) : Prop := fieldAt l.bytes 0x10 8 + fieldAt l.bytes 0x1C 4 ≤ s.ns

/-- How long a lead waits for READY (R434). -/
def readyLimit (l : LeadSt) : Nat := fieldAt l.bytes 0x10 8 + (if l.second.isSome then 2 else 1) * fieldAt l.bytes 0x1C 4

/-- CMPV of a decision (R430). -/
def ruleDecCmpv (d : GDec) : Word64 :=
  BitVec.ofNat 64 (d.code.toNat + d.reason.toNat * 2 ^ 8 + d.smod.toNat * 2 ^ 16 + d.heard.toNat * 2 ^ 32)

/-- The message of a decision of a lead: DECIDE or GO (R430). -/
def ruleDecide (s : State) (l : LeadSt) (d : GDec) (m : BitVec 12) : Packet :=
  ruleMessage s (if d.go then 6 else 2) m l.gang l.t (ruleDecCmpv d)

/-- Messages for other modules leave while a port is up; those for this module arrive next. -/
def MessagesLeave (s t : State) (ps : List Packet) : Prop :=
  (s.fab.portup ≠ 0 → t.fab.out = s.fab.out ++ ps.filter fun p => p.dmod != s.fab.modnum) ∧
  t.agenda = s.agenda ++ (ps.filter fun p => p.dmod == s.fab.modnum).map fun p => .event (gangEvent p)

/-- A GANG message of a subtype that has arrived (R402, R430). -/
def GangArrived (s : State) (p : Packet) (sub : Nat) : Prop :=
  packetOk p = true ∧ p.ty = 13 ∧ p.opc.toNat % 16 = sub ∧ p.dmod = s.fab.modnum ∧ (p.smod = s.fab.modnum ∨ s.fab.portup ≠ 0)

/-- Nothing changes but gang time, messages and packets' status. -/
structure GangOnly (s t : State) : Prop where
  tiles : t.tiles = s.tiles
  hbm : t.hbm = s.hbm
  time : t.time = s.time
  hk : t.hk = s.hk
  sec : t.sec = s.sec

/-- What a lead knows of one participant. -/
def repAt (l : LeadSt) (m : BitVec 12) : Option PartRep := l.reps.find? fun r => r.smod == m

/-- The lead's view `l` becomes one in which only what is known of module `m` has changed, to `f` of what it was. -/
def HeardFrom (t : State) (l : LeadSt) (m : BitVec 12) (f : PartRep → Prop) : Prop :=
  ∃ n r, leadOf t l.gang l.t = some n ∧ repAt n m = some r ∧ f r ∧ (∀ o, o ≠ m → repAt n o = repAt l o) ∧ n.first = l.first ∧ n.bytes = l.bytes

/-- What was known of a participant before it was heard. -/
def knownOf (l : LeadSt) (m : BitVec 12) : PartRep :=
  (repAt l m).getD { smod := m, arm := false, agree := true, clock := false, query := false, verdict := none, ready := false }

/-- The first decision of R431. -/
def ruleFirstDec (s : State) (l : LeadSt) : GDec :=
  let armed := l.reps.filter (·.arm)
  let heard := BitVec.ofNat 16 l.reps.length
  match armed.find? fun r => !r.agree with
  | some r => ⟨3, 4, r.smod.setWidth 16, heard, false⟩
  | none =>
    if armed.length < fieldAt l.bytes 4 2 then ⟨3, 1, 0xFFFF, heard, false⟩
    else if armed.any (·.clock) ∨ fieldAt l.bytes 0x18 4 / 2 < s.time.unc.toNat then
      (if fieldAt l.bytes 3 1 % 2 = 1 then ⟨2, 0, 0xFFFF, heard, false⟩ else ⟨3, 0, 0xFFFF, heard, false⟩)
    else ⟨1, 0, 0xFFFF, heard, false⟩

/-- The second decision of R433. -/
def ruleSecondDec (l : LeadSt) : GDec :=
  let heard := BitVec.ofNat 16 l.reps.length
  let vs := l.reps.filterMap fun r => r.verdict.map fun v => (r.smod, v)
  if vs.length < fieldAt l.bytes 4 2 then ⟨3, 3, 0xFFFF, heard, false⟩
  else
    match vs.find? fun v => v.2.1 != 0 with
    | some v => ⟨3, 2, v.1.setWidth 16, heard, false⟩
    | none =>
      if vs.any (·.2.2) then (if fieldAt l.bytes 3 1 % 2 = 1 then ⟨2, 0, 0xFFFF, heard, false⟩ else ⟨3, 0, 0xFFFF, heard, false⟩)
      else ⟨4, 0, 0xFFFF, heard, false⟩

/-- A lead's decision taken: sent to every participant it has heard from, and kept as its latest. -/
def Decided (s t : State) (l : LeadSt) (d : GDec) (f : LeadSt → Prop) : Prop :=
  MessagesLeave s t (l.reps.map fun r => ruleDecide s l d r.smod) ∧ ∃ n, leadOf t l.gang l.t = some n ∧ n.last = some d ∧ f n

/-- The action is PREEMPT or CANCEL. -/
def ruleDrains (bs : List Byte) : Prop := fieldAt bs 2 1 = 1 ∨ fieldAt bs 2 1 = 3

/-- A lead's view is the one its key names: the first with its gang and T. -/
def Leads (s : State) (l : LeadSt) : Prop := leadOf s l.gang l.t = some l

end Sys2Proof.Machine

/-- R428, R430-R434: the lead of a gang hears ARM (agreeing with its record or not; until the time of the first decision), FALLBACK (a CLOCK bit until then),
VERDICT (the first of a participant counts, until the time of the second decision), READY and QUERY (answered with the latest decision). FIRST_DECISION at T - DELTA / 2, SECOND_DECISION at T + GRACE or with
PART verdicts, and FALLBACK_TIMEOUT send their decision to every participant heard; DECISION_EXPIRE forgets a gang 10 s after T. Model
choices (log entry 41): an ARM or FALLBACK at or after T - DELTA / 2, and a VERDICT at or after T + GRACE, do not count. -/
def Obligations.LeadDecides : Prop :=
  (∀ (p : Packet) (s : State) (r : Ridge) (l : LeadSt), s.ridge p.opnd = some r → r.fin = false → Leads s l → l.gang = p.opnd →
    l.t.toNat = fieldAt r.bytes 0x10 8 → GangArrived s p 1 →
    (¬FirstTime s l → ∃ t, exec (.gangArm p) s = .next t ∧ GangOnly s t ∧ HeardFrom t l p.smod fun q =>
      q.arm = true ∧ q.clock = ((knownOf l p.smod).clock || p.cmpv.getLsbD 32) ∧
      (q.agree = true ↔ p.cmpv.toNat / 2 ^ 40 % 256 = fieldAt l.bytes 2 1 ∧ p.cmpv.toNat / 2 ^ 48 = fieldAt l.bytes 4 2 ∧ p.addr = l.t ∧
        p.delta.toNat = fieldAt l.bytes 0x18 4)) ∧
    (FirstTime s l → ∃ t, exec (.gangArm p) s = .next t ∧ GangOnly s t ∧ HeardFrom t l p.smod fun q =>
      q.arm = (knownOf l p.smod).arm ∧ q.clock = (knownOf l p.smod).clock)) ∧
  (∀ (p : Packet) (s : State), s.ridge p.opnd = none → exec (.gangArm p) s = .next s) ∧
  (∀ (p : Packet) (s : State) (l : LeadSt), Leads s l → l.gang = p.opnd → l.t = p.addr →
    (GangArrived s p 4 → ∃ t, exec (.gangFallback p) s = .next t ∧ GangOnly s t ∧ HeardFrom t l p.smod fun q =>
      (q.clock = true ↔ (knownOf l p.smod).clock = true ∨ ¬FirstTime s l) ∧ q.arm = (knownOf l p.smod).arm) ∧
    (GangArrived s p 3 → secondDue l = true → SecondTime s l → exec (.gangVerdict p) s = .next s) ∧
    (GangArrived s p 3 →
      (secondDue l = true → ¬SecondTime s l ∧
        (l.reps.filter fun r => r.smod != p.smod && r.verdict.isSome).length + 1 < fieldAt l.bytes 4 2) →
      ∃ t, exec (.gangVerdict p) s = .next t ∧ GangOnly s t ∧ HeardFrom t l p.smod fun q =>
        q.verdict = some ((knownOf l p.smod).verdict.getD (p.cmpv.setWidth 32, p.cmpv.getLsbD 32))) ∧
    (GangArrived s p 5 → (∀ d, l.last = some d → d.code ≠ 2) →
      ∃ t, exec (.gangReady p) s = .next t ∧ GangOnly s t ∧ HeardFrom t l p.smod fun q => q.ready = true) ∧
    (∀ (d : GDec) (n : Nat), GangArrived s p 5 →  l.last = some d → d.code = 2 → s.ns ≤ readyLimit l →
      n = ((l.reps.filter fun r => r.smod != p.smod && r.ready).length + 1) → fieldAt l.bytes 4 2 ≤ n →
      ∃ t m, exec (.gangReady p) s = .next t ∧ GangOnly s t ∧ leadOf t l.gang l.t = some m ∧
        m.last = some ⟨4, 0, 0xFFFF, BitVec.ofNat 16 m.reps.length, true⟩ ∧ (repAt m p.smod).isSome = true ∧
        MessagesLeave s t (m.reps.map fun r => ruleDecide s l ⟨4, 0, 0xFFFF, BitVec.ofNat 16 m.reps.length, true⟩ r.smod)) ∧
    (∀ d : GDec, GangArrived s p 7 → l.last = some d → p.smod ∉ l.gos →
      ∃ t, exec (.gangQuery p) s = .next t ∧ GangOnly s t ∧ HeardFrom t l p.smod (fun q => q.query = true) ∧
        MessagesLeave s t [ruleDecide s l d p.smod]) ∧
    (GangArrived s p 7 → l.last = none → l.gos = [] →
      ∃ t, exec (.gangQuery p) s = .next t ∧ GangOnly s t ∧ HeardFrom t l p.smod (fun q => q.query = true) ∧ MessagesLeave s t [])) ∧
  (∀ (g : BitVec 64) (s : State),
    (∀ l : LeadSt, s.gang.leads.find? (fun l => l.gang == g && l.first.isNone) = some l → Leads s l → FirstTime s l →
      ∃ t, exec (.firstDecision g) s = .next t ∧ GangOnly s t ∧ Decided s t l (ruleFirstDec s l) fun n => n.first = some (ruleFirstDec s l)) ∧
    ((∀ l ∈ s.gang.leads, l.gang = g → l.first = none → ¬FirstTime s l) → exec (.firstDecision g) s = .next s) ∧
    (∀ l : LeadSt, s.gang.leads.find? (fun l => l.gang == g && secondDue l) = some l → Leads s l → SecondTime s l →
      ∃ t, exec (.secondDecision g) s = .next t ∧ GangOnly s t ∧ Decided s t l (ruleSecondDec l) fun n => n.second = some (ruleSecondDec l)) ∧
    ((∀ l ∈ s.gang.leads, l.gang = g → secondDue l = true → ¬SecondTime s l) → exec (.secondDecision g) s = .next s) ∧
    (∀ l : LeadSt, s.gang.leads.find? (fun l => l.gang == g && inFallback l) = some l → Leads s l → readyLimit l < s.ns →
      ∃ t, exec (.fallbackTimeout g) s = .next t ∧ GangOnly s t ∧
        Decided s t l ⟨3, 3, 0xFFFF, BitVec.ofNat 16 l.reps.length, false⟩ fun n => n.first = l.first) ∧
    ((∀ l ∈ s.gang.leads, l.gang = g → inFallback l = true → s.ns ≤ readyLimit l) → exec (.fallbackTimeout g) s = .next s) ∧
    (∃ t, exec (.decisionExpire g) s = .next t ∧ t = { s with gang := { s.gang with leads := t.gang.leads } } ∧
      ∀ m, m ∈ t.gang.leads ↔ m ∈ s.gang.leads ∧ ¬(m.gang = g ∧ fieldAt m.bytes 0x10 8 + 10000000000 ≤ s.ns)))

namespace Sys2Proof.Machine

/-- The requests of a job that have left the module through the fabric and are not answered, those of the dispatchers for it included (R429). -/
def ruleGangCount (s : State) (j : JobId) : Nat := (s.fab.reqs.filter fun r => r.pkt.job == j).length

/-- Every tile with a started task of the job that was not in a drain drains for PREEMPT with source 1 (R359, R432); one whose task is not started,
or in a drain, has the request pending (R367); tiles without a task of the job stay. -/
def JobDrains (s t : State) (j : JobId) : Prop :=
  (∀ k, holdsJob j.val (s.tile k) = false → t.tile k = s.tile k) ∧
  (∀ k x, (s.tile k).task = some x → x.job = j → x.tstart = none ∨ inDrain (s.tile k) = true →
    (t.tile k).drain.preq = true ∧ (t.tile k).drain.ridge = true) ∧
  ∀ k x, (s.tile k).task = some x → x.job = j → x.tstart.isSome = true → inDrain (s.tile k) = false →
    (t.tile k).drain.draining = true ∧ (t.tile k).drain.ridge = true ∧ (t.tile k).drain.trig = 0x38 ∧
    (∀ st, ((t.tile k).core st).u = ((s.tile k).core st).u) ∧ (t.tile k).store = (s.tile k).store

/-- A packet's completion has its status and the result half of its record (R424, R425): STATUS, REASON, SMOD, HEARD, ACTUAL. -/
def RecordEnds (t : State) (pkt : Nat) (code status reason : Nat) : Prop :=
  ∀ p ∈ t.disp.pkts, p.id = pkt → p.status = some (BitVec.ofNat 16 code) ∧ fieldAt p.recs 0 2 = status ∧ fieldAt p.recs 3 1 = reason

/-- A LAUNCH or RESUME has been performed: its record is DONE and the quiesce has ended (R432). -/
def ActionOver (t : State) (r q : Ridge) (actual : Nat) : Prop :=
  t.ridge r.gang = some q ∧ q.fin = true ∧ q.acted = some actual ∧ q.quiesced = false ∧ RecordEnds t r.pkt 0 1 0

/-- The packet at LPKT is among those taken and may start; tiles that hold a task stay (R253, R257, R432). -/
def LaunchStarts (s t : State) (r : Ridge) : Prop :=
  (∃ p ∈ t.disp.pkts, p.id = s.disp.nextPkt ∧ p.job = r.job ∧ p.bytes = r.bytes.drop 64 ∧ p.free = true) ∧ t.hbm = s.hbm ∧
  ∀ k, (s.tile k).task ≠ none → t.tile k = s.tile k

/-- The job's RESUME has begun (R379, R432): it is RESUMING, or RUNNING where nothing of it is left to resume. -/
def ResumeStarts (s t : State) (r : Ridge) : Prop :=
  t.tiles = s.tiles ∧ t.hbm = s.hbm ∧
  (t.job r.job.val).pre = (if (s.disp.saved.any fun e => e.2.1.job.val == r.job.val) ||
    (s.tiles.any fun x => holdsJob r.job.val x && x.drain.restore) then 3 else 0)

/-- A tile learns a decision: `dec` in ctl.svridge of every core, with the action and FALLBACK; its task stands as it was (R437). -/
def DecLearnt (s t : State) (r : Ridge) (dec : Nat) (k : TileId) : Prop :=
  (∀ st, ((t.tile k).core st).u = ((s.tile k).core st).u ∧
    ((t.tile k).core st).v.ridge = BitVec.ofNat 5 (dec + fieldAt r.bytes 2 1 * 4 + if r.rflags.getLsbD 0 then 16 else 0)) ∧
  (t.tile k).store = (s.tile k).store ∧ (t.tile k).queues = (s.tile k).queues ∧ (t.tile k).eng = (s.tile k).eng ∧
  (t.tile k).task = (s.tile k).task ∧ (t.tile k).drain = (s.tile k).drain

/-- A tile that a record drains. -/
def DrainedBy (s : State) (r : Ridge) (k : TileId) : Prop :=
  holdsJob r.job.val (s.tile k) = true ∧ (s.tile k).drain.ridge = true ∧ inDrain (s.tile k) = true

/-- The only armed record of its gang. -/
def Armed (s : State) (r : Ridge) : Prop := s.ridge r.gang = some r ∧ r.fin = false

/-- The message is the lead's decision for the record, and comes before UNDECIDED is due (R435). -/
def DecisionFor (s : State) (p : Packet) (r : Ridge) (sub : Nat) : Prop :=
  Armed s r ∧ p.opnd = r.gang ∧ GangArrived s p sub ∧ p.addr.toNat = fieldAt r.bytes 0x10 8 ∧ p.smod.toNat = fieldAt r.bytes 6 2 ∧
  s.ns < fieldAt r.bytes 0x10 8 + 1000000000

end Sys2Proof.Machine

/-- R429, R431-R435: QUIESCE comes at T - DELTA. RIDGE_ACTION at T takes the gang count and U; without a decision the participant only queries its lead; under
TIME a PREEMPT or CANCEL drains the job's tiles with ACTUAL T, a LAUNCH or RESUME begins, and one whose clock is bad sends VERDICT and leaves the
tiles alone. QUERY_RESEND queries again. UNDECIDED, 1 s after T, ends the record with STATUS 4 and vector 1,217. That the gang count takes in the
dispatchers' requests, and how the job stays quiesced after UNDECIDED, are the model's readings, log entry 41. -/
def Obligations.ParticipantActsAtT : Prop :=
  (∀ (r : Ridge) (s : State), Armed s r →
    (fieldAt r.bytes 0x10 8 ≤ s.ns + fieldAt r.bytes 0x18 4 →
      ∃ t, exec (.quiesce r.gang) s = .next t ∧ GangOnly s t ∧ t.ridge r.gang = some { r with quiesced := true } ∧
        jobQuiesced t r.job.val = true) ∧
    (s.ns + fieldAt r.bytes 0x18 4 < fieldAt r.bytes 0x10 8 → exec (.quiesce r.gang) s = .next s)) ∧
  (∀ (r : Ridge) (s : State), Armed s r → r.atT = false → leadOf s r.gang (BitVec.ofNat 64 (fieldAt r.bytes 0x10 8)) = none →
    let lead := BitVec.ofNat 12 (fieldAt r.bytes 6 2)
    let T : Word64 := BitVec.ofNat 64 (fieldAt r.bytes 0x10 8)
    let cut := { r with inflight := BitVec.ofNat 32 (ruleGangCount s r.job), unc := s.time.unc, atT := true }
    (s.ns < fieldAt r.bytes 0x10 8 → exec (.ridgeAction r.gang) s = .next s) ∧
    (fieldAt r.bytes 0x10 8 ≤ s.ns →
      (r.dec = none → ∃ t, exec (.ridgeAction r.gang) s = .next t ∧ GangOnly s t ∧ t.ridge r.gang = some cut ∧
        MessagesLeave s t [ruleMessage s 7 lead r.gang T 0]) ∧
      (∀ d : GDec, r.dec = some d → d.code = 1 → ruleDrains r.bytes →
        (fieldAt r.bytes 0x18 4 / 2 < s.time.unc.toNat → ∃ t, exec (.ridgeAction r.gang) s = .next t ∧ GangOnly s t ∧
          t.ridge r.gang = some { cut with verdictSent := true } ∧
          MessagesLeave s t [ruleMessage s 3 lead r.gang T (BitVec.ofNat 64 (cut.inflight.toNat + 2 ^ 32 + (if r.rflags.getLsbD 1 then 2 ^ 33 else 0)))]) ∧
        (s.time.unc.toNat ≤ fieldAt r.bytes 0x18 4 / 2 → ∃ t q, exec (.ridgeAction r.gang) s = .next t ∧ JobDrains s t r.job ∧ t.hbm = s.hbm ∧
          t.ridge r.gang = some q ∧ q.acted = some (fieldAt r.bytes 0x10 8) ∧ q.inflight = cut.inflight ∧ q.quiesced = r.quiesced)) ∧
      (∀ d : GDec, r.dec = some d → d.code = 1 → fieldAt r.bytes 2 1 = 2 → s.time.unc.toNat ≤ fieldAt r.bytes 0x18 4 / 2 →
        ∃ t q, exec (.ridgeAction r.gang) s = .next t ∧ ActionOver t r q (fieldAt r.bytes 0x10 8) ∧ ResumeStarts s t r) ∧
      (∀ d : GDec, r.dec = some d → d.code = 1 → fieldAt r.bytes 2 1 = 0 → s.time.unc.toNat ≤ fieldAt r.bytes 0x18 4 / 2 →
        ∃ t q, exec (.ridgeAction r.gang) s = .next t ∧ ActionOver t r q (fieldAt r.bytes 0x10 8) ∧ LaunchStarts s t r))) ∧
  (∀ (r : Ridge) (s : State), Armed s r → r.atT = true → r.dec = none →
    (smGet 0 r.gang.toNat s.gang.nextQuery ≤ s.ns → ∃ t, exec (.queryResend r.gang) s = .next t ∧ GangOnly s t ∧ t.ridge r.gang = some r ∧
      MessagesLeave s t [ruleMessage s 7 (BitVec.ofNat 12 (fieldAt r.bytes 6 2)) r.gang (BitVec.ofNat 64 (fieldAt r.bytes 0x10 8)) 0]) ∧
    (s.ns < smGet 0 r.gang.toNat s.gang.nextQuery → exec (.queryResend r.gang) s = .next s) ∧
    (fieldAt r.bytes 0x10 8 + 1000000000 ≤ s.ns → ∃ t q, exec (.undecided r.gang) s = .next t ∧ GangOnly s t ∧
      t.ridge r.gang = some q ∧ q.fin = true ∧ q.quiesced = r.quiesced ∧ r.job ∈ t.gang.stuck ∧ RecordEnds t r.pkt 8 4 0 ∧
      t.host.out = s.host.out ++ [HostMsg.msix 1217]) ∧
    (s.ns < fieldAt r.bytes 0x10 8 + 1000000000 → exec (.undecided r.gang) s = .next s))

/-- R430-R438: DECIDE to an armed participant: TIME before T is kept; FALLBACK quiesces at once; ABANDON ends the record with its STATUS and REASON and ends
the quiesce, with STRAGGLER or SPEND in the job's tiles where POLICY.FAULT asks for it; the tiles that the record drained learn ABANDON or COMMIT in ctl.svridge, and
COMMIT of a CANCEL takes the rest of the job; a repeated or older decision changes nothing. Late TIME performs its action, and GO in fallback drains the job's tiles,
at receipt, with RFLAGS.LATE or RFLAGS.FALLBACK set. That INFLIGHT takes in the dispatchers' requests is the model's reading, log entry 41. -/
def Obligations.ParticipantObeys : Prop :=
  (∀ (p : Packet) (r : Ridge) (s : State), DecisionFor s p r 2 →
    let code := p.cmpv.toNat % 8
    (r.dec = none → code = 1 → r.atT = false → s.ns ≤ fieldAt r.bytes 0x10 8 →
      ∃ t q, exec (.gangDecide p) s = .next t ∧ GangOnly s t ∧ t.ridge r.gang = some q ∧ q.dec.isSome = true ∧ q.acted = r.acted ∧
        q.fin = false ∧ q.quiesced = r.quiesced) ∧
    (r.dec = none → code = 2 → ∃ t q, exec (.gangDecide p) s = .next t ∧ GangOnly s t ∧ t.ridge r.gang = some q ∧ q.quiesced = true ∧
      q.fin = false ∧ q.acted = r.acted) ∧
    (r.dec = none → code = 3 → fieldAt r.bytes 3 1 / 2 % 2 = 0 → (∀ k, holdsJob r.job.val (s.tile k) = true → (s.tile k).drain.ridge = false) →
      let reason := p.cmpv.toNat / 2 ^ 8 % 256
      let status := if reason = 0 then 3 else if reason = 4 ∨ reason = 5 then 5 else 2
      ∃ t q, exec (.gangDecide p) s = .next t ∧ t.tiles = s.tiles ∧ t.hbm = s.hbm ∧ t.ridge r.gang = some q ∧ q.fin = true ∧ q.quiesced = false ∧
        RecordEnds t r.pkt 8 status reason) ∧
    (∀ d : GDec, r.dec = some d → code ≠ 3 → code ≠ 4 → code ≤ d.code.toNat → exec (.gangDecide p) s = .next s) ∧
    (r.dec = none → code = 1 → r.atT = true ∨ fieldAt r.bytes 0x10 8 < s.ns → ruleDrains r.bytes →
      ∃ t q, exec (.gangDecide p) s = .next t ∧ JobDrains s t r.job ∧ t.hbm = s.hbm ∧ t.ridge r.gang = some q ∧ q.acted = some s.ns ∧
        q.rflags.getLsbD 1 = true ∧ q.inflight = (if r.atT then r.inflight else BitVec.ofNat 32 (ruleGangCount s r.job))) ∧
    (r.dec = none → code = 1 → r.atT = true ∨ fieldAt r.bytes 0x10 8 < s.ns →
      (fieldAt r.bytes 2 1 = 0 → ∃ t q, exec (.gangDecide p) s = .next t ∧ ActionOver t r q s.ns ∧ q.rflags.getLsbD 1 = true ∧ LaunchStarts s t r) ∧
      (fieldAt r.bytes 2 1 = 2 → ∃ t q, exec (.gangDecide p) s = .next t ∧ ActionOver t r q s.ns ∧ q.rflags.getLsbD 1 = true ∧ ResumeStarts s t r)) ∧
    ((∀ d, r.dec = some d → d.code = 1 ∨ d.code = 2) → r.acted.isSome = true → code = 4 →
      (fieldAt r.bytes 2 1 = 1 → ∃ t q, exec (.gangDecide p) s = .next t ∧ t.hbm = s.hbm ∧ t.ridge r.gang = some q ∧ q.acted = r.acted ∧ q.fin = false ∧
        (∀ k, holdsJob r.job.val (s.tile k) = true → (s.tile k).drain.ridge = true → DecLearnt s t r 1 k) ∧
        ∀ k, holdsJob r.job.val (s.tile k) = false ∨ (s.tile k).drain.ridge = false → t.tile k = s.tile k) ∧
      (fieldAt r.bytes 2 1 = 3 → ∃ t q, exec (.gangDecide p) s = .next t ∧ t.ridge r.gang = some q ∧ q.acted = r.acted ∧
        (∀ k, DrainedBy s r k → DecLearnt s t r 1 k) ∧ (∀ k, holdsJob r.job.val (s.tile k) = false → t.tile k = s.tile k) ∧
        (∀ n, (s.uq n).job = r.job.val → (t.uq n).state = 0) ∧
        ∀ o ∈ s.disp.pkts, o.job = r.job → o.status = none → otherOpen o = true → ∃ u ∈ t.disp.pkts, u.id = o.id ∧ u.status = some 2)) ∧
    ((∀ d, r.dec = some d → d.code = 1 ∨ d.code = 2) → code = 3 →
      let reason := p.cmpv.toNat / 2 ^ 8 % 256
      let status := if reason = 0 then 3 else if reason = 4 ∨ reason = 5 then 5 else 2
      let ended := fun (t : State) => ∃ q, t.ridge r.gang = some q ∧ q.fin = true ∧ q.quiesced = false ∧ RecordEnds t r.pkt 8 status reason
      (fieldAt r.bytes 3 1 / 2 % 2 = 0 ∨ status = 5 → ∃ t, exec (.gangDecide p) s = .next t ∧ ended t ∧ t.hbm = s.hbm ∧
        (∀ k, DrainedBy s r k → DecLearnt s t r 2 k) ∧
        (∀ k, holdsJob r.job.val (s.tile k) = true → (s.tile k).drain.ridge = true → inDrain (s.tile k) = false →
          (t.tile k).drain = { (s.tile k).drain with preq := false, ridge := false } ∧ (t.tile k).task = (s.tile k).task ∧
            (t.tile k).store = (s.tile k).store) ∧
        (∀ k, holdsJob r.job.val (s.tile k) = false ∨ (s.tile k).drain.ridge = false → t.tile k = s.tile k) ∧
        (fieldAt r.bytes 2 1 = 1 → r.acted.isSome = true → (s.job r.job.val).pre = 1 → (t.job r.job.val).pre = 0)) ∧
      (fieldAt r.bytes 3 1 / 2 % 2 = 1 → status ≠ 5 →
        let info : BitVec 32 := BitVec.ofNat 32 (fieldAt r.bytes 2 1 * 2 ^ 18 + (status - 2) * 2 ^ 16 + reason % 16 * 2 ^ 12 + p.cmpv.toNat / 2 ^ 16 % 2 ^ 12)
        ∃ t, exec (.gangDecide p) s = .next t ∧ ended t ∧ t.hbm = s.hbm ∧ (∀ k, holdsJob r.job.val (s.tile k) = false → t.tile k = s.tile k) ∧
          ∀ k x, (s.tile k).task = some x → x.job = r.job →
            (t.tile k).store = (s.tile k).store ∧ (∀ st, ((t.tile k).core st).u = ((s.tile k).core st).u) ∧
            (inDrain (s.tile k) = true ∨ x.tstart = none → (t.tile k).drain.spend = some info) ∧
            (inDrain (s.tile k) = false → x.tstart.isSome = true → (t.tile k).drain.draining = true ∧ (t.tile k).drain.trig = 0x31 ∧
              ∃ f, (t.tile k).drain.first = some f ∧ f.cause = 0x31 ∧ f.info = info)))) ∧
  (∀ (p : Packet) (r : Ridge) (s : State) (d : GDec), DecisionFor s p r 6 → r.dec = some d → d.code = 2 → r.acted = none → fieldAt r.bytes 2 1 = 1 →
    ∃ t q, exec (.gangGo p) s = .next t ∧ t.hbm = s.hbm ∧ t.ridge r.gang = some q ∧ q.acted = some s.ns ∧ q.rflags.getLsbD 0 = true ∧
      q.inflight = BitVec.ofNat 32 (ruleGangCount s r.job) ∧ q.unc = s.time.unc ∧
      (∀ k, holdsJob r.job.val (s.tile k) = false → t.tile k = s.tile k) ∧
      ∀ k x, (s.tile k).task = some x → x.job = r.job → x.tstart.isSome = true → inDrain (s.tile k) = false →
        (t.tile k).drain.draining = true ∧ (t.tile k).drain.ridge = true ∧ (t.tile k).drain.trig = 0x38 ∧
        ∀ st, ((t.tile k).core st).u = ((s.tile k).core st).u ∧ ((t.tile k).core st).v.ridge = BitVec.ofNat 5 (1 + 1 * 4 + 16))

/-! ### Reset, bring-up, security, power and host events -/

namespace Sys2Proof.Machine

/-- What both kinds of reset leave (R456-R459): every tile without a task, its streams absent and its operations gone; dispatchers, fabric,
time, gang time and host port at their reset values; key slots empty; bring-up at step 1. Messages that have left stay sent; a packet that still waited for credit is gone. -/
structure AfterReset (s t : State) : Prop where
  tasks : ∀ k, (t.tile k).task = none ∧ (t.tile k).drain = Drain.none ∧ (t.tile k).eng = Engines.reset ∧ (t.tile k).store = Store.reset
  cores : ∀ k st, (t.tile k).core st = Core.reset
  disp : t.disp = Disp.reset
  gang : t.gang = Gang.reset
  time : t.time.state = 0 ∧ t.time.unc = 0xFFFFFFFF ∧ t.time.tmctl = 0 ∧ t.time.everLocked = false
  modnum : t.fab.modnum = 0 ∧ t.fab.modset = false ∧ t.fab.fabcfg = 0x1008
  down : t.fab.portup = 0
  replay : t.fab.replay = [] ∧ t.fab.reqs = [] ∧ t.fab.homeq = []
  keys : ∀ k, (smGet KeySlot.reset k t.sec.keys).keys = none
  bring : t.hk.bring = 1 ∧ t.hk.fw = none
  sent : t.fab.out = (s.fab.out.zipIdx.filter fun pi => !s.fab.stay.any fun e => e.1 == pi.2).map (·.1) ∧ t.host.out = s.host.out

/-- What a cold reset leaves beside (R456, R462): HBM lost, ENC and the alarm 0, counters 0, spare columns as the store has them (none). -/
structure AfterCold (s t : State) (last : BitVec 2) : Prop where
  base : AfterReset s t
  hbm : t.hbm = [] ∧ t.sectors = [] ∧ t.pages = [] ∧ t.sec.roots = [] ∧ t.sec.vouched = []
  sec : t.sec.enc = false ∧ t.sec.encOn = false ∧ t.sec.touched = false ∧ t.sec.tamper = false ∧ t.sec.glitch = false ∧ t.sec.tree = false
  ctrs : ∀ k, smGet 0 k t.ctrs.cnt = 0
  hk : t.hk.last = last ∧ t.hk.warms = 0 ∧ t.hk.retain = false

/-- What a warm reset leaves beside (R456, R462). -/
structure AfterWarm (s t : State) : Prop where
  base : AfterReset s t
  hbm : (s.hk.retain = true → t.hbm = s.hbm ∧ t.sectors = s.sectors ∧ t.pages = s.pages ∧ t.sec.roots = s.sec.roots) ∧
    (s.hk.retain = false → t.hbm = [] ∧ t.sectors = [] ∧ t.pages = [] ∧ t.sec.roots = []) ∧ t.sec.vouched = []
  sec : t.sec.enc = s.sec.enc ∧ t.sec.touched = s.sec.touched ∧ t.sec.tamper = s.sec.tamper ∧ t.sec.glitch = s.sec.glitch ∧ t.sec.tree = s.sec.tree
  ctrs : t.ctrs = s.ctrs
  columns : ∀ k, (t.tile k).columns = (s.tile k).columns ∧ (t.tile k).degraded = (s.tile k).degraded
  hk : t.hk.last = (if s.hk.retain then 2 else 1) ∧ t.hk.warms.toNat = min (s.hk.warms.toNat + 1) 0xFFFFFFFF ∧ t.hk.retain = s.hk.retain

/-- Only security state and what is sent to the host change. -/
def SecOnly (s t : State) : Prop := t = { s with sec := t.sec, host := { s.host with out := t.host.out, pend := t.host.pend } }

/-- A key slot. -/
def slotAt (s : State) (k : Nat) : KeySlot := smGet KeySlot.reset k s.sec.keys

/-- What the header of an image says (R460): its SVN, LEN, the digest of its code, ENTRY and SIG. -/
def ruleSvn (f : FwImage) : Nat := fieldAt f.header 2 2
/-- The LEN bytes of code. -/
def ruleCode (f : FwImage) : List Byte := f.code.take (fieldAt f.header 4 4)
/-- The digest in the header. -/
def ruleDigest (f : FwImage) : Nat := fieldAt f.header 8 32
/-- The address of the first instruction. -/
def ruleEntry (f : FwImage) : Word64 := BitVec.ofNat 64 (fieldAt f.header 0x28 8)

/-- A verified image (R460): a header of 256 bytes, LEN bytes after it, SIG right over the digest of header bytes 0x00-0x7F, the digest that of the
code, the SVN not below the fused minimum; VERSION 1 by log entry 44. -/
def Verified (f : FwImage) : Prop :=
  f.header.length = 256 ∧ fieldAt f.header 0 2 = 1 ∧ fieldAt f.header 4 4 ≤ f.code.length ∧
  Config.sm2Verify (Config.sm3 (f.header.take 128)) (BitVec.ofNat 512 (fieldAt f.header 0x80 64)) = true ∧
  (Config.sm3 (ruleCode f)).toNat = ruleDigest f ∧ Config.minSvn.toNat ≤ ruleSvn f

/-- The bytes an address of the host's HDM names: an enabled decoder's range, not carved out, within one sector, that no combine pass holds (R307,
R349, R415). -/
def HostNames (s : State) (hpa n idx : Nat) (p : Page) : Prop :=
  6 ≤ s.hk.bring ∧ (s.sec.enc = true → s.sec.encOn = true) ∧ 0 < n ∧ hpa / 64 = (hpa + n - 1) / 64 ∧
  (∃ h b, hdmTarget s hpa = some (h, b) ∧ idx = hbmIndex b h ∧ p = hdmPage h b) ∧ ∀ l ∈ s.fab.locks, idx / 64 ∉ l.sectors

/-- And die 0, where the host's port is, has a live Rafter path to their die (R398). -/
def HostReaches (s : State) (hpa n idx : Nat) (p : Page) : Prop := HostNames s hpa n idx p ∧ rafterOk s 0 (dieOfIdx idx) = true

/-- A sector that an ordinary read answers: written under the ordinary scheme, one symbol in error at most (R284). -/
def HostReadable (e : Sector) : Prop := e.scheme = 0 ∧ e.err ≤ 1

/-- The counters after a read of it: one more correction of its stack where it has an error (R284, R468). -/
def hostCounted (s : State) (idx : Nat) (e : Sector) : Counters := (countFix s idx (if e.err = 0 then 0 else 1)).ctrs

end Sys2Proof.Machine

/-- R456-R458, R462, R467: POWER_ON, COLD_RESET, a cold BOARD_RESET and THERMAL_TRIP at 115 °C are cold resets; WARM_RESET and a warm BOARD_RESET keep HBM with RETAIN set,
ENC, the alarm, the counters, the spare columns and the degraded marks (R230), and count in WARMS. Model choices: the values registers,
scratchpads and mask entries have where the rules give none (log entries 6, 7 and 9) and the outboxes that are kept (log entry 43). -/
def Obligations.ResetKeepsAndClears : Prop :=
  ∀ s : State,
    (∃ t, exec .powerOn s = .next t ∧ AfterCold s t 0) ∧ (∃ t, exec .coldReset s = .next t ∧ AfterCold s t 0) ∧
    (∃ t, exec (.boardReset false) s = .next t ∧ AfterCold s t 0) ∧
    (115 ≤ s.sec.temp.toNat → ∃ t, exec .thermalTrip s = .next t ∧ AfterCold s t 3) ∧ (s.sec.temp.toNat < 115 → exec .thermalTrip s = .next s) ∧
    (∃ t, exec .warmReset s = .next t ∧ AfterWarm s t) ∧ (∃ t, exec (.boardReset true) s = .next t ∧ AfterWarm s t)

/-- R459-R463, R467: FIRMWARE_SUPPLY in step 1: a verified image is mapped and every service context starts at its ENTRY in share mode; another one is refused, with
STATE RECOVERY and a request for a new image. BRING_UP_STEP_COMPLETE ends step 3, 4 or 5. ENC_INIT sets ENC, and ENC_INIT_DONE ENCON.
THROTTLE_TICK moves STEP by one each millisecond, up while the module is above its cap or at 105 °C. -/
def Obligations.BringUpAndThrottle : Prop :=
  (∀ (f : FwImage) (s : State), s.hk.bring = 1 → ∃ t, exec (.firmwareSupply f) s = .next t ∧
    (Verified f → t.hk.fw = some { f with code := ruleCode f } ∧ t.hk.bring = 3 ∧ t.hk.recovery = false ∧ t.hbm = s.hbm ∧
      ∀ k st, ((t.tile k).core st).v.mode = .share ∧ ((t.tile k).core st).v.vec = ruleEntry f ∧ ((t.tile k).core st).v.share = 0 ∧
        ((t.tile k).core st).v.regs.pc = ruleEntry f ∧ (∀ g, ((t.tile k).core st).v.regs.readG g = 0) ∧
        ((t.tile k).core st).u = ((s.tile k).core st).u) ∧
    (¬Verified f → t.hk.bring = 1 ∧ t.hk.recovery = true ∧ t.hk.fw = s.hk.fw ∧ t.tiles = s.tiles ∧
      t.host.out = s.host.out ++ [HostMsg.imageRequest])) ∧
  (∀ s : State, s.hk.bring = 3 ∨ s.hk.bring = 4 ∨ s.hk.bring = 5 →
    ∃ t, exec .bringUpStepComplete s = .next t ∧ t.hk.bring = s.hk.bring + 1 ∧ t.tiles = s.tiles ∧ t.hbm = s.hbm ∧ t.fab = s.fab ∧
      (s.hk.bring = 4 → t.sec.encOn = s.sec.enc)) ∧
  (∀ s : State,
    (s.sec.touched = true → exec .encInit s = .next s) ∧
    (s.sec.touched = false → ∃ t, exec .encInit s = .next t ∧ t.sec = { s.sec with enc := true, encOn := false, roots := [], vouched := [] } ∧ t.pages = [] ∧ t.hbm = s.hbm ∧
      t.tiles = s.tiles) ∧
    (s.sec.enc = true → 5 ≤ s.hk.bring → exec .encInitDone s = .next { s with sec := { s.sec with encOn := true } })) ∧
  (∀ (power temp : BitVec 16) (s : State), 1000000 * 6486480 ≤ s.time.clk - s.sec.stepAt →
    let above := s.sec.cap.toNat < power.toNat ∨ 105 ≤ temp.toNat
    ∃ t, exec (.throttleTick power temp) s = .next t ∧ t = { s with sec := t.sec } ∧ t.sec.power = power ∧ t.sec.temp = temp ∧
      (above → t.sec.step.toNat = min (s.sec.step.toNat + 1) 8) ∧ (¬above → t.sec.step.toNat = s.sec.step.toNat - 1))

/-- R463-R466: KEY_LOAD and KEY_CLEAR of a slot begin, or set ERR under ALARM or with ENC 0 and leave the slot; KEY_DONE empties a cleared slot, fills a loaded one with what
its record decrypts to, or sets ERR. SECURITY_ALARM latches its cause and, the first time, erases every slot and signals vector 1,216.
ATTEST_REQUEST starts an attestation unless one is BUSY; ATTEST_DONE writes the signed buffer around the nonce. Model choices (log
entry 44): a command written while a slot is BUSY replaces the one before, a new request clears DONE, and a refused clear sets ERR. -/
def Obligations.KeysAlarmAndAttestation : Prop :=
  (∀ (k : Fin 64) (off : BitVec 64) (s : State), k.val ≠ 0 →
    let alarm := s.sec.tamper || s.sec.glitch || s.sec.tree
    (alarm = true ∨ s.sec.enc = false →
      (∃ t, exec (.keyLoad k off) s = .next t ∧ SecOnly s t ∧ slotAt t k.val = { slotAt s k.val with err := true } ∧
        ∀ n, n ≠ k.val → slotAt t n = slotAt s n) ∧
      (∃ t, exec (.keyClear k) s = .next t ∧ SecOnly s t ∧ slotAt t k.val = { slotAt s k.val with err := true })) ∧
    (alarm = false → s.sec.enc = true →
      (∃ t, exec (.keyLoad k off) s = .next t ∧ SecOnly s t ∧ (slotAt t k.val).busy = true ∧ (slotAt t k.val).keys = (slotAt s k.val).keys ∧
        (slotAt t k.val).next = some (off &&& ~~~63) ∧ ∀ n, n ≠ k.val → slotAt t n = slotAt s n) ∧
      (∃ t, exec (.keyClear k) s = .next t ∧ SecOnly s t ∧ (slotAt t k.val).busy = true ∧ (slotAt t k.val).next = some 0))) ∧
  (∀ (k : Fin 64) (s : State) (off : Word64), (slotAt s k.val).next = some off → (s.sec.tamper || s.sec.glitch || s.sec.tree) = false →
    (off = 0 → ∃ t, exec (.keyDone k) s = .next t ∧ SecOnly s t ∧ (slotAt t k.val).keys = none ∧ (slotAt t k.val).busy = false ∧
      ∀ n, n ≠ k.val → slotAt t n = slotAt s n) ∧
    (∀ (bs : List Byte) (s1 : State), off ≠ 0 → ownRead s off.toNat 128 = .ok bs s1 →
      (∀ ks, Config.sm2Unwrap bs = some ks → ∃ t, exec (.keyDone k) s = .next t ∧ (slotAt t k.val).keys = some ks ∧
        (slotAt t k.val).err = false ∧ (slotAt t k.val).busy = false ∧ t.hbm = s1.hbm ∧ t.tiles = s1.tiles) ∧
      (Config.sm2Unwrap bs = none → ∃ t, exec (.keyDone k) s = .next t ∧ slotAt t k.val =
        { slotAt s1 k.val with busy := false, err := true, next := none } ∧ t.hbm = s1.hbm ∧ t.tiles = s1.tiles))) ∧
  (∀ (c : AlarmCause) (s : State),
    let was := s.sec.tamper || s.sec.glitch || s.sec.tree
    ∃ t, exec (.securityAlarm c) s = .next t ∧ SecOnly s t ∧ t.sec.tamper = (s.sec.tamper || c == .tamper) ∧
      t.sec.glitch = (s.sec.glitch || c == .glitch) ∧ t.sec.tree = (s.sec.tree || c == .tree) ∧ t.sec.enc = s.sec.enc ∧
      (was = false → (∀ kv ∈ t.sec.keys, kv.2.keys = none) ∧ t.host.out = s.host.out ++ [HostMsg.msix 1216]) ∧
      (was = true → t.sec.keys = s.sec.keys ∧ t.host.out = s.host.out)) ∧
  (∀ (off : BitVec 64) (s : State),
    (s.sec.attBusy = true → exec (.attestRequest off) s = .next s) ∧
    (s.sec.attBusy = false → exec (.attestRequest off) s =
      .next { s with sec := { s.sec with attBusy := true, attDone := false, attOff := off &&& ~~~63 } })) ∧
  (∀ (s s1 s2 : State) (bs : List Byte) (u : Unit), s.sec.attBusy = true → ownRead s s.sec.attOff.toNat 256 = .ok bs s1 →
    let f := s1.hk.fw
    let alarm := s1.sec.tamper || s1.sec.glitch || s1.sec.tree
    let body := leBytes 2 1 ++ leBytes 2 s1.fab.modnum.toNat ++ leBytes 2 ((f.map ruleSvn).getD 0) ++
      leBytes 2 ((if s1.sec.enc && s1.sec.encOn then 1 else 0) + (if alarm then 2 else 0)) ++ leBytes 8 s1.ns ++ zeros 16 ++
      (bs.drop 0x20).take 32 ++ leBytes 32 ((f.map ruleDigest).getD 0) ++
      leBytes 8 (((List.range 64).map fun k => if (slotAt s1 k).keys.isSome then 2 ^ k else 0).foldl (· + ·) 0) ++ zeros 88
    homeWriteN s1 (hdmPage s.sec.attOff.toNat false) (body ++ leBytes 64 (Config.sm2Sign (Config.sm3 body)).toNat)
      (homeParts s.sec.attOff.toNat 256) = .ok u s2 →
    exec .attestDone s = .next { s2 with sec := { s2.sec with attBusy := false, attDone := true } })

/-- R307, R415-R417: HOST_MEM_READ of bytes within a sector of HDM memory answers them, and the sector is tracked from then on; poisoned when the sector cannot be read.
HOST_MEM_WRITE writes them, or less than a sector of a bad one is dropped; a correctable error is corrected and counted by both, but not by a write of
the whole sector. Addresses that no decoder maps or encryption carves out, and bytes that no live Rafter path reaches, are Unsupported Requests (log entry 20). BACK_INVALIDATE_RSP ends
the tracking of a snooped sector. HOST_WINDOW_RSP gives the core that waits for a host-window access its answer. -/
def Obligations.HostAccesses : Prop :=
  (∀ (hpa : BitVec 64) (n tag idx : Nat) (p : Page) (s : State), HostReaches s hpa.toNat n idx p →
    let e := smGet Sector.fresh (idx / 64) s.sectors
    (HostReadable e →
      ∃ t, exec (.hostMemRead hpa n tag) s = .next t ∧ t.hbm = s.hbm ∧ t.tiles = s.tiles ∧ t.sec = { s.sec with touched := true } ∧
        t.host.out = s.host.out ++ [HostMsg.readRsp tag (memRead s.hbm idx n) false] ∧ t.sectors = s.sectors ∧ t.ctrs = hostCounted s idx e ∧
        ∀ x, x ∈ t.host.tracked ↔ x = idx / 64 ∨ x ∈ s.host.tracked) ∧
    (¬HostReadable e →
      ∃ t b, exec (.hostMemRead hpa n tag) s = .next t ∧ t.hbm = s.hbm ∧ t.tiles = s.tiles ∧
        t.host.out = s.host.out ++ [HostMsg.readRsp tag b true] ∧ b.length = n)) ∧
  (∀ (hpa : BitVec 64) (d : List Byte) (idx : Nat) (p : Page) (s : State), HostReaches s hpa.toNat d.length idx p →
    let e := smGet Sector.fresh (idx / 64) s.sectors
    (d.length = 64 ∨ HostReadable e →
      ∃ t, exec (.hostMemWrite hpa d) s = .next t ∧ t.tiles = s.tiles ∧ (∀ i, i < d.length → memGet t.hbm (idx + i) = d.getD i 0) ∧
        (∀ a, ¬(idx ≤ a ∧ a < idx + d.length) → memGet t.hbm a = memGet s.hbm a) ∧
        (smGet Sector.fresh (idx / 64) t.sectors).scheme = 0 ∧ (smGet Sector.fresh (idx / 64) t.sectors).err = 0 ∧
        t.ctrs = (if d.length = 64 then s.ctrs else hostCounted s idx e)) ∧
    (d.length ≠ 64 → ¬HostReadable e →
      ∃ t, exec (.hostMemWrite hpa d) s = .next t ∧ t.tiles = s.tiles ∧ t.hbm = s.hbm ∧ t.host.out = s.host.out ++ [HostMsg.msix 1216])) ∧
  (∀ (hpa : BitVec 64) (n tag : Nat) (d : List Byte) (s : State), 6 ≤ s.hk.bring → (s.sec.enc = true → s.sec.encOn = true) → hdmTarget s hpa.toNat = none →
    (0 < n → hpa.toNat / 64 = (hpa.toNat + n - 1) / 64 → exec (.hostMemRead hpa n tag) s = .next (s.sendHost (.unsupported tag))) ∧
    (0 < d.length → hpa.toNat / 64 = (hpa.toNat + d.length - 1) / 64 → exec (.hostMemWrite hpa d) s = .next (s.sendHost (.unsupported hpa.toNat)))) ∧
  (∀ (hpa : BitVec 64) (n tag idx : Nat) (p : Page) (d : List Byte) (s : State), rafterOk s 0 (dieOfIdx idx) = false →
    (HostNames s hpa.toNat n idx p → exec (.hostMemRead hpa n tag) s = .next (s.sendHost (.unsupported tag))) ∧
    (HostNames s hpa.toNat d.length idx p → exec (.hostMemWrite hpa d) s = .next (s.sendHost (.unsupported hpa.toNat)))) ∧
  (∀ (sector : Nat) (s : State),
    (sector ∈ s.host.snooping → ∃ t, exec (.backInvalidateRsp sector) s = .next t ∧
      t = { s with host := { s.host with tracked := t.host.tracked, snooping := t.host.snooping } } ∧
      (∀ x, x ∈ t.host.tracked ↔ x ∈ s.host.tracked ∧ x ≠ sector) ∧ ∀ x, x ∈ t.host.snooping ↔ x ∈ s.host.snooping ∧ x ≠ sector) ∧
    (sector ∉ s.host.snooping → exec (.backInvalidateRsp sector) s = .next s)) ∧
  (∀ (tag ctag : Nat) (data : List Byte) (s : State) (w : WinReq) (k : TileId) (st : Stream) (rm : Remote),
    s.host.win.find? (fun w => w.tag == tag) = some w → w.owner = .scalar k.val st ctag → ((s.tile k).core st).remote = some rm → rm.tag = ctag →
    ∃ t, exec (.hostWindowRsp tag data) s = .next t ∧ CoreAnswered s t k st rm (.data (if w.write then [] else data)) ∧
      ∀ x, x ∈ t.host.win ↔ x ∈ s.host.win ∧ x.tag ≠ tag)

/-! ### Steps, encodings, reset, invariants -/

namespace Sys2Proof.Machine

/-- The canonical form of every byte memory: addresses strictly rising, no byte equal to what an unlisted address reads as (Machine/Map.lean). -/
structure Canonical (s : State) : Prop where
  hbm : Mem.wf s.hbm = true
  spad : ∀ k, Mem.wf (s.tile k).store.spad = true
  fw : Mem.wf s.hk.fwMem = true

end Sys2Proof.Machine

/-- R21, R34, R35, R160: a core's turn runs the instruction its context fetched and decoded: exec of it in the state the fetch left, for that context, and then
what the turn ends with (R364). The word is the one the context has fetched already (R19), or comes from the cache when the cache holds the
context's PC (R18). A word that does not decode traps, and a context that may not issue does nothing. Where a service context in share mode may
take the slot of its user context, the turn is its own. An event on the agenda runs its exec, after its packet is counted at its port; a tick
is one clock of every tile. Model choices: the agenda and the order of the turns (log entry 2), when a service context in share mode takes
the slot (log entry 8), and one tick for all tiles (log entry 52). -/
def Obligations.StepRunsDecodedInstruction : Prop :=
  (∀ (s : State) (k : TileId) (st : Stream) (c : CtxKind) (rest : List Turn), s.agenda = .core k st c :: rest →
    let s0 := { s with agenda := rest }
    let s1 := { s with agenda := rest, cur := ⟨k, st, c, 0⟩ }
    let core := (s.tile k).core st
    (c = .user → mayTrapToo (s.tile k) core = false) →
    (c = .user → serviceTakes s0 k st = true → step s = step { s with agenda := .core k st .service :: rest }) ∧
    ((c = .user → serviceTakes s0 k st = false) →
      (mayIssue s0 k st c = true →
        (∀ (w : Word128) (i : Instr) (u : State),
          (c = .service ∧ core.cached c (core.regs c).pc = some w ∨
            c = .user ∧ ∃ e, core.word = some e ∧ e.addr = (core.regs c).pc ∧ e.word = w) →
          decode w = .ok i → exec i s1 = .next u → step s = .next (afterTurn u k st)) ∧
        (∀ (w : Word128) (i : Instr) (u s2 : State), fetch s1 k st c = .word w s2 → decode w = .ok i → exec i s2 = .next u →
          step s = .next (afterTurn u k st)) ∧
        (∀ (w : Word128) (s2 : State), fetch s1 k st c = .word w s2 → (∀ i, decode w ≠ .ok i) →
          step s = .next (afterTurn (takeTrap s2 (badWordTrap st c w)) k st))) ∧
      (mayIssue s0 k st c = false → step s = .next (afterTurn s0 k st)))) ∧
  (∀ (s : State) (i : Instr) (rest : List Turn), s.agenda = .event i :: rest → opOf i = none →
    ∃ s0, step s = exec i s0 ∧ s0 = { s with agenda := rest, fab := { s.fab with lend := s0.fab.lend }, freeIdx := s0.freeIdx }) ∧
  (∀ (s : State) (rest : List Turn), s.agenda = .tick :: rest →
    ∃ t, step s = .next t ∧ (∀ k, (t.tile k).cycle = (s.tile k).cycle + 1) ∧ s.time.clk < t.time.clk ∧ s.time.now ≤ t.time.now ∧
      t.hbm = s.hbm ∧ ∀ k st, ((t.tile k).core st).u = ((s.tile k).core st).u)

/-- The model's own promise (log entry 1): every instruction and every event has a next state in every state; none is refused, none ends in a fault. -/
def Obligations.EveryInstructionAnswers : Prop := ∀ (i : Instr) (s : State), ∃ t, exec i s = .next t

/-- R36-R49: the words that the spec's worked encodings give decode to their instructions: ADD of R36-R44, LOOP and ATOM of chapter 04, VFMA and
VMPUSH of chapter 08, MCFG and MGO of chapter 09, ENQ.seal and FEEDPOP of chapter 10; and a word with an OP of no instruction is unassigned. -/
def Obligations.WorkedEncodingsDecode : Prop :=
  decode 0x0103462401C304200000000000000000 =
    .ok (.add ⟨.d, 3, .g 1, .reg (.g 2)⟩ ⟨some ⟨.first, 1⟩, some ⟨.second, 2, false, .reg 7⟩⟩) ∧
  decode 0x20000000000000002000000300000008 = .ok (.loop 0 3 (.lit 8) {}) ∧
  decode 0x2CB30000000C08002000001B00000000 = .ok (.atom .arrive true .ar .sys 12 ⟨.g 2, .lit 0⟩ (.g 0) {}) ∧
  decode 0xA30D0000000800420800000000000000 = .ok (.vfma .rne ⟨.f32, .n4, 8, 0, .vec 4⟩ 8 {}) ∧
  decode 0xC0000000000010000000000100000000 = .ok (.vmpush .n2 4 {}) ∧
  decode 0xE0000000000B00002000000000010004 = .ok (.mcfg 11 (.lit 0x10004) {}) ∧
  decode 0xE1000000000000000000000000000000 = .ok (.mgo {}) ∧
  decode 0x65010000000050000000000200000000 = .ok (.enq true 2 (.reg (.g 20)) {}) ∧
  decode 0x48000000000010000000000900000000 = .ok (.feedpop false 9 (.g 4) {}) ∧
  decode 0x7F000000000000000000000000000000 = .unassigned

/-- R36-R49: no bit of an encoding is dropped: every well-formed instruction has a word, and that word decodes to it with every operand; and no other word does. -/
def Obligations.EncodeDecodeAgree : Prop :=
  (∀ i : Instr, (opOf i).isSome = true → i.wf = true → ∃ w, encode i = some w ∧ decode w = .ok i) ∧
  (∀ (w : Word128) (i : Instr), decode w = .ok i → encode i = some w ∧ i.wf = true)

/-- R419, R422, R456, R459, R462, R467: right after reset no tile holds a task or drains, every service context is in share mode, every port is down, module time is in FREERUN with its
uncertainty all ones, and the device registers read the reset values of their tables; memories are canonical. Model choices: module time starts at 0 (log entry 11), and the
canonical form of a memory (log entry 5). -/
def Obligations.ResetState : Prop :=
  (∀ k, (State.reset.tile k).task = none ∧ (State.reset.tile k).drain = Drain.none ∧
    ∀ st, ((State.reset.tile k).core st).v.mode = .share ∧ ((State.reset.tile k).core st).u.life = .absent) ∧
  devRead State.reset 0x00 = 0 ∧ devRead State.reset 0x08 = 0x1008 ∧ devRead State.reset 0x10 = 0 ∧ devRead State.reset 0x100 = 0 ∧
  devRead State.reset 0x108 = 0xFFFFFFFF00000000 ∧ devRead State.reset 0x400008 = 0 ∧ devRead State.reset 0x400010 = 0 ∧
  devRead State.reset 0x400028 = 0 ∧ devRead State.reset 0x400030 = 145 ∧
  (∀ q, q < 1024 → ∀ n, n < 4 → devRead State.reset (0x100000 + 32 * q + 8 * n) = 0) ∧
  (∀ j, j < 4096 → ∀ n, n < 8 → devRead State.reset (0x200000 + 64 * j + 8 * n) = 0) ∧
  (∀ f, f < 384 → devRead State.reset (0x300000 + 16 * f) = 0) ∧
  State.reset.ns = 0 ∧ Canonical State.reset

/-- Every step keeps the canonical form of the memories: HBM, every scratchpad and the firmware's own memory (R94, R275, R461: what a memory holds; log entries
5 and 6: the form). -/
def Obligations.StepKeepsCanonicalMemory : Prop := ∀ s t : State, Canonical s → step s = .next t → Canonical t

/-! ### Statements of several parts -/

/-- R73, R76, R78, R80-R85: CLZ POPC BFX BFI MOVI LEA write their value into g[D]; CMP and PLOG write one predicate; each with its frame. -/
def Obligations.ScalarUnaryAddressAndPredicateResult : Prop := ScalarUnaryAndAddressResult ∧ PredicateResult

/-- R16, R27-R29, R86-R88: BR CALL BRMZ go to a good target, trap on a bad one, and else go on; LOOP sets its loop; NOP, FENCE and XFENCE, as every
other accepted instruction, advance by the loop check. That lc0 is checked where lc1 loops back to the word after is the model's reading, log
entry 23. -/
def Obligations.ControlTransferAndLoop : Prop :=
  LoopCheckAfterAcceptance ∧ ControlTransferTarget ∧ BadTargetTraps ∧ LoopSetsItsRegisters

/-- R110-R114, R149, R153, R154: TKGET and TKLEVEL read the token queues; TKPUT and TKPRIME post to them, and what a post does to a queue. -/
def Obligations.TokenInstructions : Prop := TokenQueueReads ∧ TokenPosts ∧ PostedTokens

/-- R22-R26, R89, R92, R362: CTLRD and CTLWR over the control registers of the acting context, the service registers and the user windows.
Model choice: ctl.upc takes any value that is written, misaligned or not (log entry 28). -/
def Obligations.ControlRegistersReadAndWritten : Prop := ControlRegisterWrite ∧ ControlRegisterRead ∧ ServiceRegisterWrite

/-- R90, R91, R151, R152, R164, R360, R372: EXIT ends its stream, and the task with its last one; SVCALL enters the service context alone.
Model choice: PSTREAM of an ALONE record is 0xFF (log entry 30). -/
def Obligations.ExitAndSvcall : Prop := ExitEndsStream ∧ SvcallEntersAlone

/-- R33, R359-R364, R373: a trap of a user context starts the drain of its tile; one of a service context stops the tile. -/
def Obligations.TrapsStopTheTile : Prop := TrapStartsDrain ∧ ServiceTrapStopsTile

/-- R93, R94, R97, R115, R316, R469: LD and ST of the scratchpad: their effect where every check passes, and what the checks do where not. -/
def Obligations.ScratchpadAccess : Prop := ScratchpadLoadAndStore ∧ ScratchpadAccessChecks

/-- R95-R103, R106-R108, R284: LDG STG ATOM ACAS WAITF at a home of this module. -/
def Obligations.GlobalAccess : Prop := GlobalLoadAndStore ∧ AtomicAtHome ∧ WaitfTestsFlag

/-- R308, R310-R313, R322-R328, R331, R343, R368: the transfer instructions and CFENCE are accepted onto their channel, or stall before acceptance. -/
def Obligations.TransfersAccepted : Prop := LinearTransferAccepted ∧ RecordTransferAccepted ∧ CfenceAccepted

/-- R293, R294: TLOOK, TDEL and TINS over the tag table of the task. -/
def Obligations.TagTable : Prop := TagLookupAndDelete ∧ TagInsertReplacesWay

/-- R174, R182, R189, R190, R193, R198, R199, R204-R206, R211: the vector entries with a third source, and those that move, place or classify
elements. -/
def Obligations.VectorThreeSourceAndMove : Prop := VectorThreeSourceResult ∧ VectorMoveResult

/-- R123, R124, R169, R182, R200, R201, R203: VCVT VWIDEN VNARROW VBSCALE. -/
def Obligations.VectorConversionAndBlockScale : Prop := VectorConversionResult ∧ VectorBlockScaleResult

/-- R171-R174, R212, R213: VMPUSH VMINV VMPOP VMGET VMSET VMCNT, and MASK_STACK. Model choice: a pop leaves the bits of the
dropped entry (log entry 9). -/
def Obligations.MaskStack : Prop := MaskStackResult ∧ MaskStackTraps

/-- R217, R224, R225, R234-R240: MZERO MGET MPUT MSTAT MSYNC complete at once; MGO and MOUT are accepted, or stall. -/
def Obligations.MatrixInstructions : Prop := MatrixSynchronousResult ∧ MatrixOperationAccepted

/-- R376-R378: SAVEQ LOADQ INFLRD INFLWR STKSAVE STKLOAD NESTRD NESTWR: what they read and write, and where they may; IDLE stops its service context,
and a doorbell or the time limit wakes it. -/
def Obligations.FirmwareState : Prop :=
  FirmwareReadsState ∧ FirmwareWritesState ∧ FirmwareStateAccessChecks ∧ IdleStopsContext ∧ IdleWakes

/-- R216, R221, R222, R224, R235: NEST_START, NEST_STEP and MOUT_ROW. -/
def Obligations.MatrixSteps : Prop := NestStepCommits ∧ MoutRowWritten

/-- R244, R247, R251-R253, R257, R259: QNOTIFY, PACKET_TAKE and PACKET_START. Model choice: a packet's descriptor is read from memory each time (log
entry 60; R252 allows a cache). -/
def Obligations.PacketsTakenAndStarted : Prop := PacketsTaken ∧ PacketStarts

/-- R156, R158, R263, R319, R365-R368, R373, R382, R383: TOKEN_DEADLOCK, HANG and DRAIN_COMPLETE. Model
choice: a tile both trapped in service and cancelled completes TRAP, at DRAIN_COMPLETE (log entry 34). -/
def Obligations.DrainsStartAndComplete : Prop := DeadlockAndHangDrain ∧ DrainCompletes
end

