-- ==== Sys2Proof/Laws/Dispatch.lean ====
section
/-! SUPPORT. exec at each instruction: one direct call of its meaning. -/

namespace Sys2Proof.Machine

@[simp] theorem exec_nop (s : State) (sy : _) : exec (.nop sy) s = execNop sy s := rfl
@[simp] theorem exec_add (s : State) (o : _) (sy : _) : exec (.add o sy) s = execAdd o sy s := rfl
@[simp] theorem exec_sub (s : State) (o : _) (sy : _) : exec (.sub o sy) s = execSub o sy s := rfl
@[simp] theorem exec_mul (s : State) (o : _) (sy : _) : exec (.mul o sy) s = execMul o sy s := rfl
@[simp] theorem exec_mulh (s : State) (v : _) (o : _) (sy : _) : exec (.mulh v o sy) s = execMulh v o sy s := rfl
@[simp] theorem exec_div (s : State) (signed : _) (o : _) (sy : _) : exec (.div signed o sy) s = execDiv signed o sy s := rfl
@[simp] theorem exec_rem (s : State) (signed : _) (o : _) (sy : _) : exec (.rem signed o sy) s = execRem signed o sy s := rfl
@[simp] theorem exec_and (s : State) (o : _) (sy : _) : exec (.and o sy) s = execAnd o sy s := rfl
@[simp] theorem exec_or (s : State) (o : _) (sy : _) : exec (.or o sy) s = execOr o sy s := rfl
@[simp] theorem exec_xor (s : State) (o : _) (sy : _) : exec (.xor o sy) s = execXor o sy s := rfl
@[simp] theorem exec_andn (s : State) (o : _) (sy : _) : exec (.andn o sy) s = execAndn o sy s := rfl
@[simp] theorem exec_shl (s : State) (o : _) (sy : _) : exec (.shl o sy) s = execShl o sy s := rfl
@[simp] theorem exec_shr (s : State) (signed : _) (o : _) (sy : _) : exec (.shr signed o sy) s = execShr signed o sy s := rfl
@[simp] theorem exec_rot (s : State) (o : _) (sy : _) : exec (.rot o sy) s = execRot o sy s := rfl
@[simp] theorem exec_min (s : State) (signed : _) (o : _) (sy : _) : exec (.min signed o sy) s = execMin signed o sy s := rfl
@[simp] theorem exec_max (s : State) (signed : _) (o : _) (sy : _) : exec (.max signed o sy) s = execMax signed o sy s := rfl
@[simp] theorem exec_clz (s : State) (w : _) (d : _) (a : _) (sy : _) : exec (.clz w d a sy) s = execClz w d a sy s := rfl
@[simp] theorem exec_popc (s : State) (w : _) (d : _) (a : _) (sy : _) : exec (.popc w d a sy) s = execPopc w d a sy s := rfl
@[simp] theorem exec_bfx (s : State) (signed : _) (w : _) (d : _) (a : _) (pos : _) (len : _) (sy : _) : exec (.bfx signed w d a pos len sy) s = execBfx signed w d a pos len sy s := rfl
@[simp] theorem exec_bfi (s : State) (w : _) (d : _) (a : _) (b : _) (pos : _) (len : _) (sy : _) : exec (.bfi w d a b pos len sy) s = execBfi w d a b pos len sy s := rfl
@[simp] theorem exec_movi (s : State) (v : _) (w : _) (d : _) (a : _) (imm : _) (sy : _) : exec (.movi v w d a imm sy) s = execMovi v w d a imm sy s := rfl
@[simp] theorem exec_sel (s : State) (p : _) (o : _) (sy : _) : exec (.sel p o sy) s = execSel p o sy s := rfl
@[simp] theorem exec_lea (s : State) (d : _) (f : _) (sy : _) : exec (.lea d f sy) s = execLea d f sy s := rfl
@[simp] theorem exec_cmp (s : State) (c : _) (w : _) (d : _) (a : _) (b : _) (sy : _) : exec (.cmp c w d a b sy) s = execCmp c w d a b sy s := rfl
@[simp] theorem exec_plog (s : State) (d : _) (a : _) (b : _) (c : _) (table : _) (sy : _) : exec (.plog d a b c table sy) s = execPlog d a b c table sy s := rfl
@[simp] theorem exec_madd (s : State) (o : _) (c : _) (sy : _) : exec (.madd o c sy) s = execMadd o c sy s := rfl
@[simp] theorem exec_ctlrd (s : State) (d : _) (num : _) (sy : _) : exec (.ctlrd d num sy) s = execCtlrd d num sy s := rfl
@[simp] theorem exec_ctlwr (s : State) (num : _) (b : _) (sy : _) : exec (.ctlwr num b sy) s = execCtlwr num b sy s := rfl
@[simp] theorem exec_br (s : State) (neg : _) (p : _) (imm : _) (sy : _) : exec (.br neg p imm sy) s = execBr neg p imm sy s := rfl
@[simp] theorem exec_jmp (s : State) (a : _) (imm : _) (sy : _) : exec (.jmp a imm sy) s = execJmp a imm sy s := rfl
@[simp] theorem exec_call (s : State) (d : _) (f : _) (sy : _) : exec (.call d f sy) s = execCall d f sy s := rfl
@[simp] theorem exec_ret (s : State) (a : _) (sy : _) : exec (.ret a sy) s = execRet a sy s := rfl
@[simp] theorem exec_loop (s : State) (lc : _) (x : _) (n : _) (sy : _) : exec (.loop lc x n sy) s = execLoop lc x n sy s := rfl
@[simp] theorem exec_exit (s : State) (v : _) (sy : _) : exec (.exit v sy) s = execExit v sy s := rfl
@[simp] theorem exec_svcall (s : State) (code : _) (sy : _) : exec (.svcall code sy) s = execSvcall code sy s := rfl
@[simp] theorem exec_waitf (s : State) (c : _) (idle : _) (dw : _) (acq : _) (sc : _) (d : _) (a : _) (b : _) (m : _) (sy : _) : exec (.waitf c idle dw acq sc d a b m sy) s = execWaitf c idle dw acq sc d a b m sy s := rfl
@[simp] theorem exec_tkget (s : State) (d : _) (sy : _) : exec (.tkget d sy) s = execTkget d sy s := rfl
@[simp] theorem exec_tkput (s : State) (q : _) (nb : _) (b : _) (sy : _) : exec (.tkput q nb b sy) s = execTkput q nb b sy s := rfl
@[simp] theorem exec_tkprime (s : State) (q : _) (nb : _) (ty : _) (v : _) (count : _) (sy : _) : exec (.tkprime q nb ty v count sy) s = execTkprime q nb ty v count sy s := rfl
@[simp] theorem exec_tklevel (s : State) (d : _) (out : _) (second : _) (sy : _) : exec (.tklevel d out second sy) s = execTklevel d out second sy s := rfl
@[simp] theorem exec_ld (s : State) (signed : _) (w : _) (d : _) (m : _) (sy : _) : exec (.ld signed w d m sy) s = execLd signed w d m sy s := rfl
@[simp] theorem exec_st (s : State) (w : _) (m : _) (c : _) (sy : _) : exec (.st w m c sy) s = execSt w m c sy s := rfl
@[simp] theorem exec_ldg (s : State) (signed : _) (w : _) (o : _) (sc : _) (d : _) (m : _) (sy : _) : exec (.ldg signed w o sc d m sy) s = execLdg signed w o sc d m sy s := rfl
@[simp] theorem exec_stg (s : State) (w : _) (o : _) (sc : _) (m : _) (c : _) (sy : _) : exec (.stg w o sc m c sy) s = execStg w o sc m c sy s := rfl
@[simp] theorem exec_atom (s : State) (op : _) (dw : _) (o : _) (sc : _) (d : _) (m : _) (c : _) (sy : _) : exec (.atom op dw o sc d m c sy) s = execAtom op dw o sc d m c sy s := rfl
@[simp] theorem exec_acas (s : State) (dw : _) (o : _) (sc : _) (d : _) (a : _) (b : _) (c : _) (imm : _) (sy : _) : exec (.acas dw o sc d a b c imm sy) s = execAcas dw o sc d a b c imm sy s := rfl
@[simp] theorem exec_fence (s : State) (o : _) (sc : _) (sy : _) : exec (.fence o sc sy) s = execFence o sc sy s := rfl
@[simp] theorem exec_xfence (s : State) (o : _) (sc : _) (core : _) (engine : _) (sy : _) : exec (.xfence o sc core engine sy) s = execXfence o sc core engine sy s := rfl
@[simp] theorem exec_dld (s : State) (x : _) (sy : _) : exec (.dld x sy) s = execDld x sy s := rfl
@[simp] theorem exec_dldx (s : State) (x : _) (sy : _) : exec (.dldx x sy) s = execDldx x sy s := rfl
@[simp] theorem exec_dcpy (s : State) (x : _) (sy : _) : exec (.dcpy x sy) s = execDcpy x sy s := rfl
@[simp] theorem exec_rget (s : State) (x : _) (sy : _) : exec (.rget x sy) s = execRget x sy s := rfl
@[simp] theorem exec_dpf (s : State) (ch : _) (base : _) (imm : _) (ver : _) (sy : _) : exec (.dpf ch base imm ver sy) s = execDpf ch base imm ver sy s := rfl
@[simp] theorem exec_tlook (s : State) (d : _) (p : _) (a : _) (sy : _) : exec (.tlook d p a sy) s = execTlook d p a sy s := rfl
@[simp] theorem exec_tins (s : State) (d : _) (a : _) (b : _) (c : _) (sy : _) : exec (.tins d a b c sy) s = execTins d a b c sy s := rfl
@[simp] theorem exec_tdel (s : State) (d : _) (p : _) (a : _) (sy : _) : exec (.tdel d p a sy) s = execTdel d p a sy s := rfl
@[simp] theorem exec_feedpop (s : State) (try_ : _) (d : _) (a : _) (sy : _) : exec (.feedpop try_ d a sy) s = execFeedpop try_ d a sy s := rfl
@[simp] theorem exec_feedpeek (s : State) (d : _) (a : _) (b : _) (sy : _) : exec (.feedpeek d a b sy) s = execFeedpeek d a b sy s := rfl
@[simp] theorem exec_chwm (s : State) (d : _) (ch : _) (sy : _) : exec (.chwm d ch sy) s = execChwm d ch sy s := rfl
@[simp] theorem exec_chwait (s : State) (ch : _) (f : _) (sy : _) : exec (.chwait ch f sy) s = execChwait ch f sy s := rfl
@[simp] theorem exec_cfence (s : State) (mask : _) (sy : _) : exec (.cfence mask sy) s = execCfence mask sy s := rfl
@[simp] theorem exec_chstat (s : State) (d : _) (ch : _) (sy : _) : exec (.chstat d ch sy) s = execChstat d ch sy s := rfl
@[simp] theorem exec_chcan (s : State) (d : _) (ch : _) (sy : _) : exec (.chcan d ch sy) s = execChcan d ch sy s := rfl
@[simp] theorem exec_dst (s : State) (x : _) (fl : _) (sy : _) : exec (.dst x fl sy) s = execDst x fl sy s := rfl
@[simp] theorem exec_dstx (s : State) (x : _) (fl : _) (sy : _) : exec (.dstx x fl sy) s = execDstx x fl sy s := rfl
@[simp] theorem exec_dred (s : State) (x : _) (fl : _) (sy : _) : exec (.dred x fl sy) s = execDred x fl sy s := rfl
@[simp] theorem exec_rput (s : State) (x : _) (fl : _) (sy : _) : exec (.rput x fl sy) s = execRput x fl sy s := rfl
@[simp] theorem exec_rflag (s : State) (ch : _) (add : _) (sc : _) (a : _) (b : _) (sy : _) : exec (.rflag ch add sc a b sy) s = execRflag ch add sc a b sy s := rfl
@[simp] theorem exec_enq (s : State) (reseal : _) (p : _) (q : _) (sy : _) : exec (.enq reseal p q sy) s = execEnq reseal p q sy s := rfl
@[simp] theorem exec_dstl (s : State) (x : _) (sy : _) : exec (.dstl x sy) s = execDstl x sy s := rfl
@[simp] theorem exec_dfill (s : State) (x : _) (sy : _) : exec (.dfill x sy) s = execDfill x sy s := rfl
@[simp] theorem exec_vld (s : State) (n : _) (d : _) (m : _) (sy : _) : exec (.vld n d m sy) s = execVld n d m sy s := rfl
@[simp] theorem exec_vst (s : State) (n : _) (m : _) (c : _) (sy : _) : exec (.vst n m c sy) s = execVst n m c sy s := rfl
@[simp] theorem exec_vldx (s : State) (t : _) (n : _) (d : _) (a : _) (b : _) (sh : _) (sy : _) : exec (.vldx t n d a b sh sy) s = execVldx t n d a b sh sy s := rfl
@[simp] theorem exec_vstx (s : State) (t : _) (n : _) (a : _) (b : _) (c : _) (sh : _) (sy : _) : exec (.vstx t n a b c sh sy) s = execVstx t n a b c sh sy s := rfl
@[simp] theorem exec_vsplat (s : State) (t : _) (n : _) (d : _) (b : _) (sy : _) : exec (.vsplat t n d b sy) s = execVsplat t n d b sy s := rfl
@[simp] theorem exec_vext (s : State) (t : _) (n : _) (d : _) (a : _) (b : _) (sy : _) : exec (.vext t n d a b sy) s = execVext t n d a b sy s := rfl
@[simp] theorem exec_vins (s : State) (t : _) (n : _) (d : _) (a : _) (b : _) (sy : _) : exec (.vins t n d a b sy) s = execVins t n d a b sy s := rfl
@[simp] theorem exec_vmov (s : State) (n : _) (d : _) (a : _) (sy : _) : exec (.vmov n d a sy) s = execVmov n d a sy s := rfl
@[simp] theorem exec_vadd (s : State) (o : _) (sy : _) : exec (.vadd o sy) s = execVadd o sy s := rfl
@[simp] theorem exec_vsub (s : State) (o : _) (sy : _) : exec (.vsub o sy) s = execVsub o sy s := rfl
@[simp] theorem exec_vmul (s : State) (o : _) (sy : _) : exec (.vmul o sy) s = execVmul o sy s := rfl
@[simp] theorem exec_vmulh (s : State) (o : _) (sy : _) : exec (.vmulh o sy) s = execVmulh o sy s := rfl
@[simp] theorem exec_vmadd (s : State) (o : _) (c : _) (sy : _) : exec (.vmadd o c sy) s = execVmadd o c sy s := rfl
@[simp] theorem exec_vadds (s : State) (o : _) (sy : _) : exec (.vadds o sy) s = execVadds o sy s := rfl
@[simp] theorem exec_vsubs (s : State) (o : _) (sy : _) : exec (.vsubs o sy) s = execVsubs o sy s := rfl
@[simp] theorem exec_vabsd (s : State) (o : _) (sy : _) : exec (.vabsd o sy) s = execVabsd o sy s := rfl
@[simp] theorem exec_vmin (s : State) (o : _) (sy : _) : exec (.vmin o sy) s = execVmin o sy s := rfl
@[simp] theorem exec_vmax (s : State) (o : _) (sy : _) : exec (.vmax o sy) s = execVmax o sy s := rfl
@[simp] theorem exec_vand (s : State) (o : _) (sy : _) : exec (.vand o sy) s = execVand o sy s := rfl
@[simp] theorem exec_vor (s : State) (o : _) (sy : _) : exec (.vor o sy) s = execVor o sy s := rfl
@[simp] theorem exec_vxor (s : State) (o : _) (sy : _) : exec (.vxor o sy) s = execVxor o sy s := rfl
@[simp] theorem exec_vshl (s : State) (o : _) (sy : _) : exec (.vshl o sy) s = execVshl o sy s := rfl
@[simp] theorem exec_vshr (s : State) (o : _) (sy : _) : exec (.vshr o sy) s = execVshr o sy s := rfl
@[simp] theorem exec_vclz (s : State) (o : _) (sy : _) : exec (.vclz o sy) s = execVclz o sy s := rfl
@[simp] theorem exec_vpopc (s : State) (o : _) (sy : _) : exec (.vpopc o sy) s = execVpopc o sy s := rfl
@[simp] theorem exec_vcmp (s : State) (c : _) (o : _) (sy : _) : exec (.vcmp c o sy) s = execVcmp c o sy s := rfl
@[simp] theorem exec_vsel (s : State) (o : _) (c : _) (sy : _) : exec (.vsel o c sy) s = execVsel o c sy s := rfl
@[simp] theorem exec_vdot4 (s : State) (sa : _) (sb : _) (sat : _) (n : _) (d : _) (a : _) (b : _) (sy : _) : exec (.vdot4 sa sb sat n d a b sy) s = execVdot4 sa sb sat n d a b sy s := rfl
@[simp] theorem exec_vdot8 (s : State) (sa : _) (sb : _) (sat : _) (n : _) (d : _) (a : _) (b : _) (sy : _) : exec (.vdot8 sa sb sat n d a b sy) s = execVdot8 sa sb sat n d a b sy s := rfl
@[simp] theorem exec_vidx (s : State) (t : _) (n : _) (d : _) (b : _) (sy : _) : exec (.vidx t n d b sy) s = execVidx t n d b sy s := rfl
@[simp] theorem exec_vfadd (s : State) (r : _) (o : _) (sy : _) : exec (.vfadd r o sy) s = execVfadd r o sy s := rfl
@[simp] theorem exec_vfsub (s : State) (r : _) (o : _) (sy : _) : exec (.vfsub r o sy) s = execVfsub r o sy s := rfl
@[simp] theorem exec_vfmul (s : State) (r : _) (o : _) (sy : _) : exec (.vfmul r o sy) s = execVfmul r o sy s := rfl
@[simp] theorem exec_vfma (s : State) (r : _) (o : _) (c : _) (sy : _) : exec (.vfma r o c sy) s = execVfma r o c sy s := rfl
@[simp] theorem exec_vfmin (s : State) (o : _) (sy : _) : exec (.vfmin o sy) s = execVfmin o sy s := rfl
@[simp] theorem exec_vfmax (s : State) (o : _) (sy : _) : exec (.vfmax o sy) s = execVfmax o sy s := rfl
@[simp] theorem exec_vfdiv (s : State) (r : _) (o : _) (sy : _) : exec (.vfdiv r o sy) s = execVfdiv r o sy s := rfl
@[simp] theorem exec_vfsqrt (s : State) (r : _) (o : _) (sy : _) : exec (.vfsqrt r o sy) s = execVfsqrt r o sy s := rfl
@[simp] theorem exec_vfrcp (s : State) (r : _) (o : _) (sy : _) : exec (.vfrcp r o sy) s = execVfrcp r o sy s := rfl
@[simp] theorem exec_vfrsq (s : State) (r : _) (o : _) (sy : _) : exec (.vfrsq r o sy) s = execVfrsq r o sy s := rfl
@[simp] theorem exec_vfexp2 (s : State) (r : _) (o : _) (sy : _) : exec (.vfexp2 r o sy) s = execVfexp2 r o sy s := rfl
@[simp] theorem exec_vflog2 (s : State) (r : _) (o : _) (sy : _) : exec (.vflog2 r o sy) s = execVflog2 r o sy s := rfl
@[simp] theorem exec_vftanh (s : State) (r : _) (o : _) (sy : _) : exec (.vftanh r o sy) s = execVftanh r o sy s := rfl
@[simp] theorem exec_vfcmp (s : State) (c : _) (o : _) (sy : _) : exec (.vfcmp c o sy) s = execVfcmp c o sy s := rfl
@[simp] theorem exec_vfclass (s : State) (o : _) (sy : _) : exec (.vfclass o sy) s = execVfclass o sy s := rfl
@[simp] theorem exec_vfabs (s : State) (neg : _) (o : _) (sy : _) : exec (.vfabs neg o sy) s = execVfabs neg o sy s := rfl
@[simp] theorem exec_vcvt (s : State) (sat : _) (dst : _) (src : _) (r : _) (n : _) (d : _) (a : _) (sy : _) : exec (.vcvt sat dst src r n d a sy) s = execVcvt sat dst src r n d a sy s := rfl
@[simp] theorem exec_vwiden (s : State) (dst : _) (src : _) (n : _) (d : _) (a : _) (sy : _) : exec (.vwiden dst src n d a sy) s = execVwiden dst src n d a sy s := rfl
@[simp] theorem exec_vnarrow (s : State) (sat : _) (dst : _) (src : _) (n : _) (d : _) (a : _) (sy : _) : exec (.vnarrow sat dst src n d a sy) s = execVnarrow sat dst src n d a sy s := rfl
@[simp] theorem exec_vscale (s : State) (r : _) (o : _) (sy : _) : exec (.vscale r o sy) s = execVscale r o sy s := rfl
@[simp] theorem exec_vbscale (s : State) (dq : _) (narrow : _) (wide : _) (r : _) (n : _) (d : _) (a : _) (s_ : _) (sy : _) : exec (.vbscale dq narrow wide r n d a s_ sy) s = execVbscale dq narrow wide r n d a s_ sy s := rfl
@[simp] theorem exec_vperm (s : State) (t : _) (n : _) (d : _) (a : _) (b : _) (sy : _) : exec (.vperm t n d a b sy) s = execVperm t n d a b sy s := rfl
@[simp] theorem exec_vslide (s : State) (up : _) (t : _) (n : _) (d : _) (a : _) (b : _) (sy : _) : exec (.vslide up t n d a b sy) s = execVslide up t n d a b sy s := rfl
@[simp] theorem exec_vzip (s : State) (t : _) (n : _) (d : _) (a : _) (b : _) (sy : _) : exec (.vzip t n d a b sy) s = execVzip t n d a b sy s := rfl
@[simp] theorem exec_vunzip (s : State) (t : _) (n : _) (d : _) (a : _) (sy : _) : exec (.vunzip t n d a sy) s = execVunzip t n d a sy s := rfl
@[simp] theorem exec_vred (s : State) (op : _) (wide : _) (acc : _) (r : _) (o : _) (sy : _) : exec (.vred op wide acc r o sy) s = execVred op wide acc r o sy s := rfl
@[simp] theorem exec_vscan (s : State) (op : _) (r : _) (o : _) (sy : _) : exec (.vscan op r o sy) s = execVscan op r o sy s := rfl
@[simp] theorem exec_vcompr (s : State) (o : _) (sy : _) : exec (.vcompr o sy) s = execVcompr o sy s := rfl
@[simp] theorem exec_vexpnd (s : State) (o : _) (sy : _) : exec (.vexpnd o sy) s = execVexpnd o sy s := rfl
@[simp] theorem exec_vmpush (s : State) (n : _) (a : _) (sy : _) : exec (.vmpush n a sy) s = execVmpush n a sy s := rfl
@[simp] theorem exec_vminv (s : State) (sy : _) : exec (.vminv sy) s = execVminv sy s := rfl
@[simp] theorem exec_vmpop (s : State) (sy : _) : exec (.vmpop sy) s = execVmpop sy s := rfl
@[simp] theorem exec_vmget (s : State) (f : _) (sy : _) : exec (.vmget f sy) s = execVmget f sy s := rfl
@[simp] theorem exec_vmset (s : State) (push : _) (a : _) (sy : _) : exec (.vmset push a sy) s = execVmset push a sy s := rfl
@[simp] theorem exec_brmz (s : State) (imm : _) (sy : _) : exec (.brmz imm sy) s = execBrmz imm sy s := rfl
@[simp] theorem exec_vmcnt (s : State) (d : _) (n : _) (sy : _) : exec (.vmcnt d n sy) s = execVmcnt d n sy s := rfl
@[simp] theorem exec_mcfg (s : State) (reg : _) (v : _) (sy : _) : exec (.mcfg reg v sy) s = execMcfg reg v sy s := rfl
@[simp] theorem exec_mgo (s : State) (sy : _) : exec (.mgo sy) s = execMgo sy s := rfl
@[simp] theorem exec_mzero (s : State) (mask : _) (sy : _) : exec (.mzero mask sy) s = execMzero mask sy s := rfl
@[simp] theorem exec_mout (s : State) (dst : _) (r : _) (sat : _) (d : _) (a : _) (b : _) (imm : _) (sy : _) : exec (.mout dst r sat d a b imm sy) s = execMout dst r sat d a b imm sy s := rfl
@[simp] theorem exec_mget (s : State) (n : _) (d : _) (a : _) (e : _) (sy : _) : exec (.mget n d a e sy) s = execMget n d a e sy s := rfl
@[simp] theorem exec_mput (s : State) (f32 : _) (add : _) (n : _) (d : _) (a : _) (e : _) (sy : _) : exec (.mput f32 add n d a e sy) s = execMput f32 add n d a e sy s := rfl
@[simp] theorem exec_mstat (s : State) (d : _) (residue : _) (sy : _) : exec (.mstat d residue sy) s = execMstat d residue sy s := rfl
@[simp] theorem exec_msync (s : State) (sy : _) : exec (.msync sy) s = execMsync sy s := rfl
@[simp] theorem exec_svret (s : State) (v : _) (sy : _) : exec (.svret v sy) s = execSvret v sy s := rfl
@[simp] theorem exec_saveq (s : State) (d : _) (a : _) (imm : _) (sy : _) : exec (.saveq d a imm sy) s = execSaveq d a imm sy s := rfl
@[simp] theorem exec_loadq (s : State) (a : _) (imm : _) (c : _) (sy : _) : exec (.loadq a imm c sy) s = execLoadq a imm c sy s := rfl
@[simp] theorem exec_inflrd (s : State) (d : _) (a : _) (imm : _) (sy : _) : exec (.inflrd d a imm sy) s = execInflrd d a imm sy s := rfl
@[simp] theorem exec_inflwr (s : State) (a : _) (imm : _) (c : _) (sy : _) : exec (.inflwr a imm c sy) s = execInflwr a imm c sy s := rfl
@[simp] theorem exec_idle (s : State) (d : _) (a : _) (sy : _) : exec (.idle d a sy) s = execIdle d a sy s := rfl
@[simp] theorem exec_stksave (s : State) (d : _) (a : _) (imm : _) (sy : _) : exec (.stksave d a imm sy) s = execStksave d a imm sy s := rfl
@[simp] theorem exec_stkload (s : State) (a : _) (imm : _) (c : _) (sy : _) : exec (.stkload a imm c sy) s = execStkload a imm c sy s := rfl
@[simp] theorem exec_nestrd (s : State) (d : _) (a : _) (imm : _) (sy : _) : exec (.nestrd d a imm sy) s = execNestrd d a imm sy s := rfl
@[simp] theorem exec_nestwr (s : State) (a : _) (imm : _) (c : _) (sy : _) : exec (.nestwr a imm c sy) s = execNestwr a imm c sy s := rfl
@[simp] theorem exec_taskPlace (s : State) (die : _) : exec (.taskPlace die) s = execTaskPlace die s := rfl
@[simp] theorem exec_taskStart (s : State) (t : _) : exec (.taskStart t) s = execTaskStart t s := rfl
@[simp] theorem exec_tokenDeadlock (s : State) (t : _) : exec (.tokenDeadlock t) s = execTokenDeadlock t s := rfl
@[simp] theorem exec_hang (s : State) (t : _) : exec (.hang t) s = execHang t s := rfl
@[simp] theorem exec_drainComplete (s : State) (t : _) : exec (.drainComplete t) s = execDrainComplete t s := rfl
@[simp] theorem exec_nestStart (s : State) (t : _) : exec (.nestStart t) s = execNestStart t s := rfl
@[simp] theorem exec_nestStep (s : State) (t : _) (residue : _) : exec (.nestStep t residue) s = execNestStep t residue s := rfl
@[simp] theorem exec_moutRow (s : State) (t : _) : exec (.moutRow t) s = execMoutRow t s := rfl
@[simp] theorem exec_transferStart (s : State) (t : _) (st : _) (ch : _) : exec (.transferStart t st ch) s = execTransferStart t st ch s := rfl
@[simp] theorem exec_pieceComplete (s : State) (t : _) (st : _) (ch : _) (piece : _) : exec (.pieceComplete t st ch piece) s = execPieceComplete t st ch piece s := rfl
@[simp] theorem exec_transferFlag (s : State) (t : _) (st : _) (ch : _) : exec (.transferFlag t st ch) s = execTransferFlag t st ch s := rfl
@[simp] theorem exec_cfenceRetire (s : State) (t : _) (ord : _) : exec (.cfenceRetire t ord) s = execCfenceRetire t ord s := rfl
@[simp] theorem exec_mdaWindow (s : State) (t : _) (st : _) (ch : _) (window : _) : exec (.mdaWindow t st ch window) s = execMdaWindow t st ch window s := rfl
@[simp] theorem exec_homeAccess (s : State) (idx : _) : exec (.homeAccess idx) s = execHomeAccess idx s := rfl
@[simp] theorem exec_qnotify (s : State) (q : _) : exec (.qnotify q) s = execQnotify q s := rfl
@[simp] theorem exec_packetTake (s : State) (q : _) : exec (.packetTake q) s = execPacketTake q s := rfl
@[simp] theorem exec_packetStart (s : State) (id : _) : exec (.packetStart id) s = execPacketStart id s := rfl
@[simp] theorem exec_packetComplete (s : State) (id : _) : exec (.packetComplete id) s = execPacketComplete id s := rfl
@[simp] theorem exec_feedPush (s : State) (id : _) : exec (.feedPush id) s = execFeedPush id s := rfl
@[simp] theorem exec_phaseComplete (s : State) (id : _) : exec (.phaseComplete id) s = execPhaseComplete id s := rfl
@[simp] theorem exec_queueEnable (s : State) (q : _) (v : _) : exec (.queueEnable q v) s = execQueueEnable q v s := rfl
@[simp] theorem exec_queueDisable (s : State) (q : _) : exec (.queueDisable q) s = execQueueDisable q s := rfl
@[simp] theorem exec_jobPreempt (s : State) (j : _) : exec (.jobPreempt j) s = execJobPreempt j s := rfl
@[simp] theorem exec_jobResume (s : State) (j : _) : exec (.jobResume j) s = execJobResume j s := rfl
@[simp] theorem exec_savedTaskPlace (s : State) (t : _) : exec (.savedTaskPlace t) s = execSavedTaskPlace t s := rfl
@[simp] theorem exec_jxinv (s : State) (j : _) : exec (.jxinv j) s = execJxinv j s := rfl
@[simp] theorem exec_jxinvDone (s : State) (j : _) : exec (.jxinvDone j) s = execJxinvDone j s := rfl
@[simp] theorem exec_serviceDoorbell (s : State) (t : _) : exec (.serviceDoorbell t) s = execServiceDoorbell t s := rfl
@[simp] theorem exec_idleTimeWake (s : State) (t : _) (st : _) : exec (.idleTimeWake t st) s = execIdleTimeWake t st s := rfl
@[simp] theorem exec_registerWrite (s : State) (off : _) (four : _) (v : _) : exec (.registerWrite off four v) s = execRegisterWrite off four v s := rfl
@[simp] theorem exec_tmctlWrite (s : State) (v : _) : exec (.tmctlWrite v) s = execTmctlWrite v s := rfl
@[simp] theorem exec_purlinRead (s : State) (p : _) : exec (.purlinRead p) s = execPurlinRead p s := rfl
@[simp] theorem exec_purlinWrite (s : State) (p : _) : exec (.purlinWrite p) s = execPurlinWrite p s := rfl
@[simp] theorem exec_purlinAtomic (s : State) (p : _) : exec (.purlinAtomic p) s = execPurlinAtomic p s := rfl
@[simp] theorem exec_purlinCombine (s : State) (p : _) : exec (.purlinCombine p) s = execPurlinCombine p s := rfl
@[simp] theorem exec_purlinMaquette (s : State) (p : _) : exec (.purlinMaquette p) s = execPurlinMaquette p s := rfl
@[simp] theorem exec_readRsp (s : State) (p : _) : exec (.readRsp p) s = execReadRsp p s := rfl
@[simp] theorem exec_ack (s : State) (p : _) : exec (.ack p) s = execAck p s := rfl
@[simp] theorem exec_atomicRsp (s : State) (p : _) : exec (.atomicRsp p) s = execAtomicRsp p s := rfl
@[simp] theorem exec_nack (s : State) (p : _) : exec (.nack p) s = execNack p s := rfl
@[simp] theorem exec_retransmit (s : State) (k : _) (seq : _) : exec (.retransmit k seq) s = execRetransmit k seq s := rfl
@[simp] theorem exec_fabricTimeout (s : State) (k : _) (seq : _) : exec (.fabricTimeout k seq) s = execFabricTimeout k seq s := rfl
@[simp] theorem exec_requestDiscard (s : State) (idx : _) : exec (.requestDiscard idx) s = execRequestDiscard idx s := rfl
@[simp] theorem exec_replayStateFree (s : State) (die : _) (smod : _) (sch : _) : exec (.replayStateFree die smod sch) s = execReplayStateFree die smod sch s := rfl
@[simp] theorem exec_waitfPoll (s : State) (t : _) (st : _) : exec (.waitfPoll t st) s = execWaitfPoll t st s := rfl
@[simp] theorem exec_rafterLinkDown (s : State) (l : _) : exec (.rafterLinkDown l) s = execRafterLinkDown l s := rfl
@[simp] theorem exec_purlinPortDown (s : State) (p : _) : exec (.purlinPortDown p) s = execPurlinPortDown p s := rfl
@[simp] theorem exec_creditInterval (s : State) (p : _) : exec (.creditInterval p) s = execCreditInterval p s := rfl
@[simp] theorem exec_limitFlit (s : State) (p : _) (epoch : _) (limits : _) : exec (.limitFlit p epoch limits) s = execLimitFlit p epoch limits s := rfl
@[simp] theorem exec_limitAck (s : State) (p : _) (epoch : _) : exec (.limitAck p epoch) s = execLimitAck p epoch s := rfl
@[simp] theorem exec_gangArm (s : State) (p : _) : exec (.gangArm p) s = execGangArm p s := rfl
@[simp] theorem exec_quiesce (s : State) (g : _) : exec (.quiesce g) s = execQuiesce g s := rfl
@[simp] theorem exec_firstDecision (s : State) (g : _) : exec (.firstDecision g) s = execFirstDecision g s := rfl
@[simp] theorem exec_gangDecide (s : State) (p : _) : exec (.gangDecide p) s = execGangDecide p s := rfl
@[simp] theorem exec_ridgeAction (s : State) (g : _) : exec (.ridgeAction g) s = execRidgeAction g s := rfl
@[simp] theorem exec_gangVerdict (s : State) (p : _) : exec (.gangVerdict p) s = execGangVerdict p s := rfl
@[simp] theorem exec_secondDecision (s : State) (g : _) : exec (.secondDecision g) s = execSecondDecision g s := rfl
@[simp] theorem exec_gangFallback (s : State) (p : _) : exec (.gangFallback p) s = execGangFallback p s := rfl
@[simp] theorem exec_gangReady (s : State) (p : _) : exec (.gangReady p) s = execGangReady p s := rfl
@[simp] theorem exec_gangGo (s : State) (p : _) : exec (.gangGo p) s = execGangGo p s := rfl
@[simp] theorem exec_gangQuery (s : State) (p : _) : exec (.gangQuery p) s = execGangQuery p s := rfl
@[simp] theorem exec_queryResend (s : State) (g : _) : exec (.queryResend g) s = execQueryResend g s := rfl
@[simp] theorem exec_fallbackTimeout (s : State) (g : _) : exec (.fallbackTimeout g) s = execFallbackTimeout g s := rfl
@[simp] theorem exec_undecided (s : State) (g : _) : exec (.undecided g) s = execUndecided g s := rfl
@[simp] theorem exec_decisionExpire (s : State) (g : _) : exec (.decisionExpire g) s = execDecisionExpire g s := rfl
@[simp] theorem exec_ptpSync (s : State) (master : _) (offset : _) : exec (.ptpSync master offset) s = execPtpSync master offset s := rfl
@[simp] theorem exec_holdoverTimeout (s : State)  : exec (.holdoverTimeout) s = execHoldoverTimeout s := rfl
@[simp] theorem exec_uncertaintyTick (s : State)  : exec (.uncertaintyTick) s = execUncertaintyTick s := rfl
@[simp] theorem exec_ppsIn (s : State) (offset : _) : exec (.ppsIn offset) s = execPpsIn offset s := rfl
@[simp] theorem exec_ppsOut (s : State)  : exec (.ppsOut) s = execPpsOut s := rfl
@[simp] theorem exec_ppsOutEnd (s : State)  : exec (.ppsOutEnd) s = execPpsOutEnd s := rfl
@[simp] theorem exec_hostMemRead (s : State) (hpa : _) (len : _) (tag : _) : exec (.hostMemRead hpa len tag) s = execHostMemRead hpa len tag s := rfl
@[simp] theorem exec_hostMemWrite (s : State) (hpa : _) (data : _) : exec (.hostMemWrite hpa data) s = execHostMemWrite hpa data s := rfl
@[simp] theorem exec_backInvalidateRsp (s : State) (sector : _) : exec (.backInvalidateRsp sector) s = execBackInvalidateRsp sector s := rfl
@[simp] theorem exec_hostWindowRsp (s : State) (tag : _) (data : _) : exec (.hostWindowRsp tag data) s = execHostWindowRsp tag data s := rfl
@[simp] theorem exec_powerOn (s : State)  : exec (.powerOn) s = execPowerOn s := rfl
@[simp] theorem exec_coldReset (s : State)  : exec (.coldReset) s = execColdReset s := rfl
@[simp] theorem exec_warmReset (s : State)  : exec (.warmReset) s = execWarmReset s := rfl
@[simp] theorem exec_boardReset (s : State) (warm : _) : exec (.boardReset warm) s = execBoardReset warm s := rfl
@[simp] theorem exec_thermalTrip (s : State)  : exec (.thermalTrip) s = execThermalTrip s := rfl
@[simp] theorem exec_firmwareSupply (s : State) (f : _) : exec (.firmwareSupply f) s = execFirmwareSupply f s := rfl
@[simp] theorem exec_purlinTrain (s : State) (p : _) : exec (.purlinTrain p) s = execPurlinTrain p s := rfl
@[simp] theorem exec_encInit (s : State)  : exec (.encInit) s = execEncInit s := rfl
@[simp] theorem exec_encInitDone (s : State)  : exec (.encInitDone) s = execEncInitDone s := rfl
@[simp] theorem exec_keyLoad (s : State) (k : _) (off : _) : exec (.keyLoad k off) s = execKeyLoad k off s := rfl
@[simp] theorem exec_keyClear (s : State) (k : _) : exec (.keyClear k) s = execKeyClear k s := rfl
@[simp] theorem exec_keyDone (s : State) (k : _) : exec (.keyDone k) s = execKeyDone k s := rfl
@[simp] theorem exec_securityAlarm (s : State) (c : _) : exec (.securityAlarm c) s = execSecurityAlarm c s := rfl
@[simp] theorem exec_attestRequest (s : State) (off : _) : exec (.attestRequest off) s = execAttestRequest off s := rfl
@[simp] theorem exec_attestDone (s : State)  : exec (.attestDone) s = execAttestDone s := rfl
@[simp] theorem exec_throttleTick (s : State) (power : _) (temp : _) : exec (.throttleTick power temp) s = execThrottleTick power temp s := rfl
@[simp] theorem exec_bringUpStepComplete (s : State)  : exec (.bringUpStepComplete) s = execBringUpStepComplete s := rfl
@[simp] theorem exec_purlinPacketDiscard (s : State) (p : _) : exec (.purlinPacketDiscard p) s = execPurlinPacketDiscard p s := rfl

end Sys2Proof.Machine
end

