-- ==== Sys2Proof/Laws/Gang.lean ====
section
/-! SUPPORT. What the reports of gang time change: nothing but the armed records, the messages that leave (with the room they
take of a peer) and the agenda. -/

namespace Sys2Proof.Machine

/-- `t` is `s` with other armed records, other outgoing packets, other credit in use and another agenda. -/
def ReportOnly (s t : State) : Prop :=
  t = { s with
    gang := { s.gang with ridges := t.gang.ridges }, fab := { s.fab with out := t.fab.out, stay := t.fab.stay, lend := t.fab.lend },
    agenda := t.agenda }

theorem ReportOnly.refl (s : State) : ReportOnly s s := rfl

theorem ReportOnly.trans {s t u : State} (a : ReportOnly s t) (b : ReportOnly t u) : ReportOnly s u := by
  unfold ReportOnly at *
  rw [a] at b
  exact b

theorem ReportOnly.tiles {s t : State} (h : ReportOnly s t) : t.tiles = s.tiles := by rw [h]
theorem ReportOnly.hbm {s t : State} (h : ReportOnly s t) : t.hbm = s.hbm := by rw [h]
theorem ReportOnly.sectors {s t : State} (h : ReportOnly s t) : t.sectors = s.sectors := by rw [h]
theorem ReportOnly.disp {s t : State} (h : ReportOnly s t) : t.disp = s.disp := by rw [h]
theorem ReportOnly.host {s t : State} (h : ReportOnly s t) : t.host = s.host := by rw [h]
theorem ReportOnly.time {s t : State} (h : ReportOnly s t) : t.time = s.time := by rw [h]
theorem ReportOnly.hk {s t : State} (h : ReportOnly s t) : t.hk = s.hk := by rw [h]
theorem ReportOnly.sec {s t : State} (h : ReportOnly s t) : t.sec = s.sec := by rw [h]
theorem ReportOnly.leads {s t : State} (h : ReportOnly s t) : t.gang.leads = s.gang.leads := by rw [h]
theorem ReportOnly.stuck {s t : State} (h : ReportOnly s t) : t.gang.stuck = s.gang.stuck := by rw [h]
theorem ReportOnly.nextQuery {s t : State} (h : ReportOnly s t) : t.gang.nextQuery = s.gang.nextQuery := by rw [h]
theorem ReportOnly.reqs {s t : State} (h : ReportOnly s t) : t.fab.reqs = s.fab.reqs := by rw [h]
theorem ReportOnly.portup {s t : State} (h : ReportOnly s t) : t.fab.portup = s.fab.portup := by rw [h]
theorem ReportOnly.modnum {s t : State} (h : ReportOnly s t) : t.fab.modnum = s.fab.modnum := by rw [h]

theorem updRidge_report (s : State) (g : Word64) (f : Ridge → Ridge) : ReportOnly s (updRidge s g f) := rfl

theorem emit_report (s : State) (d : DieId) (p : Packet) : ReportOnly s (emit s d p) := by
  unfold emit
  split
  · dsimp only
    split <;> rfl
  · rfl

theorem emit_gang (s : State) (d : DieId) (p : Packet) : (emit s d p).gang = s.gang := by
  unfold emit
  split
  · dsimp only
    split <;> rfl
  · rfl

theorem sendGang_report (s : State) (p : Packet) : ReportOnly s (sendGang s p) := by
  unfold sendGang
  split
  · rfl
  · exact emit_report _ _ _

theorem sendGang_ridges (s : State) (p : Packet) : (sendGang s p).gang = s.gang := by
  unfold sendGang
  split
  · rfl
  · exact emit_gang _ _ _

theorem toLead_report (s : State) (r : Ridge) (a b c : Nat) : ReportOnly s (toLead s r a b c) := sendGang_report _ _

theorem toLead_gang (s : State) (r : Ridge) (a b c : Nat) : (toLead s r a b c).gang = s.gang := sendGang_ridges _ _

theorem sendVerdict_report (s : State) (r : Ridge) (b : Bool) : ReportOnly s (sendVerdict s r b) :=
  (toLead_report _ _ _ _ _).trans (updRidge_report _ _ _)

theorem ridgeReport_report (s : State) (r : Ridge) : ReportOnly s (ridgeReport s r) := by
  unfold ridgeReport
  dsimp only
  repeat' split
  all_goals first
    | exact .refl _
    | exact (toLead_report _ _ _ _ _).trans (updRidge_report _ _ _)
    | exact sendVerdict_report _ _ _

theorem ReportOnly.foldl {α : Type} (f : State → α → State) (hf : ∀ s a, ReportOnly s (f s a)) (l : List α) (s : State) :
    ReportOnly s (l.foldl f s) := by
  induction l generalizing s with
  | nil => exact .refl _
  | cons a l ih => exact (hf s a).trans (ih _)

theorem gangProgress_report (s : State) : ReportOnly s (gangProgress s) := by
  unfold gangProgress
  apply ReportOnly.foldl
  intro s r
  split
  · exact ridgeReport_report _ _
  · exact .refl _

theorem fallbackCheck_report (s : State) : ReportOnly s (fallbackCheck s) := by
  unfold fallbackCheck
  apply ReportOnly.foldl
  intro s r
  split
  · exact (toLead_report _ _ _ _ _).trans (updRidge_report _ _ _)
  · exact .refl _

/-- Of an armed record, a report changes at most what says that it was sent. -/
def SentOnly (a b : Ridge) : Prop := ∃ v w, b = { a with verdictSent := v, readySent := w }

theorem SentOnly.refl (a : Ridge) : SentOnly a a := ⟨_, _, rfl⟩

theorem SentOnly.trans {a b c : Ridge} (h : SentOnly a b) (k : SentOnly b c) : SentOnly a c := by
  obtain ⟨v, w, rfl⟩ := h
  obtain ⟨x, y, rfl⟩ := k
  exact ⟨x, y, rfl⟩

theorem ridge_updRidge (s : State) (g h : Word64) (f : Ridge → Ridge) (hf : ∀ r, (f r).gang = r.gang) :
    (updRidge s g f).ridge h = if g = h then (s.ridge h).map f else s.ridge h := by
  unfold State.ridge updRidge
  dsimp only
  generalize s.gang.ridges = l
  induction l with
  | nil => simp
  | cons r l ih =>
    simp only [List.map_cons, List.find?_cons]
    by_cases e : r.gang = g
    · simp only [e, if_true, hf]
      by_cases e2 : g = h
      · subst e2; simp
      · have : (g == h) = false := by simpa using e2
        simp only [this, e2, if_false] at ih ⊢
        exact ih
    · simp only [e, if_false]
      by_cases e2 : r.gang = h
      · have e3 : g ≠ h := fun x => e (by rw [e2, x])
        simp [e2, e3]
      · have : (r.gang == h) = false := by simpa using e2
        simp only [this]
        exact ih

theorem ridge_of_gang {s t : State} (h : t.gang = s.gang) (g : Word64) : t.ridge g = s.ridge g := by
  unfold State.ridge; rw [h]

theorem ridge_gang {s : State} {g : Word64} {r : Ridge} (h : s.ridge g = some r) : r.gang = g := by
  have := List.find?_some h
  simpa using this

theorem sentOnly_ready (s : State) (r : Ridge) (g : Word64) (a : Ridge) (h : s.ridge g = some a) :
    ∃ b, (updRidge (toLead s r 5 0 0) r.gang fun r => { r with readySent := true }).ridge g = some b ∧ SentOnly a b := by
  rw [ridge_updRidge, ridge_of_gang (toLead_gang _ _ _ _ _), h]
  · split
    · exact ⟨_, rfl, _, _, rfl⟩
    · exact ⟨a, rfl, .refl a⟩
  · intro q
    rfl

theorem sentOnly_verdict (s : State) (r : Ridge) (c : Bool) (g : Word64) (a : Ridge) (h : s.ridge g = some a) :
    ∃ b, (sendVerdict s r c).ridge g = some b ∧ SentOnly a b := by
  unfold sendVerdict
  rw [ridge_updRidge, ridge_of_gang (toLead_gang _ _ _ _ _), h]
  · split
    · exact ⟨_, rfl, _, _, rfl⟩
    · exact ⟨a, rfl, .refl a⟩
  · intro q
    rfl

/-- A report keeps every armed record but for what says that it was sent. -/
theorem ridgeReport_ridge (s : State) (r : Ridge) (g : Word64) (a : Ridge) (h : s.ridge g = some a) :
    ∃ b, (ridgeReport s r).ridge g = some b ∧ SentOnly a b := by
  unfold ridgeReport
  dsimp only
  repeat' split
  all_goals first
    | exact ⟨a, h, .refl a⟩
    | exact sentOnly_ready _ _ _ _ h
    | exact sentOnly_verdict _ _ _ _ _ h

theorem gangProgress_ridge (s : State) (g : Word64) (a : Ridge) (h : s.ridge g = some a) :
    ∃ b, (gangProgress s).ridge g = some b ∧ SentOnly a b := by
  unfold gangProgress
  generalize s.gang.ridges = l
  induction l generalizing s a with
  | nil => exact ⟨a, h, .refl a⟩
  | cons r l ih =>
    simp only [List.foldl_cons]
    split
    · obtain ⟨b, hb, hs⟩ := ridgeReport_ridge s _ g a h
      obtain ⟨c, hc, ht⟩ := ih _ b hb
      exact ⟨c, hc, hs.trans ht⟩
    · exact ih _ a h

end Sys2Proof.Machine
end

