-- ==== Sys2Proof/Laws/State.lean ====
section
/-! SUPPORT. What each update of the state leaves and changes, one lemma a field, so that no proof unfolds a record update. -/

namespace Sys2Proof.Machine

/-! ### Fields of the module that a change of one tile leaves -/

@[simp] theorem State.setTile_hbm (s : State) (t : TileId) (x : Tile) : (s.setTile t x).hbm = s.hbm := rfl
@[simp] theorem State.setTile_sectors (s : State) (t : TileId) (x : Tile) : (s.setTile t x).sectors = s.sectors := rfl
@[simp] theorem State.setTile_pages (s : State) (t : TileId) (x : Tile) : (s.setTile t x).pages = s.pages := rfl
@[simp] theorem State.setTile_disp (s : State) (t : TileId) (x : Tile) : (s.setTile t x).disp = s.disp := rfl
@[simp] theorem State.setTile_fab (s : State) (t : TileId) (x : Tile) : (s.setTile t x).fab = s.fab := rfl
@[simp] theorem State.setTile_host (s : State) (t : TileId) (x : Tile) : (s.setTile t x).host = s.host := rfl
@[simp] theorem State.setTile_time (s : State) (t : TileId) (x : Tile) : (s.setTile t x).time = s.time := rfl
@[simp] theorem State.setTile_gang (s : State) (t : TileId) (x : Tile) : (s.setTile t x).gang = s.gang := rfl
@[simp] theorem State.setTile_hk (s : State) (t : TileId) (x : Tile) : (s.setTile t x).hk = s.hk := rfl
@[simp] theorem State.setTile_sec (s : State) (t : TileId) (x : Tile) : (s.setTile t x).sec = s.sec := rfl
@[simp] theorem State.setTile_ctrs (s : State) (t : TileId) (x : Tile) : (s.setTile t x).ctrs = s.ctrs := rfl
@[simp] theorem State.setTile_agenda (s : State) (t : TileId) (x : Tile) : (s.setTile t x).agenda = s.agenda := rfl
@[simp] theorem State.setTile_freeIdx (s : State) (t : TileId) (x : Tile) : (s.setTile t x).freeIdx = s.freeIdx := rfl
@[simp] theorem State.setTile_cur (s : State) (t : TileId) (x : Tile) : (s.setTile t x).cur = s.cur := rfl
@[simp] theorem State.setMe_hbm (s : State) (x : Tile) : (s.setMe x).hbm = s.hbm := rfl
@[simp] theorem State.setMe_sectors (s : State) (x : Tile) : (s.setMe x).sectors = s.sectors := rfl
@[simp] theorem State.setMe_pages (s : State) (x : Tile) : (s.setMe x).pages = s.pages := rfl
@[simp] theorem State.setMe_disp (s : State) (x : Tile) : (s.setMe x).disp = s.disp := rfl
@[simp] theorem State.setMe_fab (s : State) (x : Tile) : (s.setMe x).fab = s.fab := rfl
@[simp] theorem State.setMe_host (s : State) (x : Tile) : (s.setMe x).host = s.host := rfl
@[simp] theorem State.setMe_time (s : State) (x : Tile) : (s.setMe x).time = s.time := rfl
@[simp] theorem State.setMe_gang (s : State) (x : Tile) : (s.setMe x).gang = s.gang := rfl
@[simp] theorem State.setMe_hk (s : State) (x : Tile) : (s.setMe x).hk = s.hk := rfl
@[simp] theorem State.setMe_sec (s : State) (x : Tile) : (s.setMe x).sec = s.sec := rfl
@[simp] theorem State.setMe_ctrs (s : State) (x : Tile) : (s.setMe x).ctrs = s.ctrs := rfl
@[simp] theorem State.setMe_agenda (s : State) (x : Tile) : (s.setMe x).agenda = s.agenda := rfl
@[simp] theorem State.setMe_freeIdx (s : State) (x : Tile) : (s.setMe x).freeIdx = s.freeIdx := rfl
@[simp] theorem State.setMe_cur (s : State) (x : Tile) : (s.setMe x).cur = s.cur := rfl
@[simp] theorem State.setMyCore_hbm (s : State) (c : Core) : (s.setMyCore c).hbm = s.hbm := rfl
@[simp] theorem State.setMyCore_sectors (s : State) (c : Core) : (s.setMyCore c).sectors = s.sectors := rfl
@[simp] theorem State.setMyCore_pages (s : State) (c : Core) : (s.setMyCore c).pages = s.pages := rfl
@[simp] theorem State.setMyCore_disp (s : State) (c : Core) : (s.setMyCore c).disp = s.disp := rfl
@[simp] theorem State.setMyCore_fab (s : State) (c : Core) : (s.setMyCore c).fab = s.fab := rfl
@[simp] theorem State.setMyCore_host (s : State) (c : Core) : (s.setMyCore c).host = s.host := rfl
@[simp] theorem State.setMyCore_time (s : State) (c : Core) : (s.setMyCore c).time = s.time := rfl
@[simp] theorem State.setMyCore_gang (s : State) (c : Core) : (s.setMyCore c).gang = s.gang := rfl
@[simp] theorem State.setMyCore_hk (s : State) (c : Core) : (s.setMyCore c).hk = s.hk := rfl
@[simp] theorem State.setMyCore_sec (s : State) (c : Core) : (s.setMyCore c).sec = s.sec := rfl
@[simp] theorem State.setMyCore_ctrs (s : State) (c : Core) : (s.setMyCore c).ctrs = s.ctrs := rfl
@[simp] theorem State.setMyCore_agenda (s : State) (c : Core) : (s.setMyCore c).agenda = s.agenda := rfl
@[simp] theorem State.setMyCore_freeIdx (s : State) (c : Core) : (s.setMyCore c).freeIdx = s.freeIdx := rfl
@[simp] theorem State.setMyCore_cur (s : State) (c : Core) : (s.setMyCore c).cur = s.cur := rfl
@[simp] theorem State.setRegs_hbm (s : State) (r : Regs) : (s.setRegs r).hbm = s.hbm := rfl
@[simp] theorem State.setRegs_sectors (s : State) (r : Regs) : (s.setRegs r).sectors = s.sectors := rfl
@[simp] theorem State.setRegs_pages (s : State) (r : Regs) : (s.setRegs r).pages = s.pages := rfl
@[simp] theorem State.setRegs_disp (s : State) (r : Regs) : (s.setRegs r).disp = s.disp := rfl
@[simp] theorem State.setRegs_fab (s : State) (r : Regs) : (s.setRegs r).fab = s.fab := rfl
@[simp] theorem State.setRegs_host (s : State) (r : Regs) : (s.setRegs r).host = s.host := rfl
@[simp] theorem State.setRegs_time (s : State) (r : Regs) : (s.setRegs r).time = s.time := rfl
@[simp] theorem State.setRegs_gang (s : State) (r : Regs) : (s.setRegs r).gang = s.gang := rfl
@[simp] theorem State.setRegs_hk (s : State) (r : Regs) : (s.setRegs r).hk = s.hk := rfl
@[simp] theorem State.setRegs_sec (s : State) (r : Regs) : (s.setRegs r).sec = s.sec := rfl
@[simp] theorem State.setRegs_ctrs (s : State) (r : Regs) : (s.setRegs r).ctrs = s.ctrs := rfl
@[simp] theorem State.setRegs_agenda (s : State) (r : Regs) : (s.setRegs r).agenda = s.agenda := rfl
@[simp] theorem State.setRegs_freeIdx (s : State) (r : Regs) : (s.setRegs r).freeIdx = s.freeIdx := rfl
@[simp] theorem State.setRegs_cur (s : State) (r : Regs) : (s.setRegs r).cur = s.cur := rfl
@[simp] theorem State.writeG_hbm (s : State) (n : Fin 32) (v : Word64) : (s.writeG n v).hbm = s.hbm := rfl
@[simp] theorem State.writeG_sectors (s : State) (n : Fin 32) (v : Word64) : (s.writeG n v).sectors = s.sectors := rfl
@[simp] theorem State.writeG_pages (s : State) (n : Fin 32) (v : Word64) : (s.writeG n v).pages = s.pages := rfl
@[simp] theorem State.writeG_disp (s : State) (n : Fin 32) (v : Word64) : (s.writeG n v).disp = s.disp := rfl
@[simp] theorem State.writeG_fab (s : State) (n : Fin 32) (v : Word64) : (s.writeG n v).fab = s.fab := rfl
@[simp] theorem State.writeG_host (s : State) (n : Fin 32) (v : Word64) : (s.writeG n v).host = s.host := rfl
@[simp] theorem State.writeG_time (s : State) (n : Fin 32) (v : Word64) : (s.writeG n v).time = s.time := rfl
@[simp] theorem State.writeG_gang (s : State) (n : Fin 32) (v : Word64) : (s.writeG n v).gang = s.gang := rfl
@[simp] theorem State.writeG_hk (s : State) (n : Fin 32) (v : Word64) : (s.writeG n v).hk = s.hk := rfl
@[simp] theorem State.writeG_sec (s : State) (n : Fin 32) (v : Word64) : (s.writeG n v).sec = s.sec := rfl
@[simp] theorem State.writeG_ctrs (s : State) (n : Fin 32) (v : Word64) : (s.writeG n v).ctrs = s.ctrs := rfl
@[simp] theorem State.writeG_agenda (s : State) (n : Fin 32) (v : Word64) : (s.writeG n v).agenda = s.agenda := rfl
@[simp] theorem State.writeG_freeIdx (s : State) (n : Fin 32) (v : Word64) : (s.writeG n v).freeIdx = s.freeIdx := rfl
@[simp] theorem State.writeG_cur (s : State) (n : Fin 32) (v : Word64) : (s.writeG n v).cur = s.cur := rfl
@[simp] theorem State.writeP_hbm (s : State) (n : Fin 8) (v : Bool) : (s.writeP n v).hbm = s.hbm := rfl
@[simp] theorem State.writeP_sectors (s : State) (n : Fin 8) (v : Bool) : (s.writeP n v).sectors = s.sectors := rfl
@[simp] theorem State.writeP_pages (s : State) (n : Fin 8) (v : Bool) : (s.writeP n v).pages = s.pages := rfl
@[simp] theorem State.writeP_disp (s : State) (n : Fin 8) (v : Bool) : (s.writeP n v).disp = s.disp := rfl
@[simp] theorem State.writeP_fab (s : State) (n : Fin 8) (v : Bool) : (s.writeP n v).fab = s.fab := rfl
@[simp] theorem State.writeP_host (s : State) (n : Fin 8) (v : Bool) : (s.writeP n v).host = s.host := rfl
@[simp] theorem State.writeP_time (s : State) (n : Fin 8) (v : Bool) : (s.writeP n v).time = s.time := rfl
@[simp] theorem State.writeP_gang (s : State) (n : Fin 8) (v : Bool) : (s.writeP n v).gang = s.gang := rfl
@[simp] theorem State.writeP_hk (s : State) (n : Fin 8) (v : Bool) : (s.writeP n v).hk = s.hk := rfl
@[simp] theorem State.writeP_sec (s : State) (n : Fin 8) (v : Bool) : (s.writeP n v).sec = s.sec := rfl
@[simp] theorem State.writeP_ctrs (s : State) (n : Fin 8) (v : Bool) : (s.writeP n v).ctrs = s.ctrs := rfl
@[simp] theorem State.writeP_agenda (s : State) (n : Fin 8) (v : Bool) : (s.writeP n v).agenda = s.agenda := rfl
@[simp] theorem State.writeP_freeIdx (s : State) (n : Fin 8) (v : Bool) : (s.writeP n v).freeIdx = s.freeIdx := rfl
@[simp] theorem State.writeP_cur (s : State) (n : Fin 8) (v : Bool) : (s.writeP n v).cur = s.cur := rfl
@[simp] theorem State.orFlags_hbm (s : State) (f : BitVec 5) : (s.orFlags f).hbm = s.hbm := rfl
@[simp] theorem State.orFlags_sectors (s : State) (f : BitVec 5) : (s.orFlags f).sectors = s.sectors := rfl
@[simp] theorem State.orFlags_pages (s : State) (f : BitVec 5) : (s.orFlags f).pages = s.pages := rfl
@[simp] theorem State.orFlags_disp (s : State) (f : BitVec 5) : (s.orFlags f).disp = s.disp := rfl
@[simp] theorem State.orFlags_fab (s : State) (f : BitVec 5) : (s.orFlags f).fab = s.fab := rfl
@[simp] theorem State.orFlags_host (s : State) (f : BitVec 5) : (s.orFlags f).host = s.host := rfl
@[simp] theorem State.orFlags_time (s : State) (f : BitVec 5) : (s.orFlags f).time = s.time := rfl
@[simp] theorem State.orFlags_gang (s : State) (f : BitVec 5) : (s.orFlags f).gang = s.gang := rfl
@[simp] theorem State.orFlags_hk (s : State) (f : BitVec 5) : (s.orFlags f).hk = s.hk := rfl
@[simp] theorem State.orFlags_sec (s : State) (f : BitVec 5) : (s.orFlags f).sec = s.sec := rfl
@[simp] theorem State.orFlags_ctrs (s : State) (f : BitVec 5) : (s.orFlags f).ctrs = s.ctrs := rfl
@[simp] theorem State.orFlags_agenda (s : State) (f : BitVec 5) : (s.orFlags f).agenda = s.agenda := rfl
@[simp] theorem State.orFlags_freeIdx (s : State) (f : BitVec 5) : (s.orFlags f).freeIdx = s.freeIdx := rfl
@[simp] theorem State.orFlags_cur (s : State) (f : BitVec 5) : (s.orFlags f).cur = s.cur := rfl
@[simp] theorem State.sink_hbm (s : State) : (s.sink).hbm = s.hbm := rfl
@[simp] theorem State.sink_sectors (s : State) : (s.sink).sectors = s.sectors := rfl
@[simp] theorem State.sink_pages (s : State) : (s.sink).pages = s.pages := rfl
@[simp] theorem State.sink_disp (s : State) : (s.sink).disp = s.disp := rfl
@[simp] theorem State.sink_fab (s : State) : (s.sink).fab = s.fab := rfl
@[simp] theorem State.sink_host (s : State) : (s.sink).host = s.host := rfl
@[simp] theorem State.sink_time (s : State) : (s.sink).time = s.time := rfl
@[simp] theorem State.sink_gang (s : State) : (s.sink).gang = s.gang := rfl
@[simp] theorem State.sink_hk (s : State) : (s.sink).hk = s.hk := rfl
@[simp] theorem State.sink_sec (s : State) : (s.sink).sec = s.sec := rfl
@[simp] theorem State.sink_ctrs (s : State) : (s.sink).ctrs = s.ctrs := rfl
@[simp] theorem State.sink_agenda (s : State) : (s.sink).agenda = s.agenda := rfl
@[simp] theorem State.sink_freeIdx (s : State) : (s.sink).freeIdx = s.freeIdx := rfl
@[simp] theorem State.sink_cur (s : State) : (s.sink).cur = s.cur := rfl

/-! ### Reading a tile back -/

@[simp] theorem State.tile_setTile (s : State) (t : TileId) (x : Tile) : (s.setTile t x).tile t = x := by
  simp [State.tile, State.setTile]
theorem State.tile_setTile_ne (s : State) (t u : TileId) (x : Tile) (h : u ≠ t) : (s.setTile t x).tile u = s.tile u := by
  have : t.val ≠ u.val := fun e => h (Fin.ext e.symm)
  simp [State.tile, State.setTile, Vector.getElem_set_ne _ _ this]
theorem State.setTile_self (s : State) (t : TileId) : s.setTile t (s.tile t) = s := by
  simp [State.tile, State.setTile]
@[simp] theorem State.setTile_setTile (s : State) (t : TileId) (x y : Tile) : (s.setTile t x).setTile t y = s.setTile t y := by
  simp [State.setTile]
@[simp] theorem State.me_setMe (s : State) (x : Tile) : (s.setMe x).me = x := by simp [State.me, State.setMe]
@[simp] theorem State.setMe_me (s : State) : s.setMe s.me = s := State.setTile_self s _
@[simp] theorem State.setMe_setMe (s : State) (x y : Tile) : (s.setMe x).setMe y = s.setMe y := by simp [State.setMe]
theorem State.tile_setMe_ne (s : State) (u : TileId) (x : Tile) (h : u ≠ s.cur.tile) : (s.setMe x).tile u = s.tile u :=
  State.tile_setTile_ne s _ u x h
@[simp] theorem State.tile_setMe (s : State) (x : Tile) : (s.setMe x).tile s.cur.tile = x := State.tile_setTile s _ x

/-! ### Fields of a tile -/

@[simp] theorem Tile.setCore_queues (x : Tile) (st : Stream) (c : Core) : (x.setCore st c).queues = x.queues := by cases st <;> rfl
@[simp] theorem Tile.setCore_store (x : Tile) (st : Stream) (c : Core) : (x.setCore st c).store = x.store := by cases st <;> rfl
@[simp] theorem Tile.setCore_eng (x : Tile) (st : Stream) (c : Core) : (x.setCore st c).eng = x.eng := by cases st <;> rfl
@[simp] theorem Tile.setCore_task (x : Tile) (st : Stream) (c : Core) : (x.setCore st c).task = x.task := by cases st <;> rfl
@[simp] theorem Tile.setCore_drain (x : Tile) (st : Stream) (c : Core) : (x.setCore st c).drain = x.drain := by cases st <;> rfl
@[simp] theorem Tile.setCore_blocked (x : Tile) (st : Stream) (c : Core) : (x.setCore st c).blocked = x.blocked := by cases st <;> rfl
@[simp] theorem Tile.setCore_wcount (x : Tile) (st : Stream) (c : Core) : (x.setCore st c).wcount = x.wcount := by cases st <;> rfl
@[simp] theorem Tile.setCore_sink (x : Tile) (st : Stream) (c : Core) : (x.setCore st c).sink = x.sink := by cases st <;> rfl
@[simp] theorem Tile.setCore_cycle (x : Tile) (st : Stream) (c : Core) : (x.setCore st c).cycle = x.cycle := by cases st <;> rfl
@[simp] theorem Tile.setCore_residues (x : Tile) (st : Stream) (c : Core) : (x.setCore st c).residues = x.residues := by cases st <;> rfl
@[simp] theorem Tile.setCore_columns (x : Tile) (st : Stream) (c : Core) : (x.setCore st c).columns = x.columns := by cases st <;> rfl
@[simp] theorem Tile.setCore_degraded (x : Tile) (st : Stream) (c : Core) : (x.setCore st c).degraded = x.degraded := by cases st <;> rfl
@[simp] theorem Tile.setQueue_ld (x : Tile) (q : Fin 6) (v : TokQ) : (x.setQueue q v).ld = x.ld := rfl
@[simp] theorem Tile.setQueue_cp (x : Tile) (q : Fin 6) (v : TokQ) : (x.setQueue q v).cp = x.cp := rfl
@[simp] theorem Tile.setQueue_st (x : Tile) (q : Fin 6) (v : TokQ) : (x.setQueue q v).st = x.st := rfl
@[simp] theorem Tile.setQueue_store (x : Tile) (q : Fin 6) (v : TokQ) : (x.setQueue q v).store = x.store := rfl
@[simp] theorem Tile.setQueue_eng (x : Tile) (q : Fin 6) (v : TokQ) : (x.setQueue q v).eng = x.eng := rfl
@[simp] theorem Tile.setQueue_task (x : Tile) (q : Fin 6) (v : TokQ) : (x.setQueue q v).task = x.task := rfl
@[simp] theorem Tile.setQueue_drain (x : Tile) (q : Fin 6) (v : TokQ) : (x.setQueue q v).drain = x.drain := rfl
@[simp] theorem Tile.setQueue_blocked (x : Tile) (q : Fin 6) (v : TokQ) : (x.setQueue q v).blocked = x.blocked := rfl
@[simp] theorem Tile.setQueue_wcount (x : Tile) (q : Fin 6) (v : TokQ) : (x.setQueue q v).wcount = x.wcount := rfl
@[simp] theorem Tile.setQueue_sink (x : Tile) (q : Fin 6) (v : TokQ) : (x.setQueue q v).sink = x.sink := rfl
@[simp] theorem Tile.setQueue_cycle (x : Tile) (q : Fin 6) (v : TokQ) : (x.setQueue q v).cycle = x.cycle := rfl
@[simp] theorem Tile.setQueue_residues (x : Tile) (q : Fin 6) (v : TokQ) : (x.setQueue q v).residues = x.residues := rfl
@[simp] theorem Tile.setQueue_columns (x : Tile) (q : Fin 6) (v : TokQ) : (x.setQueue q v).columns = x.columns := rfl
@[simp] theorem Tile.setQueue_degraded (x : Tile) (q : Fin 6) (v : TokQ) : (x.setQueue q v).degraded = x.degraded := rfl
@[simp] theorem Tile.core_setQueue (x : Tile) (q : Fin 6) (v : TokQ) (st : Stream) : (x.setQueue q v).core st = x.core st := by
  cases st <;> rfl
@[simp] theorem Tile.core_setCore (x : Tile) (st : Stream) (c : Core) : (x.setCore st c).core st = c := by cases st <;> rfl
theorem Tile.core_setCore_ne (x : Tile) (st u : Stream) (c : Core) (h : u ≠ st) : (x.setCore st c).core u = x.core u := by
  cases st <;> cases u <;> first | rfl | exact absurd rfl h
@[simp] theorem Tile.setCore_core (x : Tile) (st : Stream) : x.setCore st (x.core st) = x := by cases st <;> rfl
@[simp] theorem Tile.setCore_setCore (x : Tile) (st : Stream) (c d : Core) : (x.setCore st c).setCore st d = x.setCore st d := by
  cases st <;> rfl
@[simp] theorem Tile.queue_setQueue (x : Tile) (q : Fin 6) (v : TokQ) : (x.setQueue q v).queue q = v := by
  simp [Tile.queue, Tile.setQueue]
theorem Tile.queue_setQueue_ne (x : Tile) (q r : Fin 6) (v : TokQ) (h : r ≠ q) : (x.setQueue q v).queue r = x.queue r := by
  have : q.val ≠ r.val := fun e => h (Fin.ext e.symm)
  simp [Tile.queue, Tile.setQueue, Vector.getElem_set_ne _ _ this]
@[simp] theorem Tile.queue_setCore (x : Tile) (st : Stream) (c : Core) (q : Fin 6) : (x.setCore st c).queue q = x.queue q := by
  cases st <;> rfl

/-! ### A core and its registers -/

@[simp] theorem Core.regs_setRegs (c : Core) (k : CtxKind) (r : Regs) : (c.setRegs k r).regs k = r := by cases k <;> rfl
theorem Core.regs_setRegs_ne (c : Core) (k l : CtxKind) (r : Regs) (h : l ≠ k) : (c.setRegs k r).regs l = c.regs l := by
  cases k <;> cases l <;> first | rfl | exact absurd rfl h
@[simp] theorem Core.setRegs_setRegs (c : Core) (k : CtxKind) (r q : Regs) : (c.setRegs k r).setRegs k q = c.setRegs k q := by
  cases k <;> rfl
@[simp] theorem Core.setRegs_regs (c : Core) (k : CtxKind) : c.setRegs k (c.regs k) = c := by cases k <;> rfl
@[simp] theorem Core.regs_markIssued (c : Core) (j k : CtxKind) : (c.markIssued j).regs k = c.regs k := by cases j <;> cases k <;> rfl
@[simp] theorem Core.markIssued_setRegs (c : Core) (j k : CtxKind) (r : Regs) :
    (c.setRegs k r).markIssued j = (c.markIssued j).setRegs k r := by cases j <;> cases k <;> rfl

@[simp] theorem Core.markIssued_u (c : Core) (k : CtxKind) : (c.markIssued k).u = c.u := by cases k <;> rfl
@[simp] theorem Core.markIssued_v_user (c : Core) : (c.markIssued .user).v = c.v := rfl
@[simp] theorem Core.markIssued_v_service (c : Core) : (c.markIssued .service).v = { c.v with held := false, woke := none } := rfl
@[simp] theorem Core.markIssued_v_credit (c : Core) (k : CtxKind) : (c.markIssued k).v.credit = c.v.credit := by cases k <;> rfl
@[simp] theorem Core.markIssued_issued (c : Core) (k : CtxKind) : (c.markIssued k).issued = true := by cases k <;> rfl
@[simp] theorem Core.markIssued_ic (c : Core) (k : CtxKind) : (c.markIssued k).ic = c.ic := by cases k <;> rfl
@[simp] theorem Core.markIssued_codes (c : Core) (k : CtxKind) : (c.markIssued k).codes = c.codes := by cases k <;> rfl
@[simp] theorem Core.markIssued_stopped (c : Core) (k : CtxKind) : (c.markIssued k).stopped = c.stopped := by cases k <;> rfl
@[simp] theorem Core.markIssued_pend (c : Core) (k : CtxKind) : (c.markIssued k).pend = c.pend := by cases k <;> rfl
@[simp] theorem Core.regs_spent (c : Core) (b : Bool) (j k : CtxKind) : (c.spent b j).regs k = c.regs k := by
  cases j <;> cases k <;> simp only [Core.spent, Core.regs, Core.markIssued, payShare] <;> split <;> rfl
@[simp] theorem Core.spent_u (c : Core) (b : Bool) (k : CtxKind) : (c.spent b k).u = c.u := by cases k <;> rfl
@[simp] theorem Core.spent_ic (c : Core) (b : Bool) (k : CtxKind) : (c.spent b k).ic = c.ic := by cases k <;> rfl
@[simp] theorem Core.spent_codes (c : Core) (b : Bool) (k : CtxKind) : (c.spent b k).codes = c.codes := by cases k <;> rfl
@[simp] theorem Core.spent_stopped (c : Core) (b : Bool) (k : CtxKind) : (c.spent b k).stopped = c.stopped := by cases k <;> rfl
@[simp] theorem Core.spent_pend (c : Core) (b : Bool) (k : CtxKind) : (c.spent b k).pend = c.pend := by cases k <;> rfl
@[simp] theorem Core.spent_issued (c : Core) (b : Bool) (k : CtxKind) : (c.spent b k).issued = true := by cases k <;> rfl
@[simp] theorem Core.setRegs_word (c : Core) (k : CtxKind) (r : Regs) : (c.setRegs k r).word = c.word := by cases k <;> rfl
@[simp] theorem Core.setRegs_codes (c : Core) (k : CtxKind) (r : Regs) : (c.setRegs k r).codes = c.codes := by cases k <;> rfl
@[simp] theorem Core.setRegs_v_woke (c : Core) (k : CtxKind) (r : Regs) : (c.setRegs k r).v.woke = c.v.woke := by cases k <;> rfl
@[simp] theorem Core.setRegs_v_held (c : Core) (k : CtxKind) (r : Regs) : (c.setRegs k r).v.held = c.v.held := by cases k <;> rfl
@[simp] theorem Core.setRegs_ic (c : Core) (k : CtxKind) (r : Regs) : (c.setRegs k r).ic = c.ic := by cases k <;> rfl
@[simp] theorem Core.setRegs_issued (c : Core) (k : CtxKind) (r : Regs) : (c.setRegs k r).issued = c.issued := by cases k <;> rfl
@[simp] theorem Core.setRegs_tried (c : Core) (k : CtxKind) (r : Regs) : (c.setRegs k r).tried = c.tried := by cases k <;> rfl
@[simp] theorem Core.setRegs_stall (c : Core) (k : CtxKind) (r : Regs) : (c.setRegs k r).stall = c.stall := by cases k <;> rfl
@[simp] theorem Core.setRegs_remote (c : Core) (k : CtxKind) (r : Regs) : (c.setRegs k r).remote = c.remote := by cases k <;> rfl
@[simp] theorem Core.setRegs_stopped (c : Core) (k : CtxKind) (r : Regs) : (c.setRegs k r).stopped = c.stopped := by cases k <;> rfl
@[simp] theorem Core.setRegs_pend (c : Core) (k : CtxKind) (r : Regs) : (c.setRegs k r).pend = c.pend := by cases k <;> rfl
@[simp] theorem Core.setRegs_u_lost (c : Core) (k : CtxKind) (r : Regs) : (c.setRegs k r).u.lost = c.u.lost := by cases k <;> rfl
@[simp] theorem Core.setRegs_u_wdog (c : Core) (k : CtxKind) (r : Regs) : (c.setRegs k r).u.wdog = c.u.wdog := by cases k <;> rfl
@[simp] theorem Core.setRegs_u_life (c : Core) (k : CtxKind) (r : Regs) : (c.setRegs k r).u.life = c.u.life := by cases k <;> rfl
@[simp] theorem Core.setRegs_u_exitVal (c : Core) (k : CtxKind) (r : Regs) : (c.setRegs k r).u.exitVal = c.u.exitVal := by cases k <;> rfl
@[simp] theorem Core.setRegs_v_mode (c : Core) (k : CtxKind) (r : Regs) : (c.setRegs k r).v.mode = c.v.mode := by cases k <;> rfl
@[simp] theorem Core.setRegs_v_trec (c : Core) (k : CtxKind) (r : Regs) : (c.setRegs k r).v.trec = c.v.trec := by cases k <;> rfl
@[simp] theorem Core.setRegs_v_vote (c : Core) (k : CtxKind) (r : Regs) : (c.setRegs k r).v.vote = c.v.vote := by cases k <;> rfl
@[simp] theorem Core.setRegs_v_share (c : Core) (k : CtxKind) (r : Regs) : (c.setRegs k r).v.share = c.v.share := by cases k <;> rfl
@[simp] theorem Core.setRegs_v_credit (c : Core) (k : CtxKind) (r : Regs) : (c.setRegs k r).v.credit = c.v.credit := by cases k <;> rfl
@[simp] theorem Core.setRegs_v_vec (c : Core) (k : CtxKind) (r : Regs) : (c.setRegs k r).v.vec = c.v.vec := by cases k <;> rfl
@[simp] theorem Core.setRegs_v_idle (c : Core) (k : CtxKind) (r : Regs) : (c.setRegs k r).v.idle = c.v.idle := by cases k <;> rfl
@[simp] theorem Core.setRegs_v_ridge (c : Core) (k : CtxKind) (r : Regs) : (c.setRegs k r).v.ridge = c.v.ridge := by cases k <;> rfl

@[simp] theorem State.myCore_setMyCore (s : State) (c : Core) : (s.setMyCore c).myCore = c := by
  simp [State.myCore, State.setMyCore]
@[simp] theorem State.regs_setRegs (s : State) (r : Regs) : (s.setRegs r).regs = r := by
  simp [State.regs, State.setRegs]
@[simp] theorem State.setRegs_setRegs (s : State) (r q : Regs) : (s.setRegs r).setRegs q = s.setRegs q := by
  simp [State.setRegs, State.setMyCore, State.myCore]
@[simp] theorem State.setRegs_regs (s : State) : s.setRegs s.regs = s := by
  simp [State.setRegs, State.setMyCore, State.regs, State.myCore]

@[simp] theorem State.setRegs_me_queues (s : State) (r : Regs) : (s.setRegs r).me.queues = s.me.queues := by
  simp [State.setRegs, State.setMyCore]
@[simp] theorem State.setRegs_me_store (s : State) (r : Regs) : (s.setRegs r).me.store = s.me.store := by
  simp [State.setRegs, State.setMyCore]
@[simp] theorem State.setRegs_me_eng (s : State) (r : Regs) : (s.setRegs r).me.eng = s.me.eng := by
  simp [State.setRegs, State.setMyCore]
@[simp] theorem State.setRegs_me_task (s : State) (r : Regs) : (s.setRegs r).me.task = s.me.task := by
  simp [State.setRegs, State.setMyCore]
@[simp] theorem State.setRegs_me_drain (s : State) (r : Regs) : (s.setRegs r).me.drain = s.me.drain := by
  simp [State.setRegs, State.setMyCore]
@[simp] theorem State.setRegs_me_blocked (s : State) (r : Regs) : (s.setRegs r).me.blocked = s.me.blocked := by
  simp [State.setRegs, State.setMyCore]
@[simp] theorem State.setRegs_me_wcount (s : State) (r : Regs) : (s.setRegs r).me.wcount = s.me.wcount := by
  simp [State.setRegs, State.setMyCore]
@[simp] theorem State.setRegs_me_sink (s : State) (r : Regs) : (s.setRegs r).me.sink = s.me.sink := by
  simp [State.setRegs, State.setMyCore]
@[simp] theorem State.setRegs_me_cycle (s : State) (r : Regs) : (s.setRegs r).me.cycle = s.me.cycle := by
  simp [State.setRegs, State.setMyCore]
@[simp] theorem State.setRegs_me_residues (s : State) (r : Regs) : (s.setRegs r).me.residues = s.me.residues := by
  simp [State.setRegs, State.setMyCore]
@[simp] theorem State.setRegs_me_columns (s : State) (r : Regs) : (s.setRegs r).me.columns = s.me.columns := by
  simp [State.setRegs, State.setMyCore]
@[simp] theorem State.setRegs_me_degraded (s : State) (r : Regs) : (s.setRegs r).me.degraded = s.me.degraded := by
  simp [State.setRegs, State.setMyCore]

/-! ### Registers -/

@[simp] theorem Regs.writeP_g (r : Regs) (n : Fin 8) (v : Bool) : (r.writeP n v).g = r.g := by
  unfold Regs.writeP; split <;> rfl
@[simp] theorem Regs.writeG_p (r : Regs) (n : Fin 32) (v : Word64) : (r.writeG n v).p = r.p := by
  unfold Regs.writeG; split <;> rfl
@[simp] theorem Regs.writeG_pc (r : Regs) (n : Fin 32) (v : Word64) : (r.writeG n v).pc = r.pc := by
  unfold Regs.writeG; split <;> rfl
@[simp] theorem Regs.writeP_pc (r : Regs) (n : Fin 8) (v : Bool) : (r.writeP n v).pc = r.pc := by
  unfold Regs.writeP; split <;> rfl
@[simp] theorem Regs.writeG_lc0 (r : Regs) (n : Fin 32) (v : Word64) : (r.writeG n v).lc0 = r.lc0 := by
  unfold Regs.writeG; split <;> rfl
@[simp] theorem Regs.writeP_lc0 (r : Regs) (n : Fin 8) (v : Bool) : (r.writeP n v).lc0 = r.lc0 := by
  unfold Regs.writeP; split <;> rfl
@[simp] theorem Regs.writeG_lc1 (r : Regs) (n : Fin 32) (v : Word64) : (r.writeG n v).lc1 = r.lc1 := by
  unfold Regs.writeG; split <;> rfl
@[simp] theorem Regs.writeP_lc1 (r : Regs) (n : Fin 8) (v : Bool) : (r.writeP n v).lc1 = r.lc1 := by
  unfold Regs.writeP; split <;> rfl
@[simp] theorem Regs.writeG_flags (r : Regs) (n : Fin 32) (v : Word64) : (r.writeG n v).flags = r.flags := by
  unfold Regs.writeG; split <;> rfl
@[simp] theorem Regs.writeP_flags (r : Regs) (n : Fin 8) (v : Bool) : (r.writeP n v).flags = r.flags := by
  unfold Regs.writeP; split <;> rfl
@[simp] theorem Regs.writeG_round (r : Regs) (n : Fin 32) (v : Word64) : (r.writeG n v).round = r.round := by
  unfold Regs.writeG; split <;> rfl
@[simp] theorem Regs.writeP_round (r : Regs) (n : Fin 8) (v : Bool) : (r.writeP n v).round = r.round := by
  unfold Regs.writeP; split <;> rfl
@[simp] theorem Regs.writeG_seed (r : Regs) (n : Fin 32) (v : Word64) : (r.writeG n v).seed = r.seed := by
  unfold Regs.writeG; split <;> rfl
@[simp] theorem Regs.writeP_seed (r : Regs) (n : Fin 8) (v : Bool) : (r.writeP n v).seed = r.seed := by
  unfold Regs.writeP; split <;> rfl
@[simp] theorem Regs.writeG_srctr (r : Regs) (n : Fin 32) (v : Word64) : (r.writeG n v).srctr = r.srctr := by
  unfold Regs.writeG; split <;> rfl
@[simp] theorem Regs.writeP_srctr (r : Regs) (n : Fin 8) (v : Bool) : (r.writeP n v).srctr = r.srctr := by
  unfold Regs.writeP; split <;> rfl
/-- R15: g0 reads 0. -/
@[simp] theorem Regs.readG_zero (r : Regs) : r.readG 0 = 0 := rfl
/-- R15: p0 reads true. -/
@[simp] theorem Regs.readP_zero (r : Regs) : r.readP 0 = true := rfl
/-- R15: a write to g0 is discarded. -/
@[simp] theorem Regs.writeG_zero (r : Regs) (v : Word64) : r.writeG 0 v = r := rfl
/-- R15: a write to p0 is discarded. -/
@[simp] theorem Regs.writeP_zero (r : Regs) (v : Bool) : r.writeP 0 v = r := rfl
/-- A general register after a write: the written one, where it is not g0, holds the value. -/
theorem Regs.readG_writeG (r : Regs) (n m : Fin 32) (v : Word64) :
    (r.writeG n v).readG m = if m = n ∧ m ≠ 0 then v else r.readG m := by
  unfold Regs.writeG Regs.readG
  by_cases hn : n = 0
  · subst hn; by_cases hm : m = 0 <;> simp [hm]
  · by_cases hm : m = 0
    · simp [hm]
    · by_cases e : m = n
      · subst e; simp [hn]
      · have : n.val ≠ m.val := fun h => e (Fin.ext h.symm)
        simp [hn, hm, e, Vector.getElem_set_ne _ _ this]
/-- A predicate after a write. -/
theorem Regs.readP_writeP (r : Regs) (n m : Fin 8) (v : Bool) :
    (r.writeP n v).readP m = if m = n ∧ m ≠ 0 then v else r.readP m := by
  unfold Regs.writeP Regs.readP
  by_cases hn : n = 0
  · subst hn; by_cases hm : m = 0 <;> simp [hm]
  · by_cases hm : m = 0
    · simp [hm]
    · by_cases e : m = n
      · subst e; simp [hn]
      · have : n.val ≠ m.val := fun h => e (Fin.ext h.symm)
        simp [hn, hm, e, Vector.getElem_set_ne _ _ this]
@[simp] theorem Regs.readP_writeG (r : Regs) (n : Fin 32) (m : Fin 8) (v : Word64) : (r.writeG n v).readP m = r.readP m := by
  simp [Regs.readP]
@[simp] theorem Regs.readG_writeP (r : Regs) (n : Fin 8) (m : Fin 32) (v : Bool) : (r.writeP n v).readG m = r.readG m := by
  simp [Regs.readG]

end Sys2Proof.Machine
end

