-- ==== Sys2Proof/Laws/Issue.lean ====
section
/-! SUPPORT. What issuing an instruction does, said once: an instruction that passes its checks is accepted with the effect its meaning
gives, and acceptance leaves everything else. -/

namespace Sys2Proof.Machine

@[simp] theorem State.withTv_me (s : State) (tv : Word64) : (s.withTv tv).me = s.me := rfl
@[simp] theorem State.withTv_myCore (s : State) (tv : Word64) : (s.withTv tv).myCore = s.myCore := rfl
@[simp] theorem State.withTv_regs (s : State) (tv : Word64) : (s.withTv tv).regs = s.regs := rfl
@[simp] theorem State.withTv_tile (s : State) (tv : Word64) (k : TileId) : (s.withTv tv).tile k = s.tile k := rfl
@[simp] theorem State.withTv_pc (s : State) (tv : Word64) : (s.withTv tv).pc = s.pc := rfl
@[simp] theorem State.withTv_stream (s : State) (tv : Word64) : (s.withTv tv).cur.stream = s.cur.stream := rfl
@[simp] theorem State.withTv_ctx (s : State) (tv : Word64) : (s.withTv tv).cur.ctx = s.cur.ctx := rfl
@[simp] theorem State.withTv_curTile (s : State) (tv : Word64) : (s.withTv tv).cur.tile = s.cur.tile := rfl
@[simp] theorem State.withTv_tv (s : State) (tv : Word64) : (s.withTv tv).cur.tv = tv := rfl
@[simp] theorem State.withTv_readG (s : State) (tv : Word64) (n : Fin 32) : (s.withTv tv).readG n = s.readG n := rfl
@[simp] theorem State.withTv_readP (s : State) (tv : Word64) (n : Fin 8) : (s.withTv tv).readP n = s.readP n := rfl

/-- An instruction that passes its checks comes to its own meaning, with tv in place. -/
theorem run_passes {i : Instr} {s : State} {tv : Word64} {own : List Post} (h : Passes i s tv own) (body : State → Flow) :
    run i body s = .next (finishFlow s (syncOf i) (body (s.withTv tv))) := by
  unfold run issue
  rw [h.cls]
  dsimp only
  rw [h.enc, h.wait]
  rfl

/-- One that its meaning accepts answers the accepted state. -/
theorem run_done {i : Instr} {s s' : State} {tv : Word64} {own : List Post} {body : State → Flow} (h : Passes i s tv own)
    (hb : body (s.withTv tv) = .done s' own) :
    run i body s = .next (passed s s' (syncOf i) (own ++ syncPost s (syncOf i))) := by
  rw [run_passes h, hb]
  simp only [finishFlow, h.post, passed]

/-- The same without posts of its own. -/
theorem run_ok {i : Instr} {s s' : State} {tv : Word64} {body : State → Flow} (h : Passes i s tv [])
    (hb : body (s.withTv tv) = ok s') : run i body s = .next (passed s s' (syncOf i) (syncPost s (syncOf i))) :=
  run_done h hb

/-- The same for a control transfer. -/
theorem run_jump {i : Instr} {s s' : State} {tv g : Word64} {body : State → Flow} (h : Passes i s tv [])
    (hb : body (s.withTv tv) = .jump s' g) : run i body s = .next (jumped s s' (syncOf i) g) := by
  have hp : postCheck s.me s.cur.stream (syncPost s (syncOf i)) = .ok := h.post
  rw [run_passes h, hb]
  simp only [finishFlow, hp, jumped]

/-- The same for an asynchronous instruction. -/
theorem run_async {i : Instr} {s s' : State} {tv : Word64} {body : State → Flow} (h : Passes i s tv [])
    (hb : body (s.withTv tv) = .async s') : run i body s = .next (begun s s' (syncOf i)) := by
  have hp : postCheck s.me s.cur.stream (syncPost s (syncOf i)) = .ok := h.post
  rw [run_passes h, hb]
  simp only [finishFlow, hp, begun]

/-- The same for a meaning that gives the whole next state. -/
theorem run_raw {i : Instr} {s s' : State} {tv : Word64} {own : List Post} {body : State → Flow} (h : Passes i s tv own)
    (hb : body (s.withTv tv) = .raw s') : run i body s = .next s' := by
  rw [run_passes h, hb]; rfl

/-- The same for a meaning that traps. -/
theorem run_trap {i : Instr} {s : State} {tv : Word64} {own : List Post} {ti : TrapInfo} {body : State → Flow} (h : Passes i s tv own)
    (hb : body (s.withTv tv) = .trap ti) : run i body s = .next (takeTrap s ti) := by
  rw [run_passes h, hb]; rfl

/-- The same for a meaning that stalls. -/
theorem run_stall {i : Instr} {s : State} {tv : Word64} {own : List Post} {w : Stall} {body : State → Flow} (h : Passes i s tv own)
    (hb : body (s.withTv tv) = .stall w) : run i body s = .next (markStall s w) := by
  rw [run_passes h, hb]; rfl

/-! ### What pops and posts leave -/

/-- One tile differs from another only in its queues, its sink mark and the ctl.lost of one core. -/
structure PostOnly (st : Stream) (x y : Tile) : Prop where
  store : y.store = x.store
  eng : y.eng = x.eng
  tile : SameTileRest st x y
  core : ∃ l : BitVec 32, y.core st = { x.core st with u := { (x.core st).u with lost := l } }

theorem SameTileRest.trans {st : Stream} {x y z : Tile} (a : SameTileRest st x y) (b : SameTileRest st y z) : SameTileRest st x z :=
  ⟨fun u h => (b.cores u h).trans (a.cores u h), b.task.trans a.task, b.drain.trans a.drain, b.blocked.trans a.blocked,
   b.wcount.trans a.wcount, b.cycle.trans a.cycle, b.residues.trans a.residues, b.columns.trans a.columns, b.degraded.trans a.degraded⟩

theorem SameTileRest.refl (st : Stream) (x : Tile) : SameTileRest st x x := ⟨fun _ _ => rfl, rfl, rfl, rfl, rfl, rfl, rfl, rfl, rfl⟩

theorem PostOnly.refl (st : Stream) (x : Tile) : PostOnly st x x := ⟨rfl, rfl, .refl st x, _, rfl⟩

theorem PostOnly.trans {st : Stream} {x y z : Tile} (a : PostOnly st x y) (b : PostOnly st y z) : PostOnly st x z := by
  obtain ⟨l, hl⟩ := a.core
  obtain ⟨m, hm⟩ := b.core
  exact ⟨b.store.trans a.store, b.eng.trans a.eng, a.tile.trans b.tile, m, by rw [hm, hl]⟩

theorem PostOnly.setQueue (st : Stream) (x : Tile) (q : Fin 6) (v : TokQ) : PostOnly st x (x.setQueue q v) :=
  ⟨rfl, rfl, ⟨fun _ _ => by simp, rfl, rfl, rfl, rfl, rfl, rfl, rfl, rfl⟩, (x.core st).u.lost, by simp⟩

/-- A list of changes each of which touches queues only touches queues only. -/
theorem PostOnly.foldl {α : Type} (st : Stream) (f : Tile → α → Tile) (hf : ∀ x a, PostOnly st x (f x a)) (l : List α) (x : Tile) :
    PostOnly st x (l.foldl f x) := by
  induction l generalizing x with
  | nil => exact .refl st x
  | cons a r ih => exact (hf x a).trans (ih _)

theorem popWait_postOnly (x : Tile) (st : Stream) (w : Option WaitSpec) : PostOnly st x (popWait x st w) := by
  cases w with
  | none => exact .refl st x
  | some w => exact PostOnly.foldl st _ (fun _ _ => PostOnly.setQueue st _ _ _) _ x

theorem postTok_postOnly (x : Tile) (st : Stream) (o : Nat) (b : Bool) (tok : BitVec 16) : PostOnly st x (postTok x st o b tok) := by
  unfold postTok
  split
  · exact ⟨rfl, rfl, ⟨fun u _ => by cases u <;> rfl, rfl, rfl, rfl, rfl, rfl, rfl, rfl, rfl⟩, (x.core st).u.lost, by cases st <;> rfl⟩
  · exact ⟨by simp, by simp,
      ⟨fun u h => Tile.core_setCore_ne _ _ _ _ h, by simp, by simp, by simp, by simp, by simp, by simp, by simp, by simp⟩,
      bumpLost (x.core st).u.lost, by simp⟩

theorem postToks_postOnly (st : Stream) (b : Bool) (tok : BitVec 16) (n : Nat) (x : Tile) (o : Nat) :
    PostOnly st x (postToks x st o b tok n) := by
  induction n generalizing x with
  | zero => exact .refl st x
  | succ n ih => exact (postTok_postOnly x st o b tok).trans (ih _)

theorem makePosts_postOnly (x : Tile) (st : Stream) (ps : List Post) : PostOnly st x (makePosts x st ps) :=
  PostOnly.foldl st _ (fun y p => PostOnly.foldl st _ (fun z b => postToks_postOnly st b _ _ z _) _ y) ps x

theorem reserveAt_postOnly (x : Tile) (st : Stream) (f : TokQ → TokQ) (b : Bool) : PostOnly st x (reserveAt x st f b) := by
  unfold reserveAt
  split
  · exact .refl st x
  · exact PostOnly.setQueue st _ _ _

theorem postQueues_postOnly (x : Tile) (st : Stream) (f : TokQ → TokQ) (p : Option PendPost) : PostOnly st x (postQueues x st f p) := by
  cases p with
  | none => exact .refl st x
  | some p => exact PostOnly.foldl st _ (fun y b => reserveAt_postOnly y st f b) _ x

theorem reservePost_postOnly (x : Tile) (st : Stream) (p : Option PendPost) : PostOnly st x (reservePost x st p) :=
  postQueues_postOnly x st _ p

/-! ### Acceptance -/

theorem keepUser_of_store {s s' : State} (h : s'.me.store = s.me.store) : keepUser s s' = s' := by
  unfold keepUser
  dsimp only
  split
  · have : { s'.me with store := { s'.me.store with v := s.me.store.v, mask := s.me.store.mask, depth := s.me.store.depth, acc := s.me.store.acc, accBad := s.me.store.accBad, shadow := s.me.store.shadow } } = s'.me := by
      rw [h.symm]
    rw [this, State.setMe_me]
  · rfl

/-- Outside share mode beside a task (R161) an accepted instruction's effect is kept whole. -/
theorem keepUser_of_user {s s' : State} (h : s.cur.ctx = .user) : keepUser s s' = s' := by
  simp [keepUser, h]

theorem SameOutside.setMe (s : State) (x : Tile) : SameOutside s (s.setMe x) :=
  ⟨fun _ h => State.tile_setMe_ne s _ x h, fun _ => rfl, rfl, rfl, rfl, rfl, rfl, rfl, rfl, rfl, rfl, rfl⟩

theorem retire_me (s : State) : (retire s).me = s.me.setCore s.cur.stream (s.myCore.spent s.me.task.isSome s.cur.ctx) := by
  simp [retire, State.setMyCore, State.me, State.tile, State.setMe, State.setTile]

/-- What an accepted instruction leaves, whatever its effect `u` on the acting tile and its registers `r`: acceptance adds the pops, the
posts and the marks of the issue slot. -/
structure AcceptedFrom (u t : State) (r : Regs) (sy : Sync) (posts : List Post) : Prop where
  rest : SameRest u t
  store : t.me.store = u.me.store
  eng : t.me.eng = u.me.eng
  tokens : TokensMoved u t sy posts
  regs : t.regs = r

theorem setRegs_core_rest (u : State) (r : Regs) : SameCoreRest u.cur.ctx u.myCore (u.setRegs r).myCore := by
  have : (u.setRegs r).myCore = u.myCore.setRegs u.cur.ctx r := by simp [State.setRegs]
  rw [this]
  exact ⟨fun l h => Core.regs_setRegs_ne _ _ _ _ h, by simp, by simp, by simp, by simp, by simp, by simp, by simp, fun _ => by simp,
    by simp, by simp, by simp, by simp, by simp, by simp, by simp⟩

/-- Two tiles with the same queues and the same live streams: pops and posts do the same to both. -/
structure SameQueues (x y : Tile) : Prop where
  queues : y.queues = x.queues
  life : ∀ st, (y.core st).u.life = (x.core st).u.life
  order : y.eng.order = x.eng.order

theorem SameQueues.queue {x y : Tile} (h : SameQueues x y) (q : Fin 6) : y.queue q = x.queue q := by
  simp [Tile.queue, h.queues]

theorem SameQueues.live {x y : Tile} (h : SameQueues x y) (st : Stream) (b : Bool) : y.consumerLive st b = x.consumerLive st b := by
  simp [Tile.consumerLive, h.life]

theorem SameQueues.setQueue {x y : Tile} (h : SameQueues x y) (q : Fin 6) (v : TokQ) : SameQueues (x.setQueue q v) (y.setQueue q v) :=
  ⟨by simp [Tile.setQueue, h.queues], fun st => by simp [h.life], h.order⟩

theorem SameQueues.foldl {α : Type} {f : Tile → α → Tile} (hf : ∀ x y a, SameQueues x y → SameQueues (f x a) (f y a)) (l : List α)
    {x y : Tile} (h : SameQueues x y) : SameQueues (l.foldl f x) (l.foldl f y) := by
  induction l generalizing x y with
  | nil => exact h
  | cons a r ih => exact ih (hf x y a h)

theorem SameQueues.popWait {x y : Tile} (h : SameQueues x y) (st : Stream) (w : Option WaitSpec) :
    SameQueues (Machine.popWait x st w) (Machine.popWait y st w) := by
  cases w with
  | none => exact h
  | some w =>
    refine SameQueues.foldl (fun a b c hab => ?_) _ h
    rw [hab.queue]
    exact hab.setQueue _ _

theorem SameQueues.postTok {x y : Tile} (h : SameQueues x y) (st : Stream) (o : Nat) (b : Bool) (tok : BitVec 16) :
    SameQueues (Machine.postTok x st o b tok) (Machine.postTok y st o b tok) := by
  unfold Machine.postTok
  rw [h.live, h.queue]
  split
  · have hq := h.setQueue (queueOut st b) ((x.queue (queueOut st b)).push o tok)
    exact ⟨hq.queues, fun u => by cases u <;> first | exact hq.life .load | exact hq.life .compute | exact hq.life .store, hq.order⟩
  · refine ⟨by simp [h.queues], fun u => ?_, by simp [h.order]⟩
    by_cases e : u = st
    · subst e; simp [h.life]
    · rw [Tile.core_setCore_ne _ _ _ _ e, Tile.core_setCore_ne _ _ _ _ e, h.life]

theorem SameQueues.postToks (st : Stream) (o : Nat) (b : Bool) (tok : BitVec 16) (n : Nat) {x y : Tile} (h : SameQueues x y) :
    SameQueues (Machine.postToks x st o b tok n) (Machine.postToks y st o b tok n) := by
  induction n generalizing x y with
  | zero => exact h
  | succ n ih => exact ih (h.postTok st o b tok)

theorem SameQueues.makePost {x y : Tile} (h : SameQueues x y) (st : Stream) (p : Post) :
    SameQueues (Machine.makePost x st p) (Machine.makePost y st p) := by
  unfold Machine.makePost
  rw [h.order]
  exact SameQueues.foldl (fun _ _ b hcd => SameQueues.postToks st x.eng.order b p.tok p.n hcd) _ h

theorem SameQueues.makePosts {x y : Tile} (h : SameQueues x y) (st : Stream) (ps : List Post) :
    SameQueues (Machine.makePosts x st ps) (Machine.makePosts y st ps) :=
  SameQueues.foldl (f := fun y p => Machine.makePost y st p) (fun _ _ p hab => hab.makePost st p) _ h

theorem SameQueues.setCore_self {x : Tile} {st : Stream} {c : Core} (h : c.u.life = (x.core st).u.life) : SameQueues x (x.setCore st c) :=
  ⟨by simp, fun u => by
    by_cases e : u = st
    · subst e; simp [h]
    · rw [Tile.core_setCore_ne _ _ _ _ e], by simp⟩

theorem setRegs_me (u : State) (r : Regs) : (u.setRegs r).me = u.me.setCore u.cur.stream (u.myCore.setRegs u.cur.ctx r) := by
  simp [State.setRegs, State.setMyCore]

theorem setRegs_sameQueues (u : State) (r : Regs) : SameQueues u.me (u.setRegs r).me := by
  rw [setRegs_me]
  exact SameQueues.setCore_self (by simp [State.myCore])

/-- Of a service context the payment of its slot changes the credit only (R160). -/
theorem payShare_same (b : Bool) (v : SvCtx) : ∃ n, payShare b v = { v with credit := n } := by
  unfold payShare; split <;> exact ⟨_, rfl⟩

theorem payShare_credit (b : Bool) (v : SvCtx) (r : Regs) : (payShare b { v with regs := r }).credit = (payShare b v).credit := by
  unfold payShare; split <;> simp_all

/-- What a spent issue slot leaves of its core. -/
theorem spent_rest (k : CtxKind) (c : Core) (r : Regs) (l : BitVec 32) (b : Bool) :
    SameCoreRest k c ({ c.setRegs k r with u := { (c.setRegs k r).u with lost := l } }.spent b k) := by
  cases k
  · exact ⟨fun l h => by cases l <;> first | rfl | exact absurd rfl h, rfl, rfl, rfl, rfl, rfl, rfl, rfl, fun _ => rfl, rfl, rfl, rfl, rfl, rfl,
      rfl, rfl⟩
  · obtain ⟨n, hn⟩ := payShare_same b { c.v with regs := r }
    simp only [Core.spent, Core.setRegs, hn]
    exact ⟨fun l h => by cases l <;> first | rfl | exact absurd rfl h, rfl, rfl, rfl, rfl, rfl, rfl, rfl, fun h => by simp at h, rfl, rfl, rfl,
      rfl, rfl, rfl, rfl⟩

/-- A change of the acting tile that touches queues and ctl.lost only, on top of new registers, and the end of the issue slot. -/
theorem retire_rest (u : State) (r : Regs) (y : Tile) (h : PostOnly u.cur.stream (u.setRegs r).me y) :
    SameRest u (retire ((u.setRegs r).setMe y)) ∧ (retire ((u.setRegs r).setMe y)).me.store = u.me.store ∧
    (retire ((u.setRegs r).setMe y)).me.eng = u.me.eng ∧ (retire ((u.setRegs r).setMe y)).me.queues = y.queues ∧
    (retire ((u.setRegs r).setMe y)).regs = r := by
  have hme : (retire ((u.setRegs r).setMe y)).me = y.setCore u.cur.stream ((y.core u.cur.stream).spent u.me.task.isSome u.cur.ctx) := by
    rw [retire_me]; simp [State.myCore, h.tile.task]
  have hcore : (retire ((u.setRegs r).setMe y)).myCore = (y.core u.cur.stream).spent u.me.task.isSome u.cur.ctx := by
    have : (retire ((u.setRegs r).setMe y)).myCore = (retire ((u.setRegs r).setMe y)).me.core u.cur.stream := rfl
    rw [this, hme]; simp
  obtain ⟨l, hl⟩ := h.core
  have hc0 : (u.setRegs r).me.core u.cur.stream = u.myCore.setRegs u.cur.ctx r := by rw [setRegs_me]; simp
  rw [hc0] at hl
  have hmr : ∀ st, st ≠ u.cur.stream → (u.setRegs r).me.core st = u.me.core st := fun st hs => by
    rw [setRegs_me, Tile.core_setCore_ne _ _ _ _ hs]
  refine ⟨⟨⟨fun k hk => ?_, fun _ => rfl, rfl, rfl, rfl, rfl, rfl, rfl, rfl, rfl, rfl, rfl⟩, ?_, ?_, rfl, ?_⟩, ?_, ?_, ?_, ?_⟩
  · have h1 : (retire ((u.setRegs r).setMe y)).tile k = ((u.setRegs r).setMe y).tile k :=
      State.tile_setMe_ne ((u.setRegs r).setMe y) k _ hk
    rw [h1, State.tile_setMe_ne _ _ _ (by simpa using hk)]
    exact State.tile_setMe_ne u k _ hk
  · rw [hme]
    refine ⟨fun v hv => ?_, by simp [h.tile.task], by simp [h.tile.drain], by simp [h.tile.blocked], by simp [h.tile.wcount],
      by simp [h.tile.cycle], by simp [h.tile.residues], by simp [h.tile.columns], by simp [h.tile.degraded]⟩
    rw [Tile.core_setCore_ne _ _ _ _ hv, h.tile.cores v hv, hmr v hv]
  · rw [hcore, hl]
    exact spent_rest u.cur.ctx u.myCore r l _
  · intro hk
    rw [hcore, hl, hk]
    simp [Core.spent, Core.setRegs, payShare_credit]
  · rw [hme]; simp [h.store]
  · rw [hme]; simp [h.eng]
  · rw [hme]; simp
  · have : (retire ((u.setRegs r).setMe y)).regs = (retire ((u.setRegs r).setMe y)).myCore.regs u.cur.ctx := rfl
    rw [this, hcore, hl]
    rw [Core.regs_spent]; cases hk : u.cur.ctx <;> rfl

/-- Acceptance in one lemma: over an effect `u` with registers `r` nothing else changes but the tokens of the SYNC field. -/
theorem accepted (u : State) (r : Regs) (sy : Sync) (posts : List Post) :
    AcceptedFrom u (retire (accept (u.setRegs r) sy posts)) r sy posts := by
  have h := retire_rest u r (makePosts (popWait (u.setRegs r).me u.cur.stream sy.wait) u.cur.stream posts)
    ((popWait_postOnly _ _ _).trans (makePosts_postOnly _ _ _))
  have hq := ((setRegs_sameQueues u r).popWait u.cur.stream sy.wait).makePosts u.cur.stream posts
  exact ⟨h.1, h.2.1, h.2.2.1, h.2.2.2.1.trans hq.queues, h.2.2.2.2⟩

theorem SameRest.of_withTv {s t : State} {tv : Word64} (h : SameRest (s.withTv tv) t) : SameRest s t :=
  ⟨⟨h.outside.tiles, h.outside.hbm, h.outside.sectors, h.outside.pages, h.outside.disp, h.outside.fab, h.outside.host, h.outside.time, h.outside.gang,
    h.outside.hk, h.outside.sec, h.outside.ctrs⟩, h.tile, h.core, h.cur, h.share⟩

/-- An accepted instruction whose effect is on the registers of its context: those registers, and nothing else but tokens. -/
theorem passed_regs (s : State) (tv : Word64) (r : Regs) (sy : Sync) (posts : List Post) :
    (passed s ((s.withTv tv).setRegs r) sy posts).regs = loopNext r r.pc ∧
    RegsOnly s (passed s ((s.withTv tv).setRegs r) sy posts) sy posts := by
  have hk : keepUser s ((s.withTv tv).setRegs r) = (s.withTv tv).setRegs r := keepUser_of_store (by simp)
  have hp : passed s ((s.withTv tv).setRegs r) sy posts = retire (accept ((s.withTv tv).setRegs (loopNext r r.pc)) sy posts) := by
    simp [passed, hk]
  have h := accepted (s.withTv tv) (loopNext r r.pc) sy posts
  rw [hp]
  exact ⟨h.regs, h.rest.of_withTv, h.store, h.eng, h.tokens⟩

/-- The same for a control transfer. -/
theorem jumped_regs (s : State) (tv : Word64) (r : Regs) (sy : Sync) (g : Word64) :
    (jumped s ((s.withTv tv).setRegs r) sy g).regs = { r with pc := g } ∧
    RegsOnly s (jumped s ((s.withTv tv).setRegs r) sy g) sy (syncPost s sy) := by
  have hp : jumped s ((s.withTv tv).setRegs r) sy g = retire (accept ((s.withTv tv).setRegs { r with pc := g }) sy (syncPost s sy)) := by
    simp [jumped]
  have h := accepted (s.withTv tv) { r with pc := g } sy (syncPost s sy)
  rw [hp]
  exact ⟨h.regs, h.rest.of_withTv, h.store, h.eng, h.tokens⟩

/-- An instruction whose whole effect is new registers of its context at the same PC. -/
theorem run_setRegs {i : Instr} {s : State} {tv : Word64} {r : Regs} {own : List Post} {body : State → Flow} (h : Passes i s tv own)
    (hb : body (s.withTv tv) = .done ((s.withTv tv).setRegs r) own) (hpc : r.pc = s.pc) :
    ∃ t, run i body s = .next t ∧ RegsOnly s t (syncOf i) (own ++ syncPost s (syncOf i)) ∧ t.regs = loopNext r s.pc := by
  have hr := passed_regs s tv r (syncOf i) (own ++ syncPost s (syncOf i))
  exact ⟨_, run_done h hb, hr.2, by rw [hr.1, hpc]⟩

/-- One whose whole effect is a general register. -/
theorem run_writeG {i : Instr} {s : State} {tv v : Word64} {d : Fin 32} {body : State → Flow} (h : Passes i s tv [])
    (hb : body (s.withTv tv) = ok ((s.withTv tv).writeG d v)) :
    ∃ t, run i body s = .next t ∧ RegsOnly s t (syncOf i) (syncPost s (syncOf i)) ∧ t.regs = loopNext (s.regs.writeG d v) s.pc :=
  run_setRegs h hb (Regs.writeG_pc _ _ _)

/-- One whose whole effect is a predicate. -/
theorem run_writeP {i : Instr} {s : State} {tv : Word64} {d : Fin 8} {v : Bool} {body : State → Flow} (h : Passes i s tv [])
    (hb : body (s.withTv tv) = ok ((s.withTv tv).writeP d v)) :
    ∃ t, run i body s = .next t ∧ RegsOnly s t (syncOf i) (syncPost s (syncOf i)) ∧ t.regs = loopNext (s.regs.writeP d v) s.pc :=
  run_setRegs h hb (Regs.writeP_pc _ _ _)

/-- One with no effect of its own. -/
theorem run_nothing {i : Instr} {s : State} {tv : Word64} {own : List Post} {body : State → Flow} (h : Passes i s tv own)
    (hb : body (s.withTv tv) = .done (s.withTv tv) own) :
    ∃ t, run i body s = .next t ∧ RegsOnly s t (syncOf i) (own ++ syncPost s (syncOf i)) ∧ t.regs = loopNext s.regs s.pc := by
  have e : (s.withTv tv).setRegs s.regs = s.withTv tv := State.setRegs_regs (s.withTv tv)
  exact run_setRegs h (by rw [e]; exact hb) rfl

/-- A control transfer over new registers. -/
theorem run_jumpRegs {i : Instr} {s : State} {tv g : Word64} {r : Regs} {body : State → Flow} (h : Passes i s tv [])
    (hb : body (s.withTv tv) = .jump ((s.withTv tv).setRegs r) g) :
    ∃ t, run i body s = .next t ∧ RegsOnly s t (syncOf i) (syncPost s (syncOf i)) ∧ t.regs = { r with pc := g } :=
  ⟨_, run_jump h hb, (jumped_regs s tv r (syncOf i) g).2, (jumped_regs s tv r (syncOf i) g).1⟩

end Sys2Proof.Machine
end

