-- ==== Sys2Proof/Laws/Map.lean ====
section
/-! SUPPORT. Sparse maps and memories: a read after a write gives what was written, other places are left alone, and every operation keeps the
canonical form. -/

namespace Sys2Proof.Machine

section sparse
variable {α : Type}

theorem smGet_erase_self (d : α) (k : Nat) (m : SMap α) : smGet d k (smErase k m) = d := by
  induction m with
  | nil => rfl
  | cons e r ih =>
    obtain ⟨a, v⟩ := e
    by_cases h : a = k <;> simp [smErase, h, smGet, ih]

theorem smGet_erase_ne (d : α) (k j : Nat) (h : j ≠ k) (m : SMap α) : smGet d j (smErase k m) = smGet d j m := by
  induction m with
  | nil => rfl
  | cons e r ih =>
    obtain ⟨a, v⟩ := e
    by_cases ha : a = k
    · subst ha; simp [smErase, smGet, ih, Ne.symm h]
    · simp [smErase, ha, smGet, ih]

theorem smGet_insert_ne (d : α) (k j : Nat) (v : α) (h : j ≠ k) (m : SMap α) : smGet d j (smInsert k v m) = smGet d j m := by
  induction m with
  | nil => simp [smInsert, smGet, Ne.symm h]
  | cons e r ih =>
    obtain ⟨a, w⟩ := e
    by_cases ha : k < a
    · simp [smInsert, ha, smGet, Ne.symm h]
    · simp [smInsert, ha, smGet, ih]

theorem smGet_insert_erase (d : α) (k : Nat) (v : α) (m : SMap α) : smGet d k (smInsert k v (smErase k m)) = v := by
  induction m with
  | nil => simp [smErase, smInsert, smGet]
  | cons e r ih =>
    obtain ⟨a, w⟩ := e
    by_cases h : a = k
    · simp [smErase, h, ih]
    · by_cases ha : k < a
      · simp [smErase, h, smInsert, ha, smGet]
      · simp [smErase, h, smInsert, ha, smGet, ih]

theorem smErase_not_mem (k : Nat) (m : SMap α) : ∀ e ∈ smErase k m, e.1 ≠ k := by
  induction m with
  | nil => intro e he; cases he
  | cons x r ih =>
    obtain ⟨a, v⟩ := x
    intro e he
    by_cases ha : a = k
    · simp only [smErase, ha, if_true] at he; exact ih e he
    · simp only [smErase, ha, if_false, List.mem_cons] at he
      rcases he with rfl | he
      · exact ha
      · exact ih e he

variable [DecidableEq α]

/-- A read of the key just set gives the value set. -/
@[simp] theorem smGet_set_self (d : α) (k : Nat) (v : α) (m : SMap α) : smGet d k (smSet d k v m) = v := by
  unfold smSet
  split
  · next h => rw [h, smGet_erase_self]
  · exact smGet_insert_erase d k v m

/-- A read of another key gives what was there. -/
theorem smGet_set_ne (d : α) (k j : Nat) (v : α) (h : j ≠ k) (m : SMap α) : smGet d j (smSet d k v m) = smGet d j m := by
  unfold smSet
  split
  · exact smGet_erase_ne d k j h m
  · rw [smGet_insert_ne d k j v h, smGet_erase_ne d k j h]

/-- Both at once. -/
theorem smGet_set (d : α) (k j : Nat) (v : α) (m : SMap α) : smGet d j (smSet d k v m) = if j = k then v else smGet d j m := by
  by_cases h : j = k
  · subst h; simp
  · simp [h, smGet_set_ne d k j v h]

/-- Whether a key lies above a bound. -/
def aboveOpt (lo : Option Nat) (k : Nat) : Prop := ∀ l, lo = some l → l < k

theorem smWfFrom_cons (d : α) (lo : Option Nat) (k : Nat) (v : α) (r : SMap α) :
    smWfFrom d lo ((k, v) :: r) = true ↔ aboveOpt lo k ∧ v ≠ d ∧ smWfFrom d (some k) r = true := by
  cases lo <;> simp [smWfFrom, aboveOpt, and_assoc]

theorem smWfFrom_mono (d : α) (lo lo' : Option Nat) (m : SMap α) (h : smWfFrom d lo m = true)
    (hl : ∀ k, aboveOpt lo k → aboveOpt lo' k) : smWfFrom d lo' m = true := by
  cases m with
  | nil => rfl
  | cons e r =>
    obtain ⟨k, v⟩ := e
    rw [smWfFrom_cons] at h ⊢
    exact ⟨hl k h.1, h.2⟩

theorem smErase_wfFrom (d : α) (k : Nat) (lo : Option Nat) (m : SMap α) (h : smWfFrom d lo m = true) :
    smWfFrom d lo (smErase k m) = true := by
  induction m generalizing lo with
  | nil => rfl
  | cons e r ih =>
    obtain ⟨a, v⟩ := e
    rw [smWfFrom_cons] at h
    by_cases ha : a = k
    · simp only [smErase, ha, if_true]
      exact ih lo (smWfFrom_mono d (some a) lo r h.2.2 fun j hj l hl => Nat.lt_trans (h.1 l hl) (hj a rfl))
    · simp only [smErase, ha, if_false]
      rw [smWfFrom_cons]
      exact ⟨h.1, h.2.1, ih (some a) h.2.2⟩

theorem smInsert_wfFrom (d : α) (k : Nat) (v : α) (hv : v ≠ d) (lo : Option Nat) (hk : aboveOpt lo k) (m : SMap α)
    (h : smWfFrom d lo m = true) (hm : ∀ e ∈ m, e.1 ≠ k) : smWfFrom d lo (smInsert k v m) = true := by
  induction m generalizing lo with
  | nil =>
    show smWfFrom d lo [(k, v)] = true
    rw [smWfFrom_cons]; exact ⟨hk, hv, rfl⟩
  | cons e r ih =>
    obtain ⟨a, w⟩ := e
    rw [smWfFrom_cons] at h
    by_cases ha : k < a
    · simp only [smInsert, ha, if_true]
      rw [smWfFrom_cons, smWfFrom_cons]
      exact ⟨hk, hv, fun l hl => by cases hl; exact ha, h.2.1, h.2.2⟩
    · simp only [smInsert, ha, if_false]
      rw [smWfFrom_cons]
      have hne : a ≠ k := hm (a, w) (by simp)
      exact ⟨h.1, h.2.1, ih (some a) (fun l hl => by cases hl; omega) h.2.2 fun e he => hm e (by simp [he])⟩

/-- Setting a key keeps the canonical form. -/
theorem smSet_wf (d : α) (k : Nat) (v : α) (m : SMap α) (h : smWf d m = true) : smWf d (smSet d k v m) = true := by
  have he := smErase_wfFrom d k none m h
  unfold smSet
  split
  · exact he
  · next hv => exact smInsert_wfFrom d k v hv none (fun l hl => by cases hl) _ he (smErase_not_mem k m)

theorem smErase_wf (d : α) (k : Nat) (m : SMap α) (h : smWf d m = true) : smWf d (smErase k m) = true := smErase_wfFrom d k none m h

end sparse

/-- A memory read at the byte just written. -/
@[simp] theorem memGet_set_self (m : SMap Byte) (a : Nat) (b : Byte) : memGet (memSet m a b) a = b := smGet_set_self _ _ _ _

theorem memGet_set_ne (m : SMap Byte) (a c : Nat) (b : Byte) (h : c ≠ a) : memGet (memSet m a b) c = memGet m c :=
  smGet_set_ne _ _ _ _ h _

/-- Every byte after a write of a byte string: the written ones, and the rest as before. -/
theorem memGet_write (bs : List Byte) (m : SMap Byte) (a c : Nat) :
    memGet (memWrite m a bs) c = if a ≤ c ∧ c < a + bs.length then bs.getD (c - a) 0 else memGet m c := by
  induction bs generalizing m a with
  | nil => simp only [memWrite, List.length_nil, Nat.add_zero]; rw [if_neg (by omega)]
  | cons b r ih =>
    rw [memWrite, ih]
    by_cases h1 : a + 1 ≤ c ∧ c < a + 1 + r.length
    · have h2 : a ≤ c ∧ c < a + (b :: r).length := by simp; omega
      have e : c - a = (c - (a + 1)) + 1 := by omega
      rw [if_pos h1, if_pos h2, e, List.getD_cons_succ]
    · rw [if_neg h1]
      by_cases h3 : c = a
      · subst h3
        have h2 : c ≤ c ∧ c < c + (b :: r).length := by simp
        rw [if_pos h2]; simp
      · have h2 : ¬(a ≤ c ∧ c < a + (b :: r).length) := by simp; simp at h1; omega
        rw [if_neg h2, memGet_set_ne _ _ _ _ h3]

/-- The bytes just written are read back. -/
theorem memRead_length (m : SMap Byte) (a n : Nat) : (memRead m a n).length = n := by
  induction n generalizing a with
  | zero => rfl
  | succ n ih => simp [memRead, ih]

theorem memRead_getD (m : SMap Byte) (a n i : Nat) (h : i < n) : (memRead m a n).getD i 0 = memGet m (a + i) := by
  induction n generalizing a i with
  | zero => omega
  | succ n ih =>
    cases i with
    | zero => simp [memRead]
    | succ i => rw [memRead, List.getD_cons_succ, ih _ _ (by omega)]; congr 1; omega

theorem memRead_write (m : SMap Byte) (a : Nat) (bs : List Byte) : memRead (memWrite m a bs) a bs.length = bs := by
  apply List.ext_getElem
  · exact memRead_length _ _ _
  · intro i h1 h2
    have := memRead_getD (memWrite m a bs) a bs.length i h2
    rw [memGet_write, if_pos ⟨by omega, by omega⟩] at this
    simpa [List.getD_eq_getElem?_getD, h1, h2] using this

/-- Every memory operation keeps the canonical form. -/
theorem memSet_wf (m : SMap Byte) (a : Nat) (b : Byte) (h : Mem.wf m = true) : Mem.wf (memSet m a b) = true := smSet_wf _ _ _ _ h

theorem memWrite_wf (bs : List Byte) (m : SMap Byte) (a : Nat) (h : Mem.wf m = true) : Mem.wf (memWrite m a bs) = true := by
  induction bs generalizing m a with
  | nil => exact h
  | cons b r ih => exact ih _ _ (memSet_wf m a b h)

/-- Reset memories are in canonical form. -/
theorem reset_hbm_wf : Mem.wf State.reset.hbm = true := rfl

theorem leBytes_length (n x : Nat) : (leBytes n x).length = n := by
  induction n generalizing x with
  | zero => rfl
  | succ n ih => simp [leBytes, ih]

/-- The bytes of a number, read as a number (R6). -/
theorem leNat_leBytes (n x : Nat) : leNat (leBytes n x) = x % 256 ^ n := by
  induction n generalizing x with
  | zero => simp [leBytes, leNat, Nat.mod_one]
  | succ n ih =>
    rw [leBytes, leNat, ih, Nat.pow_succ', Nat.mod_mul]
    simp

end Sys2Proof.Machine
end

