-- ==== Sys2Proof/Tests/Slice0.lean ====
section
/-! SUPPORT. Tests: an ill-formed term for each check of WellFormed, words written out from the spec's encodings, the spec's worked examples, and
for the statements of Certificates/Slice0/Obligations.lean a state and operands that meet the hypotheses of each clause. -/

open Sys2Proof Sys2Proof.Machine

set_option Elab.async false

namespace Sys2Proof.Tests

/-! ### Ill-formed instructions -/

/-- tv named without a wait (R37). -/
theorem test_wf_tv :
    [Instr.add ⟨.d, 1, .tv, .lit 0⟩ {}, .clz .d 1 .tv {}, .jmp .tv 0 {}, .call 1 (.ind .tv 0) {}, .ret .tv {}, .exit (.reg .tv) {},
     .lea 1 (.off .tv 0) {}, .lea 1 (.idx (.g 1) .tv 0 0) {}, .ld false .d 1 ⟨.tv, .lit 0⟩ {}, .st .d ⟨.g 1, .reg .tv⟩ (.g 2) {},
     .dld ⟨0, .tv, .g 1, 0, 0⟩ {}, .dldx ⟨0, .g 1, .g 2, .tv, 1, 0⟩ {}, .dcpy ⟨0, .g 1, .g 2, .tv, 0⟩ {}, .chwait 0 (.wm (.reg .tv)) {},
     .vadd ⟨.s32, .n1, 1, 2, .reg .tv⟩ {}, .svret (.done .tv) {}, .saveq 1 .tv 0 {}, .loadq (.g 1) 0 .tv {}, .idle 1 .tv {}].all
      (fun i => !i.wf) = true := by decide

/-- Scalar checks: bit fields (R80, R81), MOVI (R78), control numbers (R22), LOOP (R88), TKGET (R110), TKPUT (R111), TKPRIME (R112). -/
theorem test_wf_scalar :
    [Instr.bfx false .d 1 (.g 2) 0 0 {}, .bfi .b 1 (.g 2) (.g 3) 4 5 {}, .movi .hi .w 1 (.g 2) 0 {}, .movi .s .d 1 (.g 2) 0 {},
     .ctlrd 1 0x0B {}, .ctlwr 0x16 (.lit 0) {}, .loop 0 0 (.lit 1) {}, .tkget 1 {}, .tkput .first false (.lit 0x10000) {},
     .tkprime .first false 14 0 1 {}, .tkprime .first false 1 0 0 {}, .tkprime .first false 1 0 17 {}].all (fun i => !i.wf) = true := by decide

/-- Memory and transfer checks: orders (R95, R104), atomic widths (R99), .arrive's C, fences, CFENCE's mask (R331), flag registers (R322). -/
theorem test_wf_memory :
    [Instr.ldg false .d .rel .mod 1 ⟨.g 1, .lit 0⟩ {}, .stg .d .acq .mod ⟨.g 1, .lit 0⟩ (.g 2) {},
     .atom .fadd true .rlx .mod 1 ⟨.g 1, .lit 0⟩ (.g 2) {}, .atom .amax false .rlx .mod 1 ⟨.g 1, .lit 0⟩ (.g 2) {},
     .atom .arrive true .rlx .mod 1 ⟨.g 1, .lit 0⟩ (.g 2) {}, .fence .rlx .mod {}, .xfence .rlx .mod true true {},
     .xfence .sc .mod false false {}, .cfence 0 {}, .dst ⟨0, .g 1, .g 2, 0, 0⟩ (some ⟨.mod, 0⟩) {},
     .rput ⟨0, .g 1, .g 2, .g 3, 0⟩ (some ⟨.mod, 0⟩) {}].all (fun i => !i.wf) = true := by decide

/-- Vector checks: spans (R167), types (R190, R194), conversions (R200, R201, R203), index widths (R188, R204), VRED and VSCAN (R207, R210). -/
theorem test_wf_vector :
    [Instr.vld .n4 2 ⟨.g 1, .lit 0⟩ {}, .vst .n2 ⟨.g 1, .lit 0⟩ 1 {}, .vldx .s4 .n1 1 (.g 1) 8 0 {}, .vstx .s8 .n1 (.g 1) 2 1 0 {},
     .vmov .n2 0 1 {}, .vadd ⟨.f32, .n1, 1, 2, .vec 3⟩ {}, .vadd ⟨.s32, .n2, 2, 4, .vec 5⟩ {}, .vmadd ⟨.s32, .n2, 2, 4, .vec 6⟩ 1 {},
     .vclz ⟨.f32, .n1, 1, 2⟩ {}, .vidx .f32 .n1 1 (.lit 0) {}, .vdot4 true true false .n2 1 2 (.vec 4) {},
     .vfadd .rne ⟨.e4m3, .n1, 1, 2, .vec 3⟩ {}, .vfma .rne ⟨.f32, .n2, 2, 4, .vec 6⟩ 1 {}, .vfsqrt .rne ⟨.s32, .n1, 1, 2⟩ {},
     .vcvt false .s8 .s16 .rne .n1 1 2 {}, .vcvt false .f32 .bf16 .rne .n1 1 2 {}, .vwiden .s8 .s16 .n1 2 4 {}, .vnarrow false .s16 .s8 .n1 2 4 {},
     .vbscale true .h16 .f32 .rne .n1 8 1 2 {}, .vperm .s4 .n1 1 2 3 {}, .vslide true .s8 .n2 1 2 (.lit 1) {}, .vzip .s8 .n1 1 2 3 {},
     .vunzip .s8 .n1 2 1 {}, .vred .and false false .rne ⟨.f32, .n1, 1, 2⟩ {}, .vred .add true false .rne ⟨.s32, .n1, 1, 2⟩ {},
     .vred .max false false .rtz ⟨.f32, .n1, 1, 2⟩ {}, .vscan .max .rtz ⟨.f32, .n1, 1, 2⟩ {}, .vcompr ⟨.s8, .n2, 1, 2⟩ {},
     .vmpush .n2 1 {}].all (fun i => !i.wf) = true := by decide

/-- Matrix checks: MCFG's register (R231), MZERO's mask, MOUT's type, rounding and saturation (R235), MGET's and MPUT's groups. -/
theorem test_wf_matrix :
    [Instr.mcfg 5 (.lit 0) {}, .mcfg 20 (.lit 0) {}, .mzero 0 {}, .mout .z8 .rne false 0 (.g 1) (.g 2) 0 {}, .mout .f32 .rtz false 0 (.g 1) (.g 2) 0 {},
     .mout .s8 .rup true 0 (.g 1) (.g 2) 0 {}, .mget .n2 1 0 (.lit 0) {}, .mput true false .n4 0 2 (.lit 0) {}].all (fun i => !i.wf) = true := by
  decide

/-! ### Words of the spec -/

/-- ADD.d g3, g1, g2 ?c.1 !s.2 of chapter 03. -/
theorem test_decode_add :
    decode 0x0103462401C304200000000000000000 = .ok (.add ⟨.d, 3, .g 1, .reg (.g 2)⟩ ⟨some ⟨.first, 1⟩, some ⟨.second, 2, false, .reg 7⟩⟩) := by
  decide +kernel
/-- ST of chapter 06: OP 0x29, FN 3, PQ 1, PT 1, PVG 1, PV 11, A 10, B 11, C 9. -/
theorem test_decode_st :
    decode 0x2903011402C028B24000000000000000 = .ok (.st .d ⟨.g 10, .reg (.g 11)⟩ (.g 9) ⟨none, some ⟨.first, 1, false, .reg 11⟩⟩) := by
  decide +kernel
/-- LOOP and ATOM.arrive of chapter 04, MOVI of chapter 11. -/
theorem test_decode_scalar :
    decode 0x20000000000000002000000300000008 = .ok (.loop 0 3 (.lit 8) {}) ∧
    decode 0x2CB30000000C08002000001B00000000 = .ok (.atom .arrive true .ar .sys 12 ⟨.g 2, .lit 0⟩ (.g 0) {}) ∧
    decode 0x14034400000500002000000000001078 = .ok (.movi .s .d 5 (.g 0) 0x1078 ⟨some ⟨.first, 1⟩, none⟩) := by decide +kernel
/-- Load and store cores: DLD of chapter 14, TLOOK of chapter 12, FEEDPOP and ENQ.seal of chapter 10, RPUT.sys of chapter 14. -/
theorem test_decode_engines :
    decode 0x40000000000210500000000300000000 = .ok (.dld ⟨2, .g 4, .g 5, 0, 3⟩ {}) ∧
    decode 0x45000000000010000000004900000000 = .ok (.tlook 9 2 (.g 4) {}) ∧
    decode 0x48000000000010000000000900000000 = .ok (.feedpop false 9 (.g 4) {}) ∧
    decode 0x65010000000050000000000200000000 = .ok (.enq true 2 (.reg (.g 20)) {}) ∧
    decode 0x63030000000110518007000000000000 = .ok (.rput ⟨1, .g 4, .g 5, .g 6, 0⟩ (some ⟨.sys, 7⟩) {}) := by decide +kernel
/-- Vector and mask: VFMA and VMPUSH of chapter 08, VPERM of chapter 11. -/
theorem test_decode_vector :
    decode 0xA30D0000000800420800000000000000 = .ok (.vfma .rne ⟨.f32, .n4, 8, 0, .vec 4⟩ 8 {}) ∧
    decode 0xC0000000000010000000000100000000 = .ok (.vmpush .n2 4 {}) ∧
    decode 0xB8050000000200A00000000000000000 = .ok (.vperm .z16 .n1 2 0 10 {}) := by decide +kernel
/-- Matrix and service: MCFG and MGO of chapter 09, SVRET.done, INFLRD and IDLE of chapter 17. -/
theorem test_decode_matrix_service :
    decode 0xE0000000000B00002000000000010004 = .ok (.mcfg 11 (.lit 0x10004) {}) ∧ decode 0xE1000000000000000000000000000000 = .ok (.mgo {}) ∧
    decode 0xF0020000000010000000000000000000 = .ok (.svret (.done (.g 4)) {}) ∧
    decode 0xF3000000000518000000000000000003 = .ok (.inflrd 5 (.g 6) 3 {}) ∧
    decode 0xF5000000000108000000000000000000 = .ok (.idle 1 (.g 2) {}) := by decide +kernel
/-- The five words that R387 prints. -/
theorem test_decode_r387 :
    decode 0x0B034400001480002000000000000013 = .ok (.shl ⟨.d, 20, .tv, .lit 19⟩ ⟨some ⟨.first, 1⟩, none⟩) ∧
    decode 0xE1000120000000000000000000000000 = .ok (.mgo ⟨none, some ⟨.first, 2, false, .imm 0⟩⟩) ∧
    decode 0x25050000000000002000000000002000 = .ok (.tkput .first true (.lit 0x2000) {}) ∧
    decode 0xE30C0000000761900000000000060200 = .ok (.mout .bf16 .rne false 7 (.g 24) (.g 25) 0x60200 {}) ∧
    decode 0x60004E4000000C500000000100000000 =
      .ok (.dst ⟨0, .g 3, .g 5, 0, 1⟩ none ⟨some ⟨.first, 3⟩, some ⟨.second, 4, false, .imm 0⟩⟩) := by decide +kernel
/-- An OP of no instruction, and an unused field that is not 0 (R38). -/
theorem test_decode_bad :
    decode 0x7F000000000000000000000000000000 = .unassigned ∧ decode 0x00000000000000000000000000000001 = .reserved 0 := by decide +kernel

/-! ### Worked examples of the spec -/

/-- R75: DIV.s.w of −7 by 2 is −3, REM.s.w −1, DIV.z.b of 200 by 0 is 0xFF; R76: CLZ.h of 0x10000 is 16. -/
theorem test_div_examples :
    divOp true 32 0xFFFFFFF9 2 = 0xFFFFFFFD ∧ remOp true 32 0xFFFFFFF9 2 = 0xFFFFFFFF ∧ divOp false 8 200 0 = 0xFF := by decide +kernel
/-- R156: a head of FREE#0 where FULL is awaited: 0x20000011. -/
theorem test_token_type_info : tokenTypeInfo 0x2000 1 false = 0x20000011 := by decide +kernel
/-- R66: CRC-32C of the nine bytes "123456789" is 0xE3069283. -/
theorem test_crc : crc32c [0x31, 0x32, 0x33, 0x34, 0x35, 0x36, 0x37, 0x38, 0x39] = 0xE3069283 := by decide +kernel

/-- A port that is up, with 1,000 flits received on VC 0 and 2,000 on VC 2 in its first interval. -/
def lendState : State :=
  let s := State.reset.setTile 0 { Tile.reset with cycle := 1024 }
  { s with fab := { s.fab with portup := 1, lend := s.fab.lend.set 0 { Lend.reset with used := #v[1000, 0, 2000, 0, 0, 0, 0, 0] } } }

/-- The state an outcome goes on with; the reset state for a stop. -/
def nextOf (o : Out) : State := match o with | .next s => s | _ => State.reset

/-- R413, the example of lending: decreases at the interval, increases at the acknowledgement. -/
theorem test_lending :
    let a := nextOf (exec (.creditInterval 0) lendState)
    let b := nextOf (exec (.limitAck 0 1) a)
    a.fab.lend[0].limits.toList = [512, 64, 512, 64, 64, 64, 64, 64] ∧ a.fab.lend[0].committed.toList = [512, 512, 512, 512, 512, 512, 512, 512] ∧
    b.fab.lend[0].limits.toList = [1259, 64, 2453, 64, 64, 64, 64, 64] ∧ b.fab.lend[0].epoch = 2 := by decide +kernel

/-! ### States and operands that meet the hypotheses of the statements -/

/-- The checks of `Passes`, computed. -/
def passes (i : Instr) (s : State) (tv : Word64) (own : List Post) : Bool :=
  decide (classTrap s.cur.stream s.cur.ctx ((opOf i).getD 0).toNat (instrPriv i) = none) && step5Ok s.cur.ctx i &&
  decide (waitRes s.me s.cur.stream (syncOf i).wait = .ok tv) && decide (postCheck s.me s.cur.stream (own ++ syncPost s (syncOf i)) = .ok)

theorem passes_spec {i : Instr} {s : State} {tv : Word64} {own : List Post} (h : passes i s tv own = true) : Passes i s tv own := by
  simp only [passes, Bool.and_eq_true, decide_eq_true_eq] at h
  exact ⟨h.1.1.1, h.1.1.2, h.1.2, h.2⟩

/-- A core with a live user context at 0x1000. -/
def liveCore : Core := { Core.reset with u := { Core.reset.u with life := .live, regs := { Regs.zero with pc := 0x1000 } } }

/-- A tile with a task, three live streams and open queues. -/
def liveTile : Tile :=
  { Tile.reset with ld := liveCore, cp := liveCore, st := liveCore, task := some placedTask,
                    queues := Vector.replicate 6 { TokQ.reset with closed := false } }

/-- A module that has been brought up, with a tile 0, a context of which acts. -/
def on (st : Stream) (k : CtxKind) (x : Tile) : State :=
  let s := State.reset.setTile 0 x
  { s with cur := ⟨0, st, k, 0⟩, hk := { s.hk with bring := 8 } }

/-- The module with a live tile. -/
def user (st : Stream) : State := on st .user liveTile

/-- A tile whose queues hold one token. -/
def tokenTile (tok : BitVec 16) : Tile :=
  { liveTile with queues := Vector.replicate 6 ({ TokQ.reset with closed := false, ents := (Vector.replicate 16 0).set 0 tok, count := 1 }) }

/-- A live tile whose contexts are entered and drained. -/
def enteredTile : Tile :=
  let c := { liveCore with stopped := true, v := { Core.reset.v with mode := .entered } }
  { liveTile with ld := c, cp := c, st := c, drain := { Drain.none with drained := true } }

/-- The service context of an entered core acts. -/
def entered (st : Stream) : State := on st .service enteredTile

/-- A live tile whose contexts are entered alone. -/
def aloneTile : Tile :=
  let c := { liveCore with v := { Core.reset.v with mode := .alone } }
  { liveTile with ld := c, cp := c, st := c }

/-- Scalar rows: MADD by the register 31, with a wait whose token is tv. -/
theorem witness_ScalarArithmeticResult :
    Passes (.madd ⟨.d, 31, .tv, .reg (.g 2)⟩ (.g 3) ⟨some ⟨.first, 1⟩, none⟩) (on .load .user (tokenTile 0x1FFF)) 0xFFF [] ∧
    ∃ o f, ruleAlu (.madd ⟨.d, 31, .tv, .reg (.g 2)⟩ (.g 3) ⟨some ⟨.first, 1⟩, none⟩) ((on .load .user (tokenTile 0x1FFF)).withTv 0xFFF) = some (o, f) :=
  ⟨passes_spec (by decide +kernel), _, _, rfl⟩

/-- Formats, codes and modes for each group of clauses: NaN, infinity, zero and the largest code; a block without NaN. -/
theorem witness_FloatingArithmetic :
    (∃ f, ruleFmt .f32 = some f ∧ 0x7FC00000 < 2 ^ f.width ∧ f.isNaN 0x7FC00000 = true ∧ f.isInf 0x7F800000 = true ∧ f.mag 0x80000000 = 0 ∧ f.neg 0x80000000 = true) ∧
    (∃ f, ruleFmt .e2m1 = some f ∧ 15 < 2 ^ f.width ∧ f.isNaN 15 = false) ∧ (Rnd.near.mode ≤ 5) ∧
    ruleIntRange .s4 = some (-8, 7) ∧ (15 : Int) ≤ 7 - (-8) ∧ (∃ q, ruleFmt .e4m3 = some q ∧ 126 < 2 ^ q.width) ∧
    (∃ f, ruleFmt .h16 = some f ∧ f.inf = true ∧ f.isNaN 0xBC00 = false ∧ f.neg 0xBC00 = true ∧ 0 < f.mag 0xBC00) :=
  ⟨⟨_, rfl, by decide⟩, ⟨_, rfl, by decide⟩, by decide, rfl, by decide, ⟨_, rfl, by decide⟩, ⟨_, rfl, by decide +kernel⟩⟩

theorem witness_ScalarUnary :
    Passes (.bfx true .b 31 (.g 1) 7 1 {}) (user .store) 0 [] ∧ ∃ d v, ruleOne (.bfx true .b 31 (.g 1) 7 1 {}) ((user .store).withTv 0) = some (d, v) :=
  ⟨passes_spec (by decide +kernel), _, _, rfl⟩

theorem witness_Predicate : Passes (.cmp .hs .b 7 (.g 31) (.lit 0xFFFFFFFF) {}) (user .compute) 0 [] ∧ Passes (.plog 7 7 7 7 0xFF {}) (user .compute) 0 [] :=
  ⟨passes_spec (by decide +kernel), passes_spec (by decide +kernel)⟩

theorem witness_DivisionTruncates :
    Passes (.div true ⟨.b, 1, .g 2, .reg (.g 0)⟩ {}) (user .load) 0 [] ∧ Passes (.rem false ⟨.d, 1, .g 2, .lit 0⟩ {}) (user .load) 0 [] ∧
    (-(2 ^ 7) = (BitVec.ofInt 8 (-128)).toInt ∧ (BitVec.ofInt 8 (-1)).toInt = -1) ∧
    ((2 : BitVec 8) ≠ 0 ∧ ¬((BitVec.ofInt 8 (-7)).toInt = -(2 ^ 7) ∧ (2 : BitVec 8).toInt = -1)) :=
  ⟨passes_spec (by decide +kernel), passes_spec (by decide +kernel), by decide, by decide⟩

theorem witness_LoopCheck :
    Passes (.nop {}) (user .load) 0 [] ∧ Passes (.fence .sc .sys {}) (user .store) 0 [] ∧ Passes (.xfence .sc .sys true true {}) (user .store) 0 [] ∧
    ctxBusy (user .store).me .store .user = false :=
  ⟨passes_spec (by decide +kernel), passes_spec (by decide +kernel), passes_spec (by decide +kernel), by decide +kernel⟩

/-- Targets at 0, at the last word below 2^57, at 2^57, and one that is not a multiple of 16; a BR and a BRMZ not taken. -/
theorem witness_ControlTransfer :
    Passes (.jmp (.g 0) 0 {}) (user .load) 0 [] ∧ ruleTarget (.jmp (.g 0) 0 {}) ((user .load).withTv 0) = some 0 ∧
    Passes (.br false 1 1 {}) (user .load) 0 [] ∧ ruleTarget (.br false 1 1 {}) ((user .load).withTv 0) = none ∧
    Passes (.brmz 1 {}) (user .compute) 0 [] ∧ ruleTarget (.brmz 1 {}) ((user .compute).withTv 0) = none ∧
    Passes (.jmp (.g 0) 8 {}) (user .load) 0 [] ∧ ruleTarget (.jmp (.g 0) 8 {}) ((user .load).withTv 0) = some 8 ∧
    Passes (.jmp (.g 0) 0xFFFFFFF0 {}) (user .load) 0 [] ∧
    ruleTarget (.jmp (.g 0) 0xFFFFFFF0 {}) ((user .load).withTv 0) = some 0xFFFFFFFFFFFFFFF0 :=
  ⟨passes_spec (by decide +kernel), by decide +kernel, passes_spec (by decide +kernel), by decide +kernel, passes_spec (by decide +kernel),
   by decide +kernel, passes_spec (by decide +kernel), by decide +kernel, passes_spec (by decide +kernel), by decide +kernel⟩

/-- The user context of a core at the last word below 2^57. -/
def atTop : State := (user .load).setRegs { Regs.zero with pc := 0x1FFFFFFFFFFFFF0 }

theorem witness_LoopSets :
    Passes (.loop 1 1 (.lit 5) {}) (user .load) 0 [] ∧ ((user .load).pc + BitVec.ofNat 64 (1 * 16)).toNat < 2 ^ 57 ∧
    Passes (.loop 1 1 (.lit 5) {}) atTop 0 [] ∧ 2 ^ 57 ≤ (atTop.pc + BitVec.ofNat 64 (1 * 16)).toNat :=
  ⟨passes_spec (by decide +kernel), by decide +kernel, passes_spec (by decide +kernel), by decide +kernel⟩

/-- Queues: a token, an END mark, closed and empty, open and empty. -/
theorem witness_WaitOnOneQueue :
    (∃ q : TokQ, q.fresh < q.count.toNat ∧ q.ents[0] = 0x1FFF ∧ q.count ≠ 0) ∧
    (∃ q : TokQ, q.count = 0 ∧ q.freshEnd = false ∧ q.endMark = some 0xFFF) ∧
    (∃ q : TokQ, q.count = 0 ∧ q.endMark = none ∧ q.closed = true) ∧ (∃ q : TokQ, q.count = 0 ∧ q.endMark = none ∧ q.closed = false) :=
  ⟨⟨(tokenTile 0x1FFF).queue 0, by decide⟩, ⟨{ TokQ.reset with endMark := some 0xFFF }, by decide⟩, ⟨TokQ.reset, by decide⟩,
   ⟨{ TokQ.reset with closed := false }, by decide⟩⟩

/-- A NOP that waits: for type 2 where the head has type 1, at an orphaned queue, at an open empty one. -/
theorem witness_UnsatisfiedWait :
    let i : Instr := .nop ⟨some ⟨.first, 2⟩, none⟩
    let s := on .load .user (tokenTile 0x1FFF)
    let o := on .load .user { liveTile with queues := Vector.replicate 6 TokQ.reset }
    (opOf i).isSome = true ∧ s.myCore.u.life = .live ∧ classTrap .load .user 0 (instrPriv i) = none ∧ step5Ok .user i = true ∧
    waitRes s.me .load (syncOf i).wait = .trap 0x08 0x1FFF0021 ∧ waitRes o.me .load (syncOf i).wait = .trap 0x0B 1 ∧
    waitRes (user .load).me .load (syncOf i).wait = .stall 1 := by decide +kernel

/-- A tile whose queues take four tokens. -/
def narrowTile : Tile := { liveTile with queues := Vector.replicate 6 { TokQ.reset with closed := false, ceil := 4 } }

theorem witness_TokenInstructions :
    Passes (.tkget 1 ⟨some ⟨.both, 0⟩, none⟩) (on .load .user (tokenTile 0x1FFF)) 0xFFF [] ∧ Passes (.tklevel 1 true true {}) (user .store) 0 [] ∧
    Passes (.tkput .both true (.lit 0xDFFF) {}) (user .load) 0 [⟨.both, 13, 0xFFF, true, 1⟩] ∧ Passes (.tkput .first false (.lit 0xE000) {}) (user .load) 0 [] ∧
    Passes (.tkprime .both false 1 2 16 {}) (user .load) 0 [⟨.both, 1, 2, false, 16⟩] ∧
    Passes (.tkprime .first false 1 2 5 {}) (on .load .user narrowTile) 0 [] ∧
    narrowTile.consumerLive .load false = true ∧ (narrowTile.queue (queueOut .load false)).ceil.toNat < 5 :=
  ⟨passes_spec (by decide +kernel), passes_spec (by decide +kernel), passes_spec (by decide +kernel), passes_spec (by decide +kernel),
   passes_spec (by decide +kernel), passes_spec (by decide +kernel), by decide +kernel, by decide +kernel⟩

theorem witness_PostedTokens :
    liveTile.consumerLive .load false = true ∧ (liveTile.queue (queueOut .load false)).count.toNat + 16 ≤ 16 ∧
    Tile.reset.consumerLive .load false = false := by decide +kernel

/-- A drained tile in a restore entry. -/
def restoreTile : Tile := { enteredTile with drain := { enteredTile.drain with restore := true } }

/-- Writes of a service context in share mode and entered, in a restore entry, and in a register whose writable bits are some. -/
theorem witness_ServiceRegisters :
    Passes (.ctlwr 0x0A (.lit 40) {}) (on .load .service liveTile) 0 [] ∧ Passes (.ctlwr 0x44 (.lit 1) {}) (on .load .service liveTile) 0 [] ∧
    Passes (.ctlwr 0xA2 (.lit 2) {}) (on .load .service restoreTile) 0 [] ∧ restoreTile.drain.restore = true ∧
    (on .load .service restoreTile).myCore.v.mode ≠ .share ∧ Passes (.ctlwr 0xC0 (.lit 31) {}) (entered .load) 0 [] ∧
    Passes (.ctlwr 0xC9 (.lit 7) {}) (entered .load) 0 [] ∧ Passes (.ctlwr 0xCA (.lit 40) {}) (entered .load) 0 [] ∧
    Passes (.ctlwr 0xCA (.lit 41) {}) (entered .load) 0 [] ∧ Passes (.ctlrd 1 0x43 {}) (on .load .service liveTile) 0 [] :=
  ⟨passes_spec (by decide +kernel), passes_spec (by decide +kernel), passes_spec (by decide +kernel), by decide +kernel, by decide +kernel,
   passes_spec (by decide +kernel), passes_spec (by decide +kernel), passes_spec (by decide +kernel), passes_spec (by decide +kernel),
   passes_spec (by decide +kernel)⟩

theorem witness_ControlRegisters :
    Passes (.ctlwr 0x01 (.lit 5) {}) (user .load) 0 [] ∧ flagsWait (user .load) 1 = false ∧ Passes (.ctlwr 0x0A (.lit 40) {}) (user .load) 0 [] ∧
    Passes (.ctlwr 0x0A (.lit 41) {}) (user .load) 0 [] ∧ Passes (.ctlrd 1 0x15 {}) (user .load) 0 [] ∧
    Passes (.ctlwr 0x40 (.lit 255) {}) (on .load .service liveTile) 0 [] ∧ Passes (.ctlwr 0x41 (.lit 0x10) {}) (on .load .service liveTile) 0 [] ∧
    Passes (.ctlwr 0x80 (.lit 1) {}) (on .load .service liveTile) 0 [] ∧ (on .load .service liveTile).myCore.v.mode = .share ∧
    Passes (.ctlwr 0x9F (.lit 1) {}) (entered .load) 0 [] ∧ Passes (.ctlwr 0xA0 (.lit 1) {}) (entered .load) 0 [] ∧
    Passes (.ctlwr 0xA1 (.lit 1) {}) (entered .load) 0 [] ∧ Passes (.ctlwr 0xC1 (.lit 6) {}) (entered .load) 0 [] ∧
    Passes (.ctlwr 0xA2 (.lit 1) {}) (entered .load) 0 [] ∧ (entered .load).myCore.v.mode ≠ .share ∧ (entered .load).me.drain.restore = false :=
  ⟨passes_spec (by decide +kernel), by decide +kernel, passes_spec (by decide +kernel), passes_spec (by decide +kernel), passes_spec (by decide +kernel),
   passes_spec (by decide +kernel), passes_spec (by decide +kernel), passes_spec (by decide +kernel), by decide +kernel, passes_spec (by decide +kernel),
   passes_spec (by decide +kernel), passes_spec (by decide +kernel), passes_spec (by decide +kernel), passes_spec (by decide +kernel), by decide +kernel,
   by decide +kernel⟩

/-- A tile whose load stream alone is live. -/
def lastTile : Tile := { liveTile with cp := Core.reset, st := Core.reset }

theorem witness_ExitAndSvcall :
    Passes (.exit (.lit 0xFFFFFFFF) {}) (user .load) 0 [] ∧ streamBusy (user .load).me .load = false ∧ ((user .load).me.core .store).u.life = .live ∧
    Passes (.exit (.lit 1) {}) (on .load .user lastTile) 0 [] ∧ (lastTile.core .compute).u.life ≠ .live ∧ (lastTile.core .store).u.life ≠ .live ∧
    lastTile.task = some placedTask ∧ Passes (.svcall 7 {}) (user .load) 0 [] ∧ Passes (.svcall 7 {}) (on .load .service liveTile) 0 [] :=
  ⟨passes_spec (by decide +kernel), by decide +kernel, by decide +kernel, passes_spec (by decide +kernel), by decide +kernel, by decide +kernel,
   by decide +kernel, passes_spec (by decide +kernel), passes_spec (by decide +kernel)⟩

theorem witness_TrapsStopTheTile :
    let s := user .compute
    s.cur.ctx = .user ∧ s.me.drain.draining = false ∧ s.me.drain.drained = false ∧ s.myCore.u.life = .live ∧ s.myCore.v.mode = .share ∧
    (∀ st, heldAccess (s.me.core st) = false) ∧ (on .load .service liveTile).cur.ctx = .service :=
  ⟨rfl, by decide +kernel, by decide +kernel, by decide +kernel, by decide +kernel, fun st => by cases st <;> decide +kernel, rfl⟩

/-- A DCPY of 64 bytes accepted on a channel, not started. -/
def copyOp : XferOp :=
  { info := { stream := .load, ctx := .user, order := 0, word := 0, post := none, seed := 0, ctr := 0, mode := 0, ra := 0x10000, rb := 0, rc := 64, rf := 0,
              flags := 0, fault := none },
    ch := 0, inst := .dcpy ⟨0, .g 1, .g 2, .g 3, 0⟩ {}, layout := [], maq := [], maqId := none, prefixBytes := 0, started := false, done := [],
    out := [], air := [], arrived := [], bad := [], came := [], flag := .none, stag := 1, maqTo := [], cancel := false, tag := 0 }

/-- A tile with operations on the load core's channel 0. -/
def chanTile (ops : List XferOp) : Tile :=
  { liveTile with eng := { Engines.reset with chLoad := Engines.reset.chLoad.set 0 { ops := ops, retired := 0 }, order := ops.length } }

/-- LD and ST of the last doubleword of the scratchpad; misaligned; past its end; held by an active range; over an uncorrectable word. -/
theorem witness_ScratchpadAccess :
    let s := user .load
    let i : Instr := .ld true .d 1 ⟨.g 0, .lit 0x017FFFF8⟩ {}
    let held := on .load .user (chanTile [copyOp])
    let bad := on .load .user { liveTile with store := { Store.reset with spadBad := [1] } }
    Passes i s 0 [] ∧ (s.memAddr ⟨.g 0, .lit 0x017FFFF8⟩).toNat + 8 = spadBytes ∧ spadHeld s 0x017FFFF8 8 false = false ∧
    spadBadAt s.me.store 0x017FFFF8 8 = none ∧ Passes (.st .d ⟨.g 0, .lit 0x017FFFF8⟩ (.g 1) {}) s 0 [] ∧ spadHeld s 0x017FFFF8 8 true = false ∧
    Passes (.ld false .d 1 ⟨.g 0, .lit 4⟩ {}) s 0 [] ∧ Passes (.ld false .d 1 ⟨.g 0, .lit 0x01800000⟩ {}) s 0 [] ∧
    (s.memAddr ⟨.g 0, .lit 0x01800000⟩).toNat = spadBytes ∧ Passes (.ld false .d 1 ⟨.g 0, .lit 0⟩ {}) held 0 [] ∧ spadHeld held 0 8 false = true ∧
    Passes (.ld false .d 1 ⟨.g 0, .lit 0⟩ {}) bad 0 [] ∧ spadHeld bad 0 8 false = false ∧ spadBadAt bad.me.store 0 8 = some 4 :=
  ⟨passes_spec (by decide +kernel), by decide +kernel, by decide +kernel, by decide +kernel, passes_spec (by decide +kernel), by decide +kernel,
   passes_spec (by decide +kernel), passes_spec (by decide +kernel), by decide +kernel, passes_spec (by decide +kernel), by decide +kernel,
   passes_spec (by decide +kernel), by decide +kernel, by decide +kernel⟩

/-- Job 0 maps virtual addresses 0x10000 to 0x1FFFF, readable and writable, onto HBM from 0x100000, by one range entry at HBM address 0; its
attribute entries are 0. Queue 3 belongs to job 0 and has its ring at 0x10000. -/
def mapped (st : Stream) (x : Tile) : State :=
  let s := on st .user x
  let u : UQueue := { UQueue.reset with base := 0x10000, cfg := 0x130004, state := 1 }
  { s with
    hbm := memWrite [] 0 (leBytes 8 0x10000 ++ leBytes 8 0x20000 ++ leBytes 8 0x100000 ++ leBytes 8 13),
    disp := { s.disp with jobs := [(0, { JobSt.reset with xrt := BitVec.ofNat 64 (2 ^ 53), xat := 0x1000 })], queues := [(3, u)] } }

/-- The page of those addresses. -/
def pageAt (va : Nat) : Page :=
  { pa := 0x100000 + (va - 0x10000), r := true, w := true, x := false, ord := 0, sync := false, tol := false, tfmt := 0, key := 0, striped := false,
    attrOk := true }

/-- What translation leaves. -/
def after (s : State) (va : Nat) : State := (translate (newTag s).2 (dieOf s.cur.tile).val (tileJob s.me) va).2

/-- The conditions of `LocalAccess`, computed. -/
def localOk (s : State) (k : AccKind) (va : Word64) (n : Nat) : Bool :=
  let x := after s va.toNat
  let p := pageAt va.toNat
  decide ((s.myCore.remote.filter fun r => r.ctx == s.cur.ctx) = none) && decide (s.cur.ctx = .user) && va.toNat % n == 0 &&
  decide ((translate (newTag s).2 (dieOf s.cur.tile).val (tileJob s.me) va.toNat).1 = .page p) &&
  decide (soHeld s k va n = false) && decide (accessCause x (tileJob s.me) k n false p = none) && decide (targetOf x p.pa = .hbm p.pa) &&
  rafterOk x (dieOf s.cur.tile).val (dieOfIdx (hbmIndex false p.pa)) && (homeReady x (hbmIndex false p.pa / 64)).isNone &&
  sectorOk x (hbmIndex false p.pa / 64) p

theorem localOk_spec {s : State} {k : AccKind} {va : Word64} {n : Nat} (h : localOk s k va n = true) :
    LocalAccess s k va n (hbmIndex false (pageAt va.toNat).pa) (pageAt va.toNat) (after s va.toNat) := by
  simp only [localOk, Bool.and_eq_true, decide_eq_true_eq, beq_iff_eq, Option.isNone_iff_eq_none] at h
  obtain ⟨⟨⟨⟨⟨⟨⟨⟨⟨h1, h2⟩, h3⟩, h4⟩, h0⟩, h5⟩, h6⟩, h7⟩, h8⟩, h9⟩ := h
  exact ⟨h1, h0, .inl h2, h3, Prod.ext h4 rfl, h5, ⟨_, h6, rfl⟩, h7, h8, h9⟩

/-- The registers g1 = 0x1FFF8, g2 = 0x10000. -/
def memState (st : Stream) : State :=
  let s := mapped st liveTile
  (s.writeG 1 0x1FFF8).writeG 2 0x10000

/-- LDG, STG, ATOM, ACAS and WAITF of the last doubleword of the mapped page; WAITF's condition met and not met. -/
theorem witness_GlobalAccess :
    let s := (memState .load).withTv 0
    Passes (.ldg false .d .rlx .mod 3 ⟨.g 1, .lit 0⟩ {}) (memState .load) 0 [] ∧ LocalAccess s .load 0x1FFF8 8 0x10FFF8 (pageAt 0x1FFF8) (after s 0x1FFF8) ∧
    Passes (.stg .d .rlx .mod ⟨.g 1, .lit 0⟩ (.g 2) {}) (memState .load) 0 [] ∧ LocalAccess s .store 0x1FFF8 8 0x10FFF8 (pageAt 0x1FFF8) (after s 0x1FFF8) ∧
    Passes (.atom .arrive true .ar .sys 3 ⟨.g 1, .lit 0⟩ (.g 0) {}) (memState .load) 0 [] ∧ Passes (.acas true .ar .sys 3 (.g 1) (.g 2) (.g 3) 0 {}) (memState .load) 0 [] ∧
    LocalAccess s .rmw 0x1FFF8 8 0x10FFF8 (pageAt 0x1FFF8) (after s 0x1FFF8) ∧ Passes (.waitf .eq true true true .sys 3 (.g 1) (.lit 0) (.g 0) {}) (memState .load) 0 [] ∧
    Passes (.waitf .ne true true true .sys 3 (.g 1) (.lit 0) (.g 0) {}) (memState .load) 0 [] ∧
    LocalAccess s .waitf 0x1FFF8 8 0x10FFF8 (pageAt 0x1FFF8) (after s 0x1FFF8) ∧
    ruleHomeValue (after s 0x1FFF8) (pageAt 0x1FFF8) 0x10FFF8 8 = 0 ∧
    (s.memAddr ⟨.g 1, .lit 0⟩, s.src (.g 1)) = (0x1FFF8, 0x1FFF8) :=
  ⟨passes_spec (by decide +kernel), localOk_spec (by decide +kernel), passes_spec (by decide +kernel), localOk_spec (by decide +kernel),
   passes_spec (by decide +kernel), passes_spec (by decide +kernel), localOk_spec (by decide +kernel), passes_spec (by decide +kernel),
   passes_spec (by decide +kernel), localOk_spec (by decide +kernel), by decide +kernel, by decide +kernel⟩

/-- A layout record of version 1: 64 elements of .s8, memory and scratchpad alike, no maquette, its seal right. -/
def layRec : List Byte := withSeal ([1, 0, 2, 0, 1, 0xF, 0, 0] ++ zeros 8 ++ leBytes 2 63 ++ zeros 46) 64

/-- The linear forms on the channels 0 and 7, at the end of the scratchpad, with 2^48 - 1 bytes, with a flag; the same behind four operations. -/
theorem witness_LinearTransferAccepted :
    let s := fun st => (((user st).writeG 1 0x1FFF8).writeG 2 0x017FFFFF).writeG 3 1
    let x : LinXfer := ⟨7, .g 1, .g 2, .g 3, 0⟩
    let big := (user .store).writeG 3 0xFFFFFFFFFFFF
    let full := on .load .user (chanTile [copyOp, copyOp, copyOp, copyOp])
    (linearChan (.dcpy x {}) = some (7, false) ∧ Passes (.dcpy x {}) (s .load) 0 [] ∧ linearMay ((s .load).withTv 0) (.dcpy x {})) ∧
    (Passes (.rget x {}) (s .load) 0 [] ∧ linearMay ((s .load).withTv 0) (.rget x {})) ∧
    (Passes (.dstl x {}) (s .store) 0 [] ∧ linearMay ((s .store).withTv 0) (.dstl x {})) ∧
    (Passes (.rput x (some ⟨.sys, 1⟩) {}) (s .store) 0 [] ∧ linearMay ((s .store).withTv 0) (.rput x (some ⟨.sys, 1⟩) {}) ∧
      Passes (.rput x none {}) (s .store) 0 [] ∧ linearMay ((s .store).withTv 0) (.rput x none {})) ∧
    (Passes (.dfill x {}) big 0 [] ∧ linearMay (big.withTv 0) (.dfill x {})) ∧
    (linearChan (.dpf 0 (.g 1) 0x40 1 {}) = some (0, false) ∧ Passes (.dpf 0 (.g 1) 0x40 1 {}) (s .load) 0 []) ∧
    (Passes (.rflag 7 true .mod (.g 1) (.lit 5) {}) (s .store) 0 [] ∧ linearMay ((s .store).withTv 0) (.rflag 7 true .mod (.g 1) (.lit 5) {})) ∧
    ((s .load).me.chan false 7).ops.length < 4 ∧ asyncCount (s .store).me < 32 ∧ Passes (.dpf 0 (.g 1) 0 1 {}) full 0 [] ∧
    4 ≤ (full.me.chan false 0).ops.length :=
  ⟨⟨rfl, passes_spec (by decide +kernel), by unfold linearMay; decide +kernel⟩, ⟨passes_spec (by decide +kernel), by unfold linearMay; decide +kernel⟩,
   ⟨passes_spec (by decide +kernel), by unfold linearMay; decide +kernel⟩,
   ⟨passes_spec (by decide +kernel), by unfold linearMay; exact ⟨fun y h => by cases h; decide +kernel, by decide +kernel⟩,
    passes_spec (by decide +kernel), by unfold linearMay; exact ⟨fun y h => (nomatch h), by decide +kernel⟩⟩,
   ⟨passes_spec (by decide +kernel), by unfold linearMay; decide +kernel⟩, ⟨rfl, passes_spec (by decide +kernel)⟩,
   ⟨passes_spec (by decide +kernel), by unfold linearMay; decide +kernel⟩, by decide +kernel, by decide +kernel, passes_spec (by decide +kernel),
   by decide +kernel⟩

/-- A layout record with a maquette at 0x10200. -/
def maqRec : List Byte := withSeal ([1, 0, 2, 0, 1, 0xF, 0, 0] ++ zeros 8 ++ leBytes 2 63 ++ zeros 30 ++ leBytes 8 0x10200 ++ zeros 8) 64

/-- The record forms with a record in the cache, the same form with one read from memory, a DRED's with a maquette; the end of the scratchpad, 1 and
4,096 slices; CFENCE. -/
theorem witness_RecordTransferAccepted :
    let x : RecXfer := ⟨7, .g 0, .g 2, 0x40, 1⟩
    let y : ListXfer := ⟨7, .g 1, .g 0, .g 3, 1, 1⟩
    let z : ListXfer := { y with count := 4096 }
    let tile := { liveTile with store := { Store.reset with recs := [(0x40, 1, layRec)] } }
    let red := { liveTile with store := { Store.reset with recs := [(0x40, 1, maqRec)] } }
    let s := fun st t => (((on st .user t).writeG 1 0x40).writeG 2 0x017FFFC0).writeG 3 0x017FC000
    let inMem := { mapped .load liveTile with hbm := memWrite (mapped .load liveTile).hbm 0x100040 layRec }
    let w : RecXfer := ⟨0, .g 0, .g 0, 0x10040, 0⟩
    (recordChan (.dld x {}) = some (7, false) ∧ Passes (.dld x {}) (s .load tile) 0 [] ∧ recordMay ((s .load tile).withTv 0) layRec (.dld x {}) ∧
      recordAt ((s .load tile).withTv 0) (.dld x {}) = (0x40, 1) ∧ RecordFound ((s .load tile).withTv 0) 0x40 1 layRec ∧ layRec ≠ []) ∧
    (Passes (.dst x (some ⟨.mod, 1⟩) {}) (s .store tile) 0 [] ∧ recordMay ((s .store tile).withTv 0) layRec (.dst x (some ⟨.mod, 1⟩) {})) ∧
    (Passes (.dred x none {}) (s .store red) 0 [] ∧ recordMay ((s .store red).withTv 0) maqRec (.dred x none {}) ∧
      RecordFound ((s .store red).withTv 0) 0x40 1 maqRec) ∧
    (Passes (.dldx y {}) (s .load tile) 0 [] ∧ recordMay ((s .load tile).withTv 0) layRec (.dldx y {})) ∧
    (Passes (.dstx z none {}) (s .store tile) 0 [] ∧ recordMay ((s .store tile).withTv 0) layRec (.dstx z none {})) ∧
    (Passes (.dld w {}) inMem 0 [] ∧ RecordFound (inMem.withTv 0) 0x10040 0 layRec) ∧
    ((s .load tile).me.chan false 7).ops.length < 4 ∧ asyncCount (s .store tile).me < 32 ∧ Passes (.cfence 0x80 {}) (user .load) 0 [] :=
  ⟨⟨rfl, passes_spec (by decide +kernel), by unfold recordMay tensorMay; decide +kernel, by decide +kernel, .inl (by decide +kernel), by decide +kernel⟩,
   ⟨passes_spec (by decide +kernel), by unfold recordMay tensorMay; decide +kernel⟩,
   ⟨passes_spec (by decide +kernel), by unfold recordMay tensorMay; decide +kernel, .inl (by decide +kernel)⟩,
   ⟨passes_spec (by decide +kernel), by unfold recordMay slicesMay; decide +kernel⟩,
   ⟨passes_spec (by decide +kernel), by unfold recordMay slicesMay; decide +kernel⟩,
   ⟨passes_spec (by decide +kernel), .inr ⟨by decide +kernel, _, _, _, localOk_spec (va := 0x10040) (by decide +kernel), by decide +kernel,
     by decide +kernel, .inl rfl⟩⟩,
   by decide +kernel, by decide +kernel, passes_spec (by decide +kernel)⟩

/-- Channel inquiries on an empty and a busy channel; CHWAIT met and not; CHCAN of an idle channel and of one at work. -/
theorem witness_ChannelInquiryAndCancel :
    let busy := on .load .user (chanTile [{ copyOp with started := true }])
    Passes (.chwm 1 0 {}) busy 0 [] ∧ Passes (.chstat 1 7 {}) (user .load) 0 [] ∧ Passes (.chwait 0 .idle {}) (user .load) 0 [] ∧
    ((user .load).me.chan false 0).ops = [] ∧ Passes (.chwait 0 (.wm (.lit 1)) {}) busy 0 [] ∧ (chwmVal busy.me (busy.me.chan false 0)).toNat < 1 ∧
    Passes (.chcan 1 0 {}) busy 0 [] ∧ (busy.me.chan false 0).ops.all (opStopped busy.me) = false ∧ Passes (.chcan 1 0 {}) (user .load) 0 [] ∧
    ((user .load).me.chan false 0).ops.all (opStopped (user .load).me) = true :=
  ⟨passes_spec (by decide +kernel), passes_spec (by decide +kernel), passes_spec (by decide +kernel), by decide +kernel, passes_spec (by decide +kernel),
   by decide +kernel, passes_spec (by decide +kernel), by decide +kernel, passes_spec (by decide +kernel), by decide +kernel⟩

/-- A tile whose task has a tag table of 4,096 slots of 16 bytes, with key 5 in way 15 of its set. -/
def tagTile : Tile :=
  { liveTile with task := some { placedTask with tagbase := 0x100000, tagslot := 4 },
                  store := { Store.reset with tags := [(16 * tagSet 5 + 15, tagEntry 5 7)] } }

theorem witness_TagTable :
    let s := (on .load .user tagTile).writeG 1 5
    Passes (.tlook 2 3 (.g 1) {}) s 0 [] ∧ Passes (.tdel 2 3 (.g 1) {}) s 0 [] ∧ tagTable s.me = some (0x100000, 4) ∧
    tagHolds s.me.store.tags 5 15 ∧ (∀ v, v < 15 → ¬ tagHolds s.me.store.tags 5 v) ∧
    (∀ w, w < 16 → ¬ tagHolds s.me.store.tags 6 w) ∧ Passes (.tlook 2 3 (.g 1) {}) (user .load) 0 [] ∧ tagTable (user .load).me = none ∧
    Passes (.tins 2 (.g 1) (.lit 4095) (.g 3) {}) s 0 [] ∧ 4095 < nslot 0x100000 4 ∧ nslot 0x100000 4 ≤ 4096 :=
  ⟨passes_spec (by decide +kernel), passes_spec (by decide +kernel), by decide +kernel, by unfold tagHolds; decide +kernel,
   by unfold tagHolds; decide +kernel, by unfold tagHolds; decide +kernel, passes_spec (by decide +kernel), by decide +kernel,
   passes_spec (by decide +kernel), by decide +kernel, by decide +kernel⟩

/-- The module with feed 9 bound to the task of tile 0, holding some records and waiters. -/
def feedState (recs : List (Word64 × List Byte)) (ws : List Waiter) : State :=
  let s := on .load .user { liveTile with task := some { placedTask with feed := some 9 } }
  { s with disp := { s.disp with feeds := [(9, { Feed.reset with cap := 4, recs := recs, seq := 2, waiters := ws })] } }

/-- A record in the feed; one given to this stalled FEEDPOP; an empty feed. -/
theorem witness_FeedPopAndPeek :
    let r : Word64 × List Byte := (1, zeros 64)
    let a := feedState [r] []
    let b := feedState [r] [⟨0, .user, 0, some 1⟩]
    let c := feedState [] []
    Passes (.feedpop false 1 (.g 0) {}) a 0 [] ∧ myFeed a = some 9 ∧ (a.feed 9).mine 0 .user = none ∧ (a.feed 9).unassigned = some r ∧
    spadHeld a 0 64 true = false ∧ Passes (.feedpop false 1 (.g 0) {}) b 0 [] ∧ (b.feed 9).mine 0 .user = some ⟨0, .user, 0, some 1⟩ ∧
    (b.feed 9).recs.find? (fun e => e.1 == 1) = some r ∧ Passes (.feedpop true 1 (.g 0) {}) c 0 [] ∧ (c.feed 9).mine 0 .user = none ∧
    (c.feed 9).unassigned = none ∧ Passes (.feedpeek 1 (.g 0) (.lit 0) {}) a 0 [] ∧ (a.feed 9).recs[0]? = some r ∧
    Passes (.feedpeek 1 (.g 0) (.lit 0) {}) c 0 [] ∧ (c.feed 9).recs[0]? = none :=
  ⟨passes_spec (by decide +kernel), by decide +kernel, by decide +kernel, by decide +kernel, by decide +kernel, passes_spec (by decide +kernel),
   by decide +kernel, by decide +kernel, passes_spec (by decide +kernel), by decide +kernel, by decide +kernel, passes_spec (by decide +kernel),
   by decide +kernel, passes_spec (by decide +kernel), by decide +kernel⟩

/-- Whether an access of a dispatcher or an ENQ has its answer. -/
def farOk (f : FarRes) : Bool := match f with | .ok _ _ => true | _ => false

theorem farOk_spec {f : FarRes} (h : farOk f = true) : ∃ b s, f = .ok b s := by
  cases f <;> first | exact ⟨_, _, rfl⟩ | cases h

/-- The bytes and state of an answer. -/
def farBytes (f : FarRes) : List Byte := match f with | .ok b _ => b | _ => []
/-- The state an answer leaves. -/
def farState (f : FarRes) : State := match f with | .ok _ s => s | _ => State.reset

theorem farOk_at {f : FarRes} (h : farOk f = true) : f = .ok (farBytes f) (farState f) := by
  cases f <;> first | rfl | cases h

/-- An ENQ to queue 3 whose ring is empty, full, stopped; to a queue that forbids it. -/
theorem witness_EnqueuePutsPacket :
    let s := mapped .store liveTile
    let i : Instr := .enq true 2 (.lit 3) {}
    let full := { s with hbm := memWrite s.hbm 0x100000 (leBytes 8 16) }
    let ask := dispAsker (s.uq 3).die (s.uq 3).job
    let r := farKeepRead (newTag (s.withTv 0)).2 ask farEnq 0 0 .dispAny 0x10000 16
    let w := farKeepWrite (farState r) ask farEnq 0 1 .dispAny 0x10040 (zeros 64)
    Passes i s 0 [] ∧ Passes (.enq false 2 (.lit 4) {}) s 0 [] ∧ (s.uq 4).devenq = false ∧ (s.uq 3).devenq = true ∧ (s.uq 3).job = tileJob s.me ∧
    (s.uq 3).state = 1 ∧ enqBusy s 3 = false ∧ (s.myCore.remote.filter fun r => r.ctx == s.cur.ctx && r.kind == .enq) = none ∧
    r = .ok (farBytes r) (farState r) ∧ fieldAt (farBytes r) 0 8 = 0 ∧ (s.uq 3).slots = 16 ∧ w = .ok (farBytes w) (farState w) ∧
    (∃ b t, farKeepWrite (farState w) ask farEnq 0 2 .dispAny 0x10000 (leBytes 8 1) = .ok b t) ∧
    (∃ b t, farKeepRead (newTag (full.withTv 0)).2 ask farEnq 0 0 .dispAny 0x10000 16 = .ok b t) :=
  ⟨passes_spec (by decide +kernel), passes_spec (by decide +kernel), by decide +kernel, by decide +kernel, by decide +kernel, by decide +kernel,
   by decide +kernel, by decide +kernel, farOk_at (by decide +kernel), by decide +kernel, by decide +kernel, farOk_at (by decide +kernel),
   farOk_spec (by decide +kernel), farOk_spec (by decide +kernel)⟩

/-- An ENQ to a queue of die 11 over no live path; .fadd; CHCAN of a service context beside its user, whose transfer stays. -/
theorem witness_EnqueueFaddCancel :
    let s := mapped .store liveTile
    let u : UQueue := { UQueue.reset with base := 0x10000, cfg := 0xB000130004, state := 1 }
    let q := { s with disp := { s.disp with queues := [(3, u)] }, fab := { s.fab with linkdown := BitVec.allOnes 66 } }
    let v := on .load .service (chanTile [copyOp, { copyOp with started := true, info := { copyOp.info with ctx := .service } }])
    Passes (.enq true 2 (.lit 3) {}) q 0 [] ∧ (q.uq 3).devenq = true ∧ (q.uq 3).job = tileJob q.me ∧
    (q.myCore.remote.filter fun r => r.ctx == q.cur.ctx && r.kind == .enq) = none ∧ rafterOk q (dieOf q.cur.tile).val (q.uq 3).die.val = false ∧
    rafterOk s (dieOf s.cur.tile).val (s.uq 3).die.val = true ∧
    Passes (.atom .fadd false .ar .sys 3 ⟨.g 1, .lit 0⟩ (.g 2) {}) (memState .load) 0 [] ∧
    Passes (.chcan 1 0 {}) v 0 [] ∧ v.cur.ctx = .service ∧ v.myCore.v.mode = .share ∧ v.me.task.isSome = true ∧
    ((v.me.chan false 0).ops.filter fun o => decide (o.info.ctx = .service)).all (opStopped v.me) = false :=
  ⟨passes_spec (by decide +kernel), by decide +kernel, by decide +kernel, by decide +kernel, by decide +kernel, by decide +kernel,
   passes_spec (by decide +kernel), passes_spec (by decide +kernel), by decide +kernel, by decide +kernel, by decide +kernel, by decide +kernel⟩

/-! ### Vectors and the matrix engine -/

/-- `SourcesClear`, computed. -/
def clear (d ds : Nat) (coin : Bool) (srcs : List VSrc) : Bool :=
  srcs.all fun v => v.base + v.span ≤ d || d + ds ≤ v.base || (coin && v.base == d && v.span == ds)

theorem clear_spec {d ds : Nat} {coin : Bool} {srcs : List VSrc} (h : clear d ds coin srcs = true) : SourcesClear d ds coin srcs := by
  intro v hv
  have := List.all_eq_true.mp h v hv
  simp only [Bool.or_eq_true, Bool.and_eq_true, decide_eq_true_eq, beq_iff_eq] at this
  rcases this with (h | h) | ⟨⟨h1, h2⟩, h3⟩
  · exact .inl h
  · exact .inr (.inl h)
  · exact .inr (.inr ⟨h1, h2, h3⟩)

/-- The compute stream of a live tile may change what its user owns. -/
theorem owns_user : OwnsTileState (user .compute) := by unfold OwnsTileState; decide +kernel

/-- VADD of the highest group of four, D coinciding with A; VMADD, VDOT8. -/
theorem witness_VectorInteger :
    let i : Instr := .vadd ⟨.s4, .n4, 60, 60, .vec 0⟩ {}
    Passes i (user .compute) 0 [] ∧ (∃ o f, ruleVInt i = some (o, f)) ∧ SourcesClear 60 4 true [⟨1, 60, 4⟩, ⟨2, 0, 4⟩] ∧
    Passes (.vmadd ⟨.z32, .n1, 1, 2, .lit 3⟩ 1 {}) (user .compute) 0 [] ∧ SourcesClear 1 1 true [⟨1, 2, 1⟩, ⟨3, 1, 1⟩] ∧
    Passes (.vdot8 true false true .n1 1 2 (.vec 3) {}) (user .compute) 0 [] ∧ SourcesClear 1 1 false [⟨1, 2, 1⟩, ⟨2, 3, 1⟩] :=
  ⟨passes_spec (by decide +kernel), ⟨_, _, rfl⟩, clear_spec (by decide), passes_spec (by decide +kernel), clear_spec (by decide),
   passes_spec (by decide +kernel), clear_spec (by decide)⟩

/-- Lane order: 1,024 elements of four bits fill one register. -/
theorem witness_LaneOrder : (List.replicate 1024 0).length = 1 * (4096 / ElemType.s4.width) := by decide +kernel

/-- VZIP into the top pair; VMOV onto itself; VEXT; VMOV of a group that partly overlaps its destination cannot be (aligned bases), VZIP of a
source inside its destination can. -/
theorem witness_VectorMoveAndOverlap :
    let i : Instr := .vzip .s8 .n1 62 0 1 {}
    let j : Instr := .vzip .s8 .n1 62 0 63 {}
    Passes i (user .compute) 0 [] ∧ (∃ v, ruleVMove i ((user .compute).withTv 0) = some (8, 2, 62, [⟨1, 0, 1⟩, ⟨2, 1, 1⟩], v)) ∧
    SourcesClear 62 2 true [⟨1, 0, 1⟩, ⟨2, 1, 1⟩] ∧ Passes (.vext .s4 .n4 31 60 (.lit 4095) {}) (user .compute) 0 [] ∧ Passes j (user .compute) 0 [] ∧
    (∃ v, ruleVMove j ((user .compute).withTv 0) = some (8, 2, 62, [⟨1, 0, 1⟩, ⟨2, 63, 1⟩], v)) ∧ SourcesClear 62 2 true [⟨1, 0, 1⟩] ∧
    ¬ SourcesClear 62 2 true [⟨2, 63, 1⟩] :=
  ⟨passes_spec (by decide +kernel), ⟨_, rfl⟩, clear_spec (by decide), passes_spec (by decide +kernel), passes_spec (by decide +kernel), ⟨_, rfl⟩,
   clear_spec (by decide), by unfold SourcesClear; decide⟩

/-- VFMA onto its own accumulator. -/
theorem witness_VectorFloat :
    let i : Instr := .vfma .rsr ⟨.bf16, .n2, 62, 0, .vec 2⟩ 62 {}
    let s := user .compute
    Passes i s 0 [] ∧ (∃ v, ruleVFloat i (s.withTv 0) = some (.rsr, .bf16, 2, 62, [⟨1, 0, 2⟩, ⟨2, 2, 2⟩, ⟨3, 62, 2⟩], v)) ∧
    SourcesClear 62 2 true [⟨1, 0, 2⟩, ⟨2, 2, 2⟩, ⟨3, 62, 2⟩] := by
  refine ⟨passes_spec (by decide +kernel), ⟨_, rfl⟩, clear_spec (by decide)⟩

/-- VCVT to a wider format, VBSCALE both ways. -/
theorem witness_VectorConversion :
    let j : Instr := .vcvt false .f32 .e4m3 .rne .n1 4 8 {}
    let s := user .compute
    Passes j s 0 [] ∧ (∃ v, ruleVConv j = some (false, .rne, .f32, .e4m3, .n1, 4, 8, v)) ∧ SourcesClear 4 4 true [⟨1, 8, 1⟩] ∧
    Passes (.vbscale true .e2m1 .bf16 .rne .n1 4 8 9 {}) s 0 [] ∧ SourcesClear 4 4 false [⟨1, 8, 1⟩, ⟨2, 9, 1⟩] ∧
    Passes (.vbscale false .e2m1 .bf16 .rne .n1 8 4 9 {}) s 0 [] ∧ SourcesClear 8 1 false [⟨1, 4, 4⟩, ⟨3, 9, 1⟩] ∧ SourcesClear 9 1 false [⟨3, 4, 4⟩] :=
  ⟨passes_spec (by decide +kernel), ⟨_, rfl⟩, clear_spec (by decide), passes_spec (by decide +kernel), clear_spec (by decide),
   passes_spec (by decide +kernel), clear_spec (by decide), clear_spec (by decide)⟩

theorem witness_VectorReduction :
    let s := user .compute
    Passes (.vred .add true true .rne ⟨.s8, .n4, 63, 0⟩ {}) s 0 [] ∧ SourcesClear 63 1 true [⟨1, 0, 4⟩] ∧
    Passes (.vred .amax false false .rne ⟨.f32, .n1, 63, 0⟩ {}) s 0 [] ∧ Passes (.vred .min false true .rne ⟨.bf16, .n1, 63, 63⟩ {}) s 0 [] ∧
    SourcesClear 63 1 true [⟨1, 63, 1⟩] ∧ Passes (.vscan .add .rne ⟨.z4, .n1, 1, 2⟩ {}) s 0 [] ∧ Passes (.vscan .add .rsr ⟨.f32, .n1, 1, 2⟩ {}) s 0 [] :=
  ⟨passes_spec (by decide +kernel), clear_spec (by decide), passes_spec (by decide +kernel), passes_spec (by decide +kernel), clear_spec (by decide),
   passes_spec (by decide +kernel), passes_spec (by decide +kernel)⟩

/-- A compute tile with one mask, all lanes off but lane 0. -/
def maskTile (d : BitVec 5) : Tile := { liveTile with store := { Store.reset with mask := (Vector.replicate 16 1), depth := d } }

/-- Vector accesses of one lane at the end of the scratchpad. -/
theorem witness_VectorScratchpad :
    let s := on .compute .user (maskTile 1)
    let m : MemOp := ⟨.g 0, .lit 0x017FFFFC⟩
    Passes (.vld .n1 0 m {}) s 0 [] ∧ (∀ j, j ∈ activeOf s 32 1 → spadFree s (0x017FFFFC + 4 * j) 4 false) ∧
    Passes (.vst .n1 m 0 {}) s 0 [] ∧ (∀ j, j ∈ activeOf s 32 1 → spadFree s (0x017FFFFC + 4 * j) 4 true) ∧
    Passes (.vldx .s32 .n1 0 (.g 0) 1 2 {}) s 0 [] ∧ SourcesClear 0 1 true [⟨2, 1, 1⟩] ∧
    (∀ e, e ∈ activeOf s 32 1 → spadFree s 0 4 false) ∧ Passes (.vstx .s8 .n1 (.g 0) 4 1 3 {}) s 0 [] ∧
    (∀ e, e ∈ activeOf s 8 1 → spadFree s 0 1 true) ∧ (activeOf s 32 1 = [0]) :=
  ⟨passes_spec (by decide +kernel), by unfold spadFree; decide +kernel, passes_spec (by decide +kernel), by unfold spadFree; decide +kernel,
   passes_spec (by decide +kernel), clear_spec (by decide), by unfold spadFree; decide +kernel, passes_spec (by decide +kernel),
   by unfold spadFree; decide +kernel, by decide +kernel⟩

/-- The mask stack at depths 0, 1, 15 and 16. -/
theorem witness_MaskStack :
    let at_ := fun d => on .compute .user (maskTile d)
    Passes (.vmpush .n4 0 {}) (at_ 15) 0 [] ∧ (at_ 15).me.store.depth.toNat < 16 ∧ Passes (.vmset true 0 {}) (at_ 15) 0 [] ∧
    Passes (.vmset false 0 {}) (at_ 16) 0 [] ∧ Passes (.vminv {}) (at_ 1) 0 [] ∧ Passes (.vmpop {}) (at_ 1) 0 [] ∧ 0 < (at_ 1).me.store.depth.toNat ∧
    Passes (.vmget (.mask 63) {}) (at_ 0) 0 [] ∧ Passes (.vmget (.depth 31) {}) (at_ 16) 0 [] ∧ Passes (.vmcnt 1 .n4 {}) (at_ 0) 0 [] ∧
    Passes (.vmpush .n1 0 {}) (at_ 16) 0 [] ∧ (at_ 16).me.store.depth = 16 ∧ Passes (.vmpop {}) (at_ 0) 0 [] ∧ (at_ 0).me.store.depth = 0 ∧
    OwnsTileState (at_ 15) :=
  ⟨passes_spec (by decide +kernel), by decide +kernel, passes_spec (by decide +kernel), passes_spec (by decide +kernel), passes_spec (by decide +kernel),
   passes_spec (by decide +kernel), by decide +kernel, passes_spec (by decide +kernel), passes_spec (by decide +kernel), passes_spec (by decide +kernel),
   passes_spec (by decide +kernel), by decide +kernel, passes_spec (by decide +kernel), by decide +kernel, by unfold OwnsTileState; decide +kernel⟩

/-- R161: a service context beside its user. -/
theorem witness_ShareMode :
    let s := on .compute .service liveTile
    (opOf (.vmov .n1 1 2 {})).isSome = true ∧ s.cur.ctx = .service ∧ s.myCore.v.mode = .share ∧ s.me.task.isSome = true ∧
    ∃ t, exec (.vmov .n1 1 2 {}) s = .next t :=
  ⟨rfl, rfl, by decide +kernel, by decide +kernel, ⟨_, rfl⟩⟩

/-- A tile with a nest running or pending and a MOUT. -/
def nestTile (run pend : Option NestOp) (mo : Option MoutOp) : Tile :=
  { liveTile with eng := { Engines.reset with running := run, pending := pend, mout := mo, order := 3 } }

/-- What an asynchronous operation of the compute stream keeps, its order given. -/
def someInfo (k : Nat) : OpInfo := { copyOp.info with stream := .compute, order := k }

/-- The shadow nest registers of a nest of one step of 8-bit integers onto tile 0, A and B in the scratchpad. -/
def nestRegs : Vector Word64 20 := (((Vector.replicate 20 0).set 0 0x80000).set 2 0x10000).set 9 1

/-- That nest, accepted. -/
def someNest : NestOp := { info := someInfo 0, regs := nestRegs, steps := 0, ghost := false, replay := false }

/-- MOUT.s8.sat of tile 7 to the end of the scratchpad. -/
def moutInst : Instr := .mout .s8 .rne true 7 (.g 1) (.g 2) 0 {}

/-- It, at its last row. -/
def someMout : MoutOp := { info := { someInfo 1 with ra := 0x17F8000, rb := 256 }, inst := moutInst, rows := 127 }

/-- MCFG of the first and the last shadow register beside a nest, from a literal and from a register. -/
theorem witness_ShadowRegisterWritten :
    let s := on .compute .user { maskTile 1 with eng := (nestTile (some someNest) none (some someMout)).eng }
    OwnsTileState s ∧ Passes (.mcfg 0 (.reg (.g 31)) {}) s 0 [] ∧ Passes (.mcfg 19 (.lit 0xFFFFFFFF) {}) s 0 [] :=
  ⟨by unfold OwnsTileState; decide +kernel, passes_spec (by decide +kernel), passes_spec (by decide +kernel)⟩

/-- The synchronous matrix instructions, tiles 0 and 7 involved, beside a nest on tile 0 and a MOUT of tile 7. -/
theorem witness_MatrixInstructions :
    let s := on .compute .user { maskTile 1 with eng := (nestTile (some someNest) none (some someMout)).eng }
    let go := on .compute .user { liveTile with store := { Store.reset with shadow := nestRegs } }
    let busy := on .compute .user { nestTile (some someNest) (some someNest) none with store := { Store.reset with shadow := nestRegs } }
    let out := ((user .compute).writeG 1 0x17F8000).writeG 2 256
    OwnsTileState s ∧ Passes (.mzero 0x7E {}) s 0 [] ∧
    (∀ n ∈ s.me.nests, ∀ k ∈ nestTiles n.regs, (0x7E : BitVec 8).getLsbD k = false) ∧
    (∀ n ∈ s.me.nests, (nestCfg n.regs).asrc = true → (0x7E : BitVec 8).getLsbD ((nestCfg n.regs).abase % 8) = false) ∧
    (∀ o, s.me.eng.mout = some o → (0x7E : BitVec 8).getLsbD (moutTile o.inst) = false) ∧
    Passes (.mget .n4 60 7 (.lit 32256) {}) s 0 [] ∧ (∀ m ∈ s.me.nests, (7 : Fin 8).val ∉ nestTiles m.regs) ∧
    (∀ j ∈ activeOf s 32 4, 128 * 7 + (32256 + j) / 256 ∉ s.me.store.accBad) ∧ Passes (.mput true true .n1 1 63 (.lit 0) {}) s 0 [] ∧
    (∀ m ∈ s.me.nests, (1 : Fin 8).val ∉ nestTiles m.regs ∧ ((nestCfg m.regs).asrc = true → (nestCfg m.regs).abase % 8 ≠ (1 : Fin 8).val)) ∧
    (∀ o, s.me.eng.mout = some o → moutTile o.inst ≠ 1) ∧ (∀ j ∈ activeOf s 32 1, 128 * 1 + (0 + j) / 256 ∉ s.me.store.accBad) ∧
    Passes (.mstat 1 true {}) s 0 [] ∧ Passes (.mstat 1 false {}) s 0 [] ∧ Passes (.msync {}) s 0 [] ∧ Passes (.msync {}) go 0 [] ∧
    Passes (.mgo {}) go 0 [] ∧ mgoTrap go.me = none ∧ go.me.eng.pending = none ∧ nestMeetsMout go.me go.me.store.shadow = false ∧
    asyncCount go.me < 32 ∧ Passes (.mgo {}) busy 0 [] ∧ mgoTrap busy.me = none ∧ busy.me.eng.pending.isSome = true ∧
    Passes moutInst out 0 [] ∧ (out.src (.g 1)).toNat + 127 * 256 + 256 = spadBytes ∧ out.me.eng.mout = none ∧ s.me.eng.mout.isSome = true :=
  ⟨by unfold OwnsTileState; decide +kernel, passes_spec (by decide +kernel), by decide +kernel, by decide +kernel,
   by intro o h; cases h; decide, passes_spec (by decide +kernel), by decide +kernel, by decide +kernel, passes_spec (by decide +kernel),
   by decide +kernel, by intro o h; cases h; decide, by decide +kernel, passes_spec (by decide +kernel), passes_spec (by decide +kernel),
   passes_spec (by decide +kernel), passes_spec (by decide +kernel), passes_spec (by decide +kernel), by decide +kernel, by decide +kernel,
   by decide +kernel, by decide +kernel, passes_spec (by decide +kernel), by decide +kernel, by decide +kernel, passes_spec (by decide +kernel),
   by decide +kernel, by decide +kernel, by decide +kernel⟩

/-- A pending nest; a running one at its only step; a MOUT at its last row. -/
theorem witness_MatrixSteps :
    let p := user .compute |>.setTile 0 (nestTile none (some someNest) none)
    let s := user .compute |>.setTile 191 (nestTile (some someNest) none none)
    let o := user .compute |>.setTile 5 (nestTile none none (some someMout))
    ((p.tile 0).eng.running = none ∧ (p.tile 0).eng.pending = some someNest ∧ stopsNow (p.tile 0) someNest.info = false) ∧
    ((s.tile 191).eng.running = some someNest ∧ someNest.info.fault = none ∧ stopsNow (s.tile 191) someNest.info = false ∧ (s.tile 191).degraded = false ∧
      someNest.steps < nestTotal nestRegs ∧
      stepStalled (s.tile 191) someNest = false ∧ stepBad (s.tile 191).store (nestStepCfg nestRegs 0) = none ∧ (nestStepCfg nestRegs 0).t < 8) ∧
    ((o.tile 5).eng.mout = some someMout ∧ moutOk .s8 .rne true = true ∧ someMout.info.fault = none ∧ stopsNow (o.tile 5) someMout.info = false ∧
      someMout.rows < 128 ∧ spadStall (o.tile 5) (some 1) (someMout.off + 127 * someMout.stride) 256 true = none ∧
      someMout.off + 127 * someMout.stride + 256 = spadBytes ∧ 128 * 7 + 127 ∉ (o.tile 5).store.accBad) := by
  decide +kernel

/-! ### Firmware -/

/-- `StateAccess` of an entered context of a drained tile. -/
def stateAt (i : Instr) (s : State) (a : GSrc) (imm : BitVec 32) (k : Nat) : Bool :=
  passes i s 0 [] && decide (s.myCore.v.mode = .entered) && s.me.drain.drained && ((s.withTv 0).src a + imm.setWidth 64).toNat == k

theorem stateAt_spec {i : Instr} {s : State} {a : GSrc} {imm : BitVec 32} {k : Nat} (h : stateAt i s a imm k = true) : StateAccess i s a imm k := by
  simp only [stateAt, Bool.and_eq_true, decide_eq_true_eq, beq_iff_eq] at h
  exact ⟨passes_spec h.1.1.1, h.1.1.2, h.1.2, h.2⟩

/-- The last index of each part of each space; a status written with COUNT 16 and CEIL 16; outside entered mode; entered, not drained. -/
theorem witness_FirmwareState :
    let s := entered .compute
    let w := s.writeG 2 0x1010
    let early := on .compute .service { enteredTile with drain := Drain.none }
    StateAccess (.saveq 1 (.g 0) 43 {}) s (.g 0) 43 (8 * 5 + 3) ∧ StateAccess (.saveq 1 (.g 0) 44 {}) s (.g 0) 44 (8 * 5 + 4) ∧
    (s.me.queue 5).reserved < 256 ∧ StateAccess (.saveq 1 (.g 0) 0x10FF {}) s (.g 0) 0x10FF (0x100 + 4095) ∧
    StateAccess (.inflrd 1 (.g 0) 1023 {}) s (.g 0) 1023 1023 ∧ StateAccess (.stksave 1 (.g 0) 127 {}) s (.g 0) 127 (8 * 15 + 7) ∧
    StateAccess (.stksave 1 (.g 0) 128 {}) s (.g 0) 128 128 ∧ StateAccess (.nestrd 1 (.g 0) 19 {}) s (.g 0) 19 19 ∧
    StateAccess (.nestrd 1 (.g 0) 0x2FFFF {}) s (.g 0) 0x2FFFF (0x10000 + 16384 * 7 + 16383) ∧
    128 * 7 + 2 * 16383 / 256 ∉ s.me.store.accBad ∧ StateAccess (.nestrd 1 (.g 0) 0x40FFF {}) s (.g 0) 0x40FFF (0x40000 + 64 * 63 + 63) ∧
    StateAccess (.loadq (.g 0) 43 (.g 2) {}) w (.g 0) 43 (8 * 5 + 3) ∧ StateAccess (.loadq (.g 0) 44 (.g 2) {}) w (.g 0) 44 (8 * 5 + 4) ∧
    (((w.withTv 0).src (.g 2)).extractLsb' 0 5 = 16 ∧ ((w.withTv 0).src (.g 2)).extractLsb' 8 5 = 16) ∧
    StateAccess (.loadq (.g 0) 0x10FF (.g 2) {}) w (.g 0) 0x10FF (0x100 + 4095) ∧ StateAccess (.inflwr (.g 0) 1023 (.g 2) {}) w (.g 0) 1023 1023 ∧
    StateAccess (.stkload (.g 0) 127 (.g 2) {}) w (.g 0) 127 (8 * 15 + 7) ∧ StateAccess (.stkload (.g 0) 128 (.g 0) {}) w (.g 0) 128 128 ∧
    StateAccess (.nestwr (.g 0) 19 (.g 2) {}) w (.g 0) 19 19 ∧
    StateAccess (.nestwr (.g 0) 0x2FFFF (.g 2) {}) w (.g 0) 0x2FFFF (0x10000 + 16384 * 7 + 16383) ∧
    StateAccess (.nestwr (.g 0) 0x40FFF (.g 2) {}) w (.g 0) 0x40FFF (0x40000 + 64 * 63 + 63) ∧
    Passes (.saveq 1 (.g 0) 0 {}) (on .load .service liveTile) 0 [] ∧ (on .load .service liveTile).myCore.v.mode ≠ .entered ∧
    Passes (.nestwr (.g 0) 0 (.g 2) {}) early 0 [] ∧ early.myCore.v.mode = .entered ∧ early.me.drain.drained = false ∧ nestSpace 0 = true :=
  ⟨stateAt_spec (by decide +kernel), stateAt_spec (by decide +kernel), by decide +kernel, stateAt_spec (by decide +kernel), stateAt_spec (by decide +kernel),
   stateAt_spec (by decide +kernel), stateAt_spec (by decide +kernel), stateAt_spec (by decide +kernel), stateAt_spec (by decide +kernel),
   by decide +kernel, stateAt_spec (by decide +kernel), stateAt_spec (by decide +kernel), stateAt_spec (by decide +kernel), by decide +kernel,
   stateAt_spec (by decide +kernel), stateAt_spec (by decide +kernel), stateAt_spec (by decide +kernel), stateAt_spec (by decide +kernel),
   stateAt_spec (by decide +kernel), stateAt_spec (by decide +kernel), stateAt_spec (by decide +kernel), passes_spec (by decide +kernel),
   by decide +kernel, passes_spec (by decide +kernel), by decide +kernel, by decide +kernel, by decide +kernel⟩

/-- IDLE in share mode and in a context entered alone; a doorbell needs nothing; an IDLE whose limit is reached, and one without a limit. -/
theorem witness_Idle :
    let idle := fun l => { liveTile with ld := { liveCore with v := { liveCore.v with idle := some (l, 3) } } }
    let late := fun l => { on .load .user (idle l) with time := { TimeUnit.reset with now := 6486480 } }
    Passes (.idle 1 (.g 0) {}) (on .load .service liveTile) 0 [] ∧ (on .load .service liveTile).myCore.v.mode ≠ .alone ∧
    Passes (.idle 1 (.g 0) {}) (on .load .service aloneTile) 0 [] ∧ (on .load .service aloneTile).myCore.v.mode = .alone ∧
    (((late 1).tile 0).core .load).v.idle = some (1, 3) ∧ (1 : Word64).toNat ≤ (late 1).ns ∧
    (((late 2).tile 0).core .load).v.idle = some (2, 3) ∧ (late 2).ns < (2 : Word64).toNat ∧ (((late 0).tile 0).core .load).v.idle = some (0, 3) :=
  ⟨passes_spec (by decide +kernel), by decide +kernel, passes_spec (by decide +kernel), by decide +kernel, by decide +kernel, by decide +kernel,
   by decide +kernel, by decide +kernel, by decide +kernel⟩

/-- A tile whose other streams have decided. -/
def votedTile (v : Vote) : Tile :=
  let c := fun w => { enteredTile.ld with v := { enteredTile.ld.v with vote := w } }
  { enteredTile with ld := c none, cp := c (some v), st := c (some v) }

/-- SVRET alone; entered with the drain incomplete, with another context undecided, and as the last decision (.done and .resume). -/
theorem witness_SvretDecides :
    let a := on .load .service { aloneTile with ld := { aloneTile.ld with v := { aloneTile.ld.v with trec := { TrapRec.zero with cause := 0x3F } } } }
    let e := entered .load
    let v := fun x => on .load .service (votedTile x)
    let early := on .load .service { enteredTile with drain := Drain.none }
    Passes (.svret .skip {}) a 0 [] ∧ svretIllegal (a.withTv 0) .skip = false ∧ a.myCore.v.mode = .alone ∧
    Passes (.svret .resume {}) e 0 [] ∧ svretIllegal (e.withTv 0) .resume = false ∧ e.me.drain.drained = true ∧ chanBusy e.me .load = false ∧
    (e.me.core .store).v.vote = none ∧ early.me.drain.drained = false ∧ Passes (.svret .resume {}) early 0 [] ∧
    svretIllegal (early.withTv 0) .resume = false ∧
    Passes (.svret (.done (.g 1)) {}) ((v .resume).writeG 1 2) 0 [] ∧ svretIllegal (((v .resume).writeG 1 2).withTv 0) (.done (.g 1)) = false ∧
    Passes (.svret .resume {}) (v .resume) 0 [] ∧ svretIllegal ((v .resume).withTv 0) .resume = false ∧
    (v .resume).me.drain.timeout = false ∧ (v .resume).myCore.u.life = .live ∧ (v .resume).me.task = some placedTask ∧
    (∀ st, st ≠ Stream.load → ((v .resume).me.core st).v.vote = some .resume) ∧ (v .resume).me.drain.spend = none ∧ (v .resume).me.drain.preq = false ∧
    (∀ e, e < 32 → (smGet 0 (32 * e) (v .resume).me.store.infl).toNat % 256 = 0) :=
  ⟨passes_spec (by decide +kernel), by decide +kernel, by decide +kernel, passes_spec (by decide +kernel), by decide +kernel, by decide +kernel,
   by decide +kernel, by decide +kernel, by decide +kernel, passes_spec (by decide +kernel), by decide +kernel, passes_spec (by decide +kernel),
   by decide +kernel, passes_spec (by decide +kernel), by decide +kernel, by decide +kernel, by decide +kernel, by decide +kernel,
   fun st h => by cases st <;> first | exact absurd rfl h | decide +kernel, by decide +kernel, by decide +kernel, by decide +kernel⟩

/-- The words of an in-flight table whose last place holds a nest, a DCPY of 64 bytes on channel 7, an entry of no KIND. -/
def nestEntry : SMap Word64 := [(32 * 31, 0xFF0102), (32 * 31 + 3, 0xE100000000000000)]
/-- The DCPY. -/
def copyWord128 : Word128 := (encode (.dcpy ⟨7, .g 1, .g 2, .g 3, 0⟩ {})).getD 0
def copyEntry : SMap Word64 :=
  [(32 * 31, 0x070001), (32 * 31 + 1, 64), (32 * 31 + 2, copyWord128.extractLsb' 0 64), (32 * 31 + 3, copyWord128.extractLsb' 64 64), (32 * 31 + 10, 64)]
def badEntry : SMap Word64 := [(32 * 31, 5)]

/-- The streams. -/
theorem all_streams {p : Stream → Bool} (h : [Stream.load, .compute, .store].all p = true) (st : Stream) : p st = true := by
  simp only [List.all_cons, List.all_nil, Bool.and_eq_true, Bool.and_true] at h
  cases st
  · exact h.1
  · exact h.2.1
  · exact h.2.2

/-- The last context decides .resume over a tile with a given table and drain. -/
def lastVote (v : Vote) (infl : SMap Word64) (d : Drain) : State :=
  on .load .service { votedTile v with store := { Store.reset with infl := infl }, drain := { d with drained := true } }

/-- What the clauses about the last decision share. -/
def isLast (s : State) : Bool :=
  passes (.svret .resume {}) s 0 [] && !svretIllegal (s.withTv 0) .resume && s.me.drain.drained && !chanBusy s.me .load && !s.me.drain.timeout &&
  decide (s.me.task = some placedTask) && decide (s.cur.stream = .load) &&
  [Stream.load, .compute, .store].all fun st => decide ((s.me.core st).pend = none) && (st == .load || (s.me.core st).v.vote.isSome)

theorem isLast_spec {s : State} (h : isLast s = true) :
    Passes (.svret .resume {}) s 0 [] ∧ svretIllegal (s.withTv 0) .resume = false ∧ s.me.drain.drained = true ∧ chanBusy s.me .load = false ∧
    s.me.drain.timeout = false ∧ s.me.task = some placedTask ∧ LastToDecide s := by
  simp only [isLast, Bool.and_eq_true, decide_eq_true_eq, Bool.not_eq_true'] at h
  obtain ⟨⟨⟨⟨⟨⟨⟨h1, h2⟩, h3⟩, h4⟩, h5⟩, h6⟩, h7⟩, h8⟩ := h
  refine ⟨passes_spec h1, h2, h3, h4, h5, h6, fun st hn _ hv => ?_, fun st => ?_⟩ <;> have := all_streams h8 st <;>
    simp only [Bool.and_eq_true, decide_eq_true_eq, Bool.or_eq_true, beq_iff_eq] at this
  · rcases this.2 with h | h
    · exact hn (h.trans h7.symm)
    · rw [hv] at h; cases h
  · exact this.1

/-- An entry that fails no check of R374 before that of its range. -/
def entryGood (s : State) (e : Nat) (i : Instr) : Bool :=
  let bs := entryAt s e
  let w := wordAt s e
  let kind := kindAt s e
  decide (kind ≤ 4) && decide (decode w = .ok i) && decide (wordOp w ∈ ruleKindOps kind) && decide (fieldAt bs 1 1 ≤ 2) &&
  decide (fieldAt bs 2 1 = (if kind = 1 then (w.extractLsb' 80 3).toNat else 0xFF)) && decide (¬(kind = 3 ∧ 128 < fieldAt bs 8 8)) &&
  decide (¬(kind = 4 ∧ fieldAt bs 8 8 ≠ 0)) && decide (fieldAt bs 0x20 8 = 0) &&
  [Stream.load, .compute, .store].all fun st => fieldAt bs 1 1 != streamCode st ||
    (decide (if kind = 1 then st = (if wordOp w < 0x60 then .load else .store) else if kind = 4 then st ≠ .compute else st = .compute) &&
      decide ((s.me.core st).u.life = .live))

theorem entryGood_spec {s : State} {e : Nat} {i : Instr} (h : entryGood s e i = true) : ¬EntryFails s e := by
  simp only [entryGood, Bool.and_eq_true, decide_eq_true_eq] at h
  obtain ⟨⟨⟨⟨⟨⟨⟨⟨h1, h2⟩, h3⟩, h4⟩, h5⟩, h6⟩, h7⟩, h8⟩, h9⟩ := h
  rintro (h | h | h | h | ⟨st, h, hh⟩ | h | h | h | ⟨st, b, _, h, _⟩)
  · omega
  · exact h i h2
  · exact h h3
  · omega
  · have := all_streams h9 st
    simp only [Bool.or_eq_true, Bool.and_eq_true, decide_eq_true_eq, bne_iff_ne] at this
    rcases this with g | g
    · exact g h
    · rcases hh with hh | hh
      · exact hh g.1
      · exact hh g.2
  · exact h h5
  · exact h6 h
  · exact h7 h
  · rw [h8] at h; cases b <;> simp at h

/-- The other endings of an SVRET: .done alone, a .leave among the decisions, a pending STRAGGLER and PREEMPT, a table whose entry fails, and one
with a DCPY or a nest. -/
theorem witness_SvretLast :
    let a := (on .load .service aloneTile).writeG 1 2
    Passes (.svret (.done (.g 1)) {}) a 0 [] ∧ svretIllegal (a.withTv 0) (.done (.g 1)) = false ∧ a.myCore.v.mode = .alone ∧ a.myCore.u.life = .live ∧
    a.me.drain.draining = false ∧ a.me.drain.drained = false ∧
    LastToDecide (lastVote .leave [] Drain.none) ∧ voteAfter (lastVote .leave [] Drain.none) .resume .store = some .leave ∧
    LastToDecide (lastVote .skip [] { Drain.none with spend := some 5 }) ∧ AllGoOn (lastVote .skip [] { Drain.none with spend := some 5 }) .resume ∧
    LastToDecide (lastVote .skip [] { Drain.none with preq := true }) ∧
    (let s := lastVote .resume badEntry Drain.none
     LastToDecide s ∧ FirstEntry s 31 ∧ EntryFails s 31) ∧
    (let s := lastVote .resume copyEntry Drain.none
     LastToDecide s ∧ OnlyEntry s 31 ∧ ¬EntryFails s 31 ∧ kindAt s 31 = 1 ∧ decode (wordAt s 31) = .ok (.dcpy ⟨7, .g 1, .g 2, .g 3, 0⟩ {}) ∧
       fieldAt (entryAt s 31) 8 8 ≤ (entryXfer (entryAt s 31) (entryInfo s.me (entryAt s 31) .load none) (.dcpy ⟨7, .g 1, .g 2, .g 3, 0⟩ {}) (s.fab.nextTag + 31)).rangeLen) ∧
    (let s := lastVote .resume nestEntry Drain.none
     LastToDecide s ∧ OnlyEntry s 31 ∧ ¬EntryFails s 31 ∧ kindAt s 31 = 2 ∧ s.me.eng.running = none ∧
       fieldAt (entryAt s 31) 8 8 ≤ nestTotal (entryNest (entryAt s 31))) := by
  refine ⟨passes_spec (by decide +kernel), by decide +kernel, by decide +kernel, by decide +kernel, by decide +kernel, by decide +kernel,
    (isLast_spec (by decide +kernel)).2.2.2.2.2.2, by decide +kernel, (isLast_spec (by decide +kernel)).2.2.2.2.2.2,
    fun st => by cases st <;> simp [voteAfter, lastVote, on, votedTile] <;> decide +kernel, (isLast_spec (by decide +kernel)).2.2.2.2.2.2,
    ⟨(isLast_spec (by decide +kernel)).2.2.2.2.2.2, by unfold FirstEntry; decide +kernel, .inl (by decide +kernel)⟩,
    ⟨(isLast_spec (by decide +kernel)).2.2.2.2.2.2, by unfold OnlyEntry; decide +kernel,
      entryGood_spec (i := .dcpy ⟨7, .g 1, .g 2, .g 3, 0⟩ {}) (by decide +kernel), by decide +kernel, by decide +kernel, by decide +kernel⟩,
    ⟨(isLast_spec (by decide +kernel)).2.2.2.2.2.2, by unfold OnlyEntry; decide +kernel, entryGood_spec (i := .mgo {}) (by decide +kernel),
      by decide +kernel, by decide +kernel, by decide +kernel⟩⟩

/-! ### Tasks, drains, transfers -/

/-- A TASKS packet of queue 3: COUNT 2, DIEMASK die 11, its seal right. -/
def taskBytes : List Byte := withSeal (leBytes 2 1 ++ [0, 4] ++ leBytes 2 2 ++ leBytes 2 2048 ++ zeros 56) 64

/-- A taken packet of queue 3 with its identity and bytes. -/
def somePkt (id : Nat) (bs : List Byte) : Pkt :=
  { id := id, q := 3, job := 0, bytes := bs, started := none, desc := [], ready := [], tasks := [], status := none, recs := [], stage := 0, fin := false,
    waits := [], free := false }

/-- The module with some packets. -/
def withPkts (s : State) (ps : List Pkt) : State := { s with disp := { s.disp with pkts := ps, nextPkt := 9 } }

/-- The store and the state that the reads of a task start leave. -/
def startOf (r : StartRes) : Store × State := match r with | .ok st s => (st, s) | _ => (Store.reset, State.reset)
/-- Whether they are done. -/
def startOk (r : StartRes) : Bool := match r with | .ok _ _ => true | _ => false

theorem startOk_spec {r : StartRes} (h : startOk r = true) : r = .ok (startOf r).1 (startOf r).2 := by
  cases r <;> first | rfl | cases h

/-- A task of a load and a store stream with one preload and arguments at 0x10000. -/
def freshTask : TaskSt :=
  { placedTask with entries := #v[0x1000, 0, 0x2000], argptr := 0x10000, preloads := leBytes 8 0x10040 ++ leBytes 4 64 ++ leBytes 4 64 ++ zeros 112 }

/-- A launch of two tasks for die 11, whose lowest free tile is 177; a task to start. -/
theorem witness_TaskPlacedAndStarted :
    let busy := { Tile.reset with task := some placedTask }
    let p := { somePkt 4 taskBytes with started := some 0, stage := 2, tasks := [(0, .placed 176)] }
    let s := withPkts ((on .load .user Tile.reset).setTile 176 busy) [p]
    let f := mapped .load { Tile.reset with task := some freshTask }
    let r := preload (dispAsker (dieOf 0) 0) 0 freshTask.preloads (List.range 8) (f.tile 0).store f
    let a := farKeepRead (startOf r).2 (dispAsker (dieOf 0) 0) farStart 0 8 .dispRead 0x10000 64
    (dieOf 177 = 11 ∧ freeTile s 177 = true ∧ (∀ u : TileId, u.val < 177 → dieOf u = 11 → freeTile s u = false) ∧ readyQueues s 11 = [3] ∧
      ∃ q, placeable s 11 3 = some q) ∧
    ((f.tile 0).task = some freshTask ∧ (∃ e ∈ freshTask.entries.toList, e ≠ 0) ∧ (f.tile 0).drain.spend = none ∧ (f.tile 0).drain.preq = false ∧
      r = .ok (startOf r).1 (startOf r).2 ∧ (startOf r).2.tile 0 = f.tile 0 ∧ a = .ok (farBytes a) (farState a) ∧ (farState a).tile 0 = f.tile 0) :=
  ⟨⟨by decide +kernel, by decide +kernel, by decide +kernel, by decide +kernel, Option.isSome_iff_exists.mp (by decide +kernel)⟩,
   ⟨by decide +kernel, ⟨0x1000, by decide +kernel, by decide +kernel⟩, by decide +kernel, by decide +kernel, startOk_spec (by decide +kernel), by decide +kernel,
    farOk_at (by decide +kernel), by decide +kernel⟩⟩

/-- A job RUNNING with a started task; one SAVED; one RESUMING with a saved task for tile 7. -/
theorem witness_JobPreemptionAndRestore :
    let s := on .load .user { liveTile with task := some { placedTask with tstart := some 5 } }
    let v : State := { State.reset with disp := { Disp.reset with jobs := [(0, { JobSt.reset with pre := 2 })] } }
    let r : State := { State.reset with disp := { Disp.reset with
      jobs := [(0, { JobSt.reset with pre := 3 })], saved := [(7, placedTask, #v[Life.live, .exited, .absent])] } }
    ((s.job 0).pre = 0 ∧ jobArmed s 0 = false ∧ holdsJob 0 (s.tile 0) = true ∧ holdsJob 0 (s.tile 1) = false ∧ inDrain (s.tile 0) = false) ∧
    ((v.job 0).pre = 2 ∧ jobArmed v 0 = false) ∧
    (savedFor r 7 = some (placedTask, #v[Life.live, .exited, .absent]) ∧ (r.tile 7).task = none ∧ 7 ∉ r.disp.nofit) := by decide +kernel

/-- A live tile that stalled for 4,096 clocks, and one whose watchdog count reached 2^16; below both; tiles whose drain may complete. -/
theorem witness_DrainsStartAndComplete :
    let stuck := on .load .user { liveTile with blocked := 4096, wcount := 65536 }
    let early := on .load .user { liveTile with blocked := 4095, wcount := 65535 }
    let d := fun (x : Drain) => on .load .user { enteredTile with drain := { x with draining := true, mark := 1 }, eng := (chanTile [copyOp]).eng }
    mayDrain (stuck.tile 0) ∧ 4096 ≤ (stuck.tile 0).blocked ∧ 2 ^ wdogExp (stuck.tile 0) ≤ (stuck.tile 0).wcount ∧ mayDrain (early.tile 0) ∧
    (early.tile 0).blocked < 4096 ∧ (early.tile 0).wcount < 2 ^ wdogExp (early.tile 0) ∧
    drainReady (d { Drain.none with cancel := true }) 0 = true ∧ drainReady (d { Drain.none with quiet := true, dead := true }) 0 = true ∧
    drainReady (d Drain.none) 0 = true ∧ ((d Drain.none).tile 0).task = some placedTask ∧
    (((d Drain.none).tile 0).core .load).v.mode = .entered ∧ (((d Drain.none).tile 0).core .load).v.vote = none := by
  unfold mayDrain
  exact ⟨⟨by decide +kernel, by decide +kernel, by decide +kernel, .load, by decide +kernel⟩, by decide +kernel, by decide +kernel,
    ⟨by decide +kernel, by decide +kernel, by decide +kernel, .load, by decide +kernel⟩, by decide +kernel, by decide +kernel, by decide +kernel,
    by decide +kernel, by decide +kernel, by decide +kernel, by decide +kernel, by decide +kernel⟩

/-- `HomeReached`, computed. -/
def reaches (x : State) (die : Nat) (p : Page) (idx n : Nat) : Bool :=
  (match targetOf x p.pa with | .hbm h => idx == hbmIndex p.striped h | _ => false) && rafterOk x die (dieOfIdx idx) && (homeReady x (idx / 64)).isNone &&
  sectorOk x (idx / 64) p && decide (0 < n) && decide (idx % 64 + n ≤ 64)

theorem reaches_spec {x : State} {die : Nat} {p : Page} {idx n : Nat} (h : reaches x die p idx n = true) : HomeReached x die p idx n := by
  simp only [reaches, Bool.and_eq_true, decide_eq_true_eq, Option.isNone_iff_eq_none] at h
  obtain ⟨⟨⟨⟨⟨h1, h2⟩, h3⟩, h4⟩, h5⟩, h6⟩ := h
  refine ⟨?_, h2, h3, h4, h5, h6⟩
  split at h1
  · exact ⟨_, by assumption, by simpa using h1⟩
  · cases h1

/-- What a part of a transfer answers. -/
def xrOf {α : Type} (d : α) (r : XR α) : α × State := match r with | .ok a s => (a, s) | _ => (d, State.reset)
/-- Whether it does. -/
def xrOk {α : Type} (r : XR α) : Bool := match r with | .ok _ _ => true | _ => false

theorem xrOk_spec {α : Type} {d : α} {r : XR α} (h : xrOk r = true) : r = .ok (xrOf d r).1 (xrOf d r).2 := by
  cases r <;> first | rfl | cases h

theorem xrUnit_spec {r : XR Unit} (h : xrOk r = true) : r = .ok () (xrOf () r).2 := by
  cases r <;> first | rfl | cases h

/-- The operation at the head of a store channel. -/
def storeTile (o : XferOp) : Tile := { liveTile with eng := { Engines.reset with chStore := Engines.reset.chStore.set 7 { ops := [o], retired := 0 }, order := 1 } }

/-- A DSTL, DFILL and RFLAG on the store core's channel 7. -/
def storeOp (i : Instr) : XferOp := { copyOp with info := { copyOp.info with stream := .store }, ch := 7, started := true, inst := i }

/-- A DLD through a maquette without stages, its page tolerance and layout as its record says. -/
def mdaOp : XferOp := { copyOp with inst := .dld ⟨0, .g 1, .g 2, 0x40, 1⟩ {}, layout := withSeal ([1, 0, 2, 0, 1, 0xF, 0, 0] ++ leBytes 8 0x10000 ++ leBytes 2 63 ++ zeros 46) 64, maq := zeros 512, started := true }

/-- `HomeReachedN`, computed. -/
def reachesN (x : State) (die : Nat) (p : Page) (idx n : Nat) : Bool :=
  (match targetOf x p.pa with | .hbm h => idx == hbmIndex p.striped h | _ => false) && rafterOk x die (dieOfIdx idx) && decide (0 < n) &&
  (List.range n).all fun j => (homeReady x ((idx + j) / 64)).isNone && sectorOk x ((idx + j) / 64) p

theorem reachesN_spec {x : State} {die : Nat} {p : Page} {idx n : Nat} (h : reachesN x die p idx n = true) : HomeReachedN x die p idx n := by
  simp only [reachesN, Bool.and_eq_true, decide_eq_true_eq, List.all_eq_true, List.mem_range, Option.isNone_iff_eq_none] at h
  obtain ⟨⟨⟨h1, h2⟩, h3⟩, h4⟩ := h
  have e : ∀ a, idx ≤ a → a < idx + n → a - idx < n ∧ idx + (a - idx) = a := by omega
  refine ⟨?_, h2, h3, fun a l u => ?_, fun a l u => ?_⟩
  · split at h1
    · exact ⟨_, by assumption, by simpa using h1⟩
    · cases h1
  · have g := h4 _ (e a l u).1; rw [(e a l u).2] at g; exact g.1
  · have g := h4 _ (e a l u).1; rw [(e a l u).2] at g; exact g.2

/-- `Placed`, computed. -/
def placed (p : Piece) : Bool :=
  (p.els.all fun e => e.bit % p.mw == 0 && e.sp % p.sw == 0) && (p.scs.all fun e => e.bit % 8 == 0 && e.sp % 8 == 0) &&
  decide (p.els.map (·.sp)).Nodup && decide (p.scs.map (·.sp)).Nodup &&
  (p.els.all fun e => p.scs.all fun c => e.sp + p.sw ≤ c.sp || c.sp + 8 ≤ e.sp) && p.stop == none

theorem placed_spec {p : Piece} (h : placed p = true) : Placed p := by
  simp only [placed, Bool.and_eq_true, List.all_eq_true, decide_eq_true_eq, beq_iff_eq, Bool.or_eq_true] at h
  obtain ⟨⟨⟨⟨⟨h1, h2⟩, h3⟩, h4⟩, h5⟩, h6⟩ := h
  exact ⟨fun e m => (h1 e m).1, fun e m => (h1 e m).2, h2, ⟨h3, h4, h5⟩, h6⟩

/-- A piece of a transfer that may be performed, with its page, its state and its home. -/
def pieceReady (s : State) (pl : Place) (o : XferOp) (p : Piece) : Bool :=
  decide ((o.pieces (s.tile pl.t).store)[0]? = some p) && !o.isDone 0 p && pieceMay s pl o (o.pieces (s.tile pl.t).store) 0 p &&
  (let r := piecePage s pl o p
   xrOk r && reaches (xrOf (pageAt 0) r).2 (dieOf pl.t).val (xrOf (pageAt 0) r).1 (hbmIndex false (xrOf (pageAt 0) r).1.pa) p.memBytes) &&
  decide (pieceStall (s.tile pl.t) o p = none) && decide (s.fab.locks = [])

theorem pieceReady_spec {s : State} {pl : Place} {o : XferOp} {p : Piece} (h : pieceReady s pl o p = true) :
    (o.pieces (s.tile pl.t).store)[0]? = some p ∧ o.isDone 0 p = false ∧ pieceMay s pl o (o.pieces (s.tile pl.t).store) 0 p = true ∧
    (∃ pg x idx, piecePage s pl o p = .ok pg x ∧ HomeReached x (dieOf pl.t).val pg idx p.memBytes) ∧
    pieceStall (s.tile pl.t) o p = none ∧ ∀ l ∈ s.fab.locks, l.owner ≠ redOwner pl o 0 := by
  simp only [pieceReady, Bool.and_eq_true, decide_eq_true_eq, Bool.not_eq_true'] at h
  obtain ⟨⟨⟨⟨⟨h1, h2⟩, h3⟩, h4, h5⟩, h6⟩, h7⟩ := h
  exact ⟨h1, h2, h3, ⟨_, _, _, xrOk_spec h4, reaches_spec h5⟩, h6, by simp [h7]⟩

/-- The first piece of an operation. -/
def pieceOf (o : XferOp) : Piece := ((o.pieces Store.reset)[0]?).getD ⟨[], 0, 0, [], none⟩

theorem one_piece {o : XferOp} (h : o.pieces Store.reset = [pieceOf o]) {w : Nat} {e : Elem} {es : List Elem} (he : (pieceOf o).els = e :: es)
    (hw : e.bit / (512 * (pieceOf o).mw) = w) (hs : (pieceOf o).stop = none) (k : Nat) :
    k ∈ [0] ↔ ∃ p e es, (o.pieces Store.reset)[k]? = some p ∧ p.stop = none ∧ p.els = e :: es ∧ e.bit / (512 * p.mw) = w := by
  rw [h]
  constructor
  · intro hk; rw [List.mem_singleton] at hk; subst hk; exact ⟨_, e, es, rfl, hs, he, hw⟩
  · rintro ⟨p, _, _, hk, _⟩
    cases k with
    | zero => exact List.mem_singleton.mpr rfl
    | succ n => simp at hk

/-- A transfer not started; an inbound, an outbound and a filling piece; a flag; a window; a CFENCE that joins nothing and one that joins. -/
theorem witness_TransferAdvances :
    let go := { copyOp with started := true }
    let put := storeOp (.dstl ⟨7, .g 1, .g 2, .g 3, 0⟩ {})
    let fill := storeOp (.dfill ⟨7, .g 1, .g 2, .g 3, 0⟩ {})
    let flag := { storeOp (.rflag 7 true .mod (.g 1) (.lit 5) {}) with flag := .waiting, info := { (storeOp (.nop {})).info with ra := 0x1FFF8, rb := 5 } }
    let s := fun st x => mapped st x
    let cf := fun n => { chanTile [copyOp] with eng := { (chanTile [copyOp]).eng with cf := [⟨{ copyOp.info with order := n }, 1⟩] } }
    (HeadIs (s .load (chanTile [copyOp])) ⟨0, false⟩ 0 copyOp [] ∧ opStops (chanTile [copyOp]) copyOp = false ∧
      cfenceHolds (chanTile [copyOp]) copyOp = false ∧ listStalled (chanTile [copyOp]) copyOp = false ∧ ownOverlap (s .load (chanTile [copyOp])) ⟨0, false⟩ copyOp = none ∧ (hasRecord copyOp.inst && copyOp.lay.maq != 0) = false) ∧
    (HeadIs (s .load (chanTile [go])) ⟨0, false⟩ 0 go [] ∧ pieceReady (s .load (chanTile [go])) ⟨0, false⟩ go (pieceOf go) = true ∧
      Placed (pieceOf go) ∧ (pieceOf go).mw = (pieceOf go).sw ∧ inbound go.inst = true ∧ go.begun 0 = false ∧ go.maq = []) ∧
    (HeadIs (s .store (storeTile put)) ⟨0, true⟩ 7 put [] ∧ pieceReady (s .store (storeTile put)) ⟨0, true⟩ put (pieceOf put) = true ∧
      Placed (pieceOf put) ∧ (pieceOf put).mw = (pieceOf put).sw ∧ inbound put.inst = false ∧ pieceBad (storeTile put) put (pieceOf put) = none) ∧
    (HeadIs (s .store (storeTile fill)) ⟨0, true⟩ 7 fill [] ∧ pieceReady (s .store (storeTile fill)) ⟨0, true⟩ fill (pieceOf fill) = true ∧
      isDfill fill.inst = true ∧ (pieceOf fill).stop = none) ∧
    (HeadIs (s .store (storeTile flag)) ⟨0, true⟩ 7 flag [] ∧ stopsNow (storeTile flag) flag.info = false ∧
      flagOf flag = some (0x1FFF8, .atom 0 8 5 0, .mod) ∧ flag.dataLeft Store.reset = false ∧
      translate (s .store (storeTile flag)) 0 0 0x1FFF8 = (.page (pageAt 0x1FFF8), (translate (s .store (storeTile flag)) 0 0 0x1FFF8).2) ∧
      accessCause (translate (s .store (storeTile flag)) 0 0 0x1FFF8).2 0 .rmw 8 false (pageAt 0x1FFF8) = none ∧
      HomeReached (translate (s .store (storeTile flag)) 0 0 0x1FFF8).2 0 (pageAt 0x1FFF8) 0x10FFF8 8 ∧
      mustFollow (translate (s .store (storeTile flag)) 0 0 0x1FFF8).2 ⟨0, true⟩ 0 [⟨0x10FFF8, 8, 0⟩] = false) ∧
    (HeadIs (s .load (chanTile [mdaOp])) ⟨0, false⟩ 0 mdaOp [] ∧ mdaOp.maq ≠ [] ∧
      ∀ k, k ∈ [0] ↔ ∃ p e es, (mdaOp.pieces Store.reset)[k]? = some p ∧ p.stop = none ∧ p.els = e :: es ∧ e.bit / (512 * p.mw) = 128) ∧
    ((cf 0).eng.cf.find? (fun d => d.info.order == 0) = some ⟨copyOp.info, 1⟩ ∧ stopsNow (cf 0) copyOp.info = false ∧
      (∀ o ∈ (cf 0).xfers, o.info.stream = Stream.load → o.info.order < 0 → (1 : BitVec 8).getLsbD o.ch.val = false)) ∧
    ∃ o ∈ (cf 1).xfers, o.info.stream = Stream.load ∧ o.info.order < 1 ∧ (1 : BitVec 8).getLsbD o.ch.val = true := by
  refine ⟨⟨⟨by decide +kernel, rfl, by simp⟩, by decide +kernel, by decide +kernel, by decide +kernel, by decide +kernel, rfl⟩,
    ⟨⟨by decide +kernel, rfl, by simp⟩, by decide +kernel, placed_spec (by decide +kernel), by decide +kernel, rfl, by decide +kernel, rfl⟩,
    ⟨⟨by decide +kernel, rfl, by simp⟩, by decide +kernel, placed_spec (by decide +kernel), by decide +kernel, rfl, by decide +kernel⟩,
    ⟨⟨by decide +kernel, rfl, by simp⟩, by decide +kernel, rfl, by decide +kernel⟩,
    ⟨⟨by decide +kernel, rfl, by simp⟩, by decide +kernel, by decide +kernel, by decide +kernel, by decide +kernel, by decide +kernel,
      reaches_spec (by decide +kernel), by decide +kernel⟩,
    ⟨⟨by decide +kernel, rfl, by simp⟩, by decide, one_piece (e := ((pieceOf mdaOp).els.headD ⟨0, 0, 0⟩)) (es := (pieceOf mdaOp).els.tail) (by decide +kernel) (by decide +kernel) (by decide +kernel) (by decide +kernel)⟩,
    ⟨by decide +kernel, by decide +kernel, fun o _ _ h => absurd h (Nat.not_lt_zero _)⟩, copyOp, by decide +kernel, by decide +kernel, by decide, by decide⟩

/-- A request of module 5 for this module's HBM at 0x100000, waiting at die 0. -/
def request (ty opc len : Nat) (pay : List Byte) : Packet :=
  { blankPacket with ty := BitVec.ofNat 8 ty, opc := BitVec.ofNat 16 opc, len := BitVec.ofNat 16 len, payload := pay, dmod := 1, smod := 5, sch := 3,
                     seq := 7, addr := 0x10000000100000 }

/-- A module numbered 1 with all its ports up and requests waiting at home. -/
def homeState (q : List HomeReq) : State :=
  let s := user .load
  { s with fab := { s.fab with modnum := 1, modset := true, portup := BitVec.allOnes 48, homeq := q } }

/-- `MayPerform` of a request that waits alone, computed. -/
def mayPerform (s : State) (hr : HomeReq) : Bool :=
  decide (s.fab.homeq[0]? = some hr) && decide (hr.held = none) && !tooOld s hr && !orderedWaits s hr.pkt && !earlierFirst s 0 hr.pkt &&
  reachesDie s hr && portsUp s hr.pkt.ddie.val

theorem mayPerform_spec {s : State} {hr : HomeReq} (h : mayPerform s hr = true) : MayPerform s 0 hr := by
  simp only [mayPerform, Bool.and_eq_true, decide_eq_true_eq, Bool.not_eq_true'] at h
  obtain ⟨⟨⟨⟨⟨⟨h1, h2⟩, h3⟩, h4⟩, h5⟩, h6⟩, h7⟩ := h
  exact ⟨h1, h2, h3, ⟨h4, h5⟩, h6, h7⟩

/-- A maquette with some bytes set, but for its seal: version 1. -/
def maqOf (bs : List (Nat × Nat)) : List Byte := bs.foldl (fun a x => a.set x.1 (BitVec.ofNat 8 x.2)) ((zeros 512).set 0 1)

/-- A request as it waits at home. -/
def waits (p : Packet) : HomeReq := ⟨p, 0, 0, 0, none⟩

/-- A maquette of one stage, x ADD constant 0, of .s8 elements. -/
def addMaq (kind : Nat) : List Byte := maqOf [(2, kind), (4, 2), (5, 2), (6, 1), (0x40, 1), (0x41, 6)]

/-- READ of a sector, WRITE of its last byte, ATOMIC add of 8 bytes, .fadd of 4 and ACAS; READ and WRITE of the last bytes of a scratchpad, with an
uncorrectable word; a half of a maquette; a READ, a WRITE and a COMBINE through a copy. -/
theorem witness_RequestPerformedAtHome :
    let s := fun p => homeState [waits p]
    let ok := fun (p : Packet) (idx n : Nat) =>
      mayPerform (s p) (waits p) &&
      decide (n = if p.ty = 0 then p.len.toNat else if p.ty = 2 then (if p.opc.toNat / 16 % 4 = 3 then 8 else 4) else p.payload.length) &&
      decide (p.stag = 0) && decide (reqStatus (s p) p = none) && reaches (s p) (dieOfIdx idx) (reqPage p) idx n
    let win := fun (p : Packet) (off : Nat) =>
      mayPerform (s p) (waits p) && decide (p.stag = 0) && decide (reqStatus (s p) p = none) && decide (targetOf (s p) p.addr.toNat = .window 0 off)
    let at_ := fun (p : Packet) => { p with addr := 0x140000017FFFC0 }
    let bad := (homeState [waits (at_ (request 0 0 64 []))]).setTile 0 { liveTile with store := { Store.reset with spadBad := [0x5FFFF0] } }
    let through := fun (ty : Nat) (pay : List Byte) =>
      let p := { request ty 0 64 pay with stag := 9 }
      let x := s p
      let x := { x with fab := { x.fab with maqs := [⟨5, 9, 0, some ((addMaq 0).take 256), some ((addMaq 0).drop 256)⟩] } }
      mayPerform x (waits p) && decide (reqStatus x p = none) && decide (maqCopy x p = some (0, addMaq 0)) && decide (ruleRec (addMaq 0) 0x28 8 = 0) &&
      decide (ruleRec (addMaq 0) 7 1 = 0) && reachesN x (dieOfIdx 0x100000) (reqPage p) 0x100000 64
    (ok (request 0 0 64 []) 0x100000 64 = true ∧ ok { request 1 0 1 [7] with addr := 0x1000000010003F } 0x10003F 1 = true ∧
      ok { request 2 0x30 8 [] with opnd := 9 } 0x100000 8 = true ∧ ok { request 2 0x21 4 [] with opnd := 9 } 0x100000 4 = true ∧
      ruleAtomOps[({ request 2 0x21 4 [] with opnd := 9 }).opc.toNat % 16]? = some .fadd ∧ ok { request 2 0x3F 8 [] with opnd := 9 } 0x100000 8 = true) ∧
    (win (at_ (request 0 0 64 [])) 0x17FFFC0 = true ∧ win (at_ (request 1 0 64 (zeros 64))) 0x17FFFC0 = true ∧
      windowStall liveTile 0 0x17FFFC0 64 true = false ∧ mayPerform bad (waits (at_ (request 0 0 64 []))) = true ∧
      spadBadAt (bad.tile 0).store 0x17FFFC0 64 ≠ none) ∧
    (mayPerform (s { request 4 1 256 (zeros 256) with stag := 9 }) (waits { request 4 1 256 (zeros 256) with stag := 9 }) = true) ∧
    (through 0 [] = true ∧ through 1 (zeros 64) = true ∧ through 3 (zeros 64) = true) := by
  refine ⟨⟨?_, ?_, ?_, ?_, ?_, ?_⟩, ⟨?_, ?_, ?_, ?_, ?_⟩, ?_, ?_, ?_, ?_⟩ <;> decide +kernel

/-- `ArrayPiece` of the first piece of an operation, computed, the page and the scales as the model finds them. -/
def arrayReady (s : State) (pl : Place) (ch : Fin 8) (o : XferOp) (p : Piece) : Bool :=
  let r := piecePage s pl o p
  let q := pieceScales (xrOf (pageAt 0) r).2 pl o 0 p
  decide (((s.tile pl.t).chan pl.store ch).ops = [o]) && decide (o.ch = ch) && o.started && decide ((o.pieces (s.tile pl.t).store)[0]? = some p) &&
  !o.isDone 0 p && !o.begun 0 && decide (p.els ≠ []) && pieceMay s pl o (o.pieces (s.tile pl.t).store) 0 p && decide (o.maq ≠ []) && decide (rstage o.maq = 0) &&
  placed p && decide (pieceStall (s.tile pl.t) o p = none) && decide (pieceBad (s.tile pl.t) o p = none) && decide (s.fab.locks = []) && xrOk r && xrOk q &&
  reachesN (xrOf (fun _ => 0) q).2 (dieOf pl.t).val (xrOf (pageAt 0) r).1 (hbmIndex false (xrOf (pageAt 0) r).1.pa) p.memBytes

theorem arrayReady_spec {s : State} {pl : Place} {ch : Fin 8} {o : XferOp} {p : Piece} (h : arrayReady s pl ch o p = true) :
    ∃ y pg idx sc, ArrayPiece s y pl ch o [] 0 p pg idx sc := by
  simp only [arrayReady, Bool.and_eq_true, decide_eq_true_eq, Bool.not_eq_true'] at h
  obtain ⟨⟨⟨⟨⟨⟨⟨⟨⟨⟨⟨⟨⟨⟨⟨⟨h1, h2⟩, h3⟩, h4⟩, h5⟩, h6⟩, h7⟩, h8⟩, h9⟩, h10⟩, h11⟩, h12⟩, h13⟩, h14⟩, h15⟩, h16⟩, h17⟩ := h
  exact ⟨_, _, _, _, ⟨h1, h2, by simp⟩, h3, h4, ⟨h5, h6, h7⟩, h8, ⟨h9, h10⟩, placed_spec h11, ⟨h12, fun _ => h13, by simp [h14]⟩,
    ⟨_, xrOk_spec h15, xrOk_spec h16⟩, reachesN_spec h17⟩

/-- A layout record of 64 elements at 0x10000, of a type, its flags, with a scratchpad format and a maquette at 0x10200. -/
def lay64 (fmt flags sf : Nat) : List Byte :=
  withSeal (leBytes 2 1 ++ leBytes 1 fmt ++ leBytes 1 flags ++ [1] ++ leBytes 1 sf ++ [0, 0] ++ leBytes 8 0x10000 ++ leBytes 2 63 ++ zeros 30 ++
    leBytes 8 0x10200 ++ zeros 8) 64

/-- A DLD, a DST and a DRED through a maquette, started. -/
def mdaGet (lay maq : List Byte) : XferOp := { mdaOp with layout := lay, maq := maq }
def mdaPut (lay maq : List Byte) : XferOp := { storeOp (.dst ⟨7, .g 1, .g 2, 0x40, 1⟩ none {}) with layout := lay, maq := maq }
def mdaRed (lay maq : List Byte) : XferOp := { storeOp (.dred ⟨7, .g 1, .g 2, 0x40, 1⟩ none {}) with layout := lay, maq := maq }

/-- The page that an access reaches. -/
def reachedPage (r : Reach × State) : Option Page := match r.1 with | .page p => some p | _ => none

theorem reachedPage_spec {r : Reach × State} {p : Page} (h : reachedPage r = some p) : r = (.page p, r.2) := by
  obtain ⟨a, s⟩ := r
  cases a <;> simp_all [reachedPage]

/-- A read, a write and a combine that pass an array; a maquette and a window; scales of a read, delivered, and of another format; a result. -/
theorem witness_ArrayComputes :
    let l := lay64 2 0 0xF
    let load := fun o => mapped .load (chanTile [o])
    let store := fun o => mapped .store (storeTile o)
    let scaled := maqOf [(2, 0), (6, 1), (0x40, 1), (0x41, 6), (0x42, 0x40)]
    let red := maqOf [(2, 0), (4, 2), (5, 2), (6, 1), (7, 1), (0x32, 1), (0x40, 0x14), (0x41, 6)]
    let g := mdaGet (lay64 9 2 0xF) scaled
    let r := reach (load (mdaGet l red)) (xferAsker (load (mdaGet l red)) ⟨0, false⟩ (mdaGet l red)) .rmw (BitVec.ofNat 64 (ruleRec red 0x30 8)) 4 0 false
    (∃ y pg idx sc, ArrayPiece (load (mdaGet l (addMaq 0))) y ⟨0, false⟩ 0 (mdaGet l (addMaq 0)) [] 0 (pieceOf (mdaGet l (addMaq 0))) pg idx sc) ∧
    ((∃ y pg idx sc, ArrayPiece (store (mdaPut l (addMaq 1))) y ⟨0, true⟩ 7 (mdaPut l (addMaq 1)) [] 0 (pieceOf (mdaPut l (addMaq 1))) pg idx sc) ∧
      (mdaPut l (addMaq 1)).writesCodes = false) ∧
    (∃ y pg idx sc, ArrayPiece (store (mdaRed l (addMaq 2))) y ⟨0, true⟩ 7 (mdaRed l (addMaq 2)) [] 0 (pieceOf (mdaRed l (addMaq 2))) pg idx sc) ∧
    ((addMaq 0).length = 512 ∧ (List.replicate 512 Box.idle).length = 512 ∧ maqFieldBad (addMaq 0) = none) ∧
    (g.lay.bsc = true ∧ usesScales g.maq = true ∧ maqKind g.inst ≠ 1 ∧ g.begun 0 = false ∧ g.scaleRuns (pieceOf g) = [(0x10000, [0, 1])] ∧ ∃ pg x idx,
      xferPage (load g) ⟨0, false⟩ g .mdaRead 0x10000 2 false true = .ok pg x ∧ HomeReached x (dieOf 0).val pg idx 2) ∧
    ((mdaPut (lay64 9 2 0xF) scaled).lay.delivered = true ∧ usesScales scaled = true ∧ (mdaPut (lay64 9 2 13) scaled).lay.sf ≠ 9 ∧
      (mdaPut (lay64 9 2 13) scaled).lay.fmt = 9) ∧
    (rstage red = 1 ∧ ruleStage red 0 36 4 = 0 ∧ r = (.page (pageAt 0x10000), r.2) ∧ HomeReached r.2 (dieOf 0).val (pageAt 0x10000) 0x100000 4) := by
  refine ⟨arrayReady_spec (by decide +kernel), ⟨arrayReady_spec (by decide +kernel), by decide +kernel⟩, arrayReady_spec (by decide +kernel),
    ⟨by decide +kernel, by decide +kernel, by decide +kernel⟩,
    ⟨by decide +kernel, by decide +kernel, by decide +kernel, by decide +kernel, by decide +kernel, _, _, 0x100000,
      xrOk_spec (d := pageAt 0) (by decide +kernel), reaches_spec (by decide +kernel)⟩,
    ⟨by decide +kernel, by decide +kernel, by decide +kernel, by decide +kernel⟩,
    ⟨by decide +kernel, by decide +kernel, reachedPage_spec (by decide +kernel), reaches_spec (by decide +kernel)⟩⟩

/-- The maquette with its seal, and the CRC of its other bytes by pieces. -/
def goodMaq : List Byte := (addMaq 0).take 508 ++ leBytes 4 2466652276

theorem crc_goodMaq : crc32c (goodMaq.take 508) = 2466652276 := by
  have h : goodMaq.take 508 = (addMaq 0).take 64 ++ ((addMaq 0).drop 64).take 64 ++ zeros 64 ++ zeros 64 ++ zeros 64 ++ zeros 64 ++ zeros 64 ++ zeros 60 := by
    decide +kernel
  have h0 : ((addMaq 0).take 64).foldl crcByte 0xFFFFFFFF = 3199760048 := by decide +kernel
  have h1 : (((addMaq 0).drop 64).take 64).foldl crcByte 3199760048 = 2874747843 := by decide +kernel
  have h2 : (zeros 64).foldl crcByte 2874747843 = 28921001 := by decide +kernel
  have h3 : (zeros 64).foldl crcByte 28921001 = 2453361299 := by decide +kernel
  have h4 : (zeros 64).foldl crcByte 2453361299 = 1448626594 := by decide +kernel
  have h5 : (zeros 64).foldl crcByte 1448626594 = 3891283295 := by decide +kernel
  have h6 : (zeros 64).foldl crcByte 3891283295 = 3105592968 := by decide +kernel
  have h7 : (zeros 60).foldl crcByte 3105592968 = 1828315019 := by decide +kernel
  have e : (goodMaq.take 508).foldl crcByte 0xFFFFFFFF = 1828315019 := by
    rw [h, List.foldl_append, List.foldl_append, List.foldl_append, List.foldl_append, List.foldl_append, List.foldl_append, List.foldl_append,
      h0, h1, h2, h3, h4, h5, h6, h7]
  rw [crc32c, e]
  decide

theorem xrIs {α : Type} {d a : α} {r : XR α} (h : xrOk r = true) (g : (xrOf d r).1 = a) : r = .ok a (xrOf d r).2 := by
  rw [← g]; exact xrOk_spec h

/-- A fault that an access meets. -/
def reachedFault (r : Reach × State) : Option (BitVec 8 × BitVec 32) := match r.1 with | .fault c i => some (c, i) | _ => none

theorem reachedFault_spec {r : Reach × State} {c : BitVec 8} {i : BitVec 32} (h : reachedFault r = some (c, i)) : r = (.fault c i, r.2) := by
  obtain ⟨a, s⟩ := r
  cases a <;> simp_all [reachedFault]

/-- `MayStart`, computed, for an operation alone on its channel. -/
def mayStart (s : State) (pl : Place) (ch : Fin 8) (o : XferOp) : Bool :=
  decide (((s.tile pl.t).chan pl.store ch).ops = [o]) && decide (o.ch = ch) && !o.started && !opStops (s.tile pl.t) o && !cfenceHolds (s.tile pl.t) o && !listStalled (s.tile pl.t) o &&
  decide (ownOverlap s pl o = none) && hasRecord o.inst && decide (o.lay.maq ≠ 0) && decide (o.info.ctx = .user) && !(s.tile pl.t).drain.draining &&
  !(s.tile pl.t).drain.drained

theorem mayStart_spec {s : State} {pl : Place} {ch : Fin 8} {o : XferOp} (h : mayStart s pl ch o = true) : MayStart s pl ch o [] := by
  simp only [mayStart, Bool.and_eq_true, decide_eq_true_eq, Bool.not_eq_true'] at h
  obtain ⟨⟨⟨⟨⟨⟨⟨⟨⟨⟨⟨h1, h0⟩, h2⟩, h3⟩, h4⟩, h5⟩, h6⟩, h7⟩, h8⟩, h9⟩, h10⟩, h11⟩ := h
  exact ⟨⟨h1, h0, by simp⟩, ⟨h2, h3⟩, ⟨h4, h5, h6⟩, ⟨h7, h8⟩, h9, h10, h11⟩

/-- A DLD with a maquette at 0x10200 that is good, that has no seal; one whose maquette lies where no page is. -/
theorem witness_MaquetteStarts :
    let o := { mdaOp with layout := lay64 2 0 0xF, started := false, maq := [] }
    let far := { o with layout := withSeal ((lay64 2 0 0xF).take 48 ++ leBytes 8 0x30000 ++ zeros 8) 64 }
    let s := mapped .load (chanTile [o])
    let good := { s with hbm := memWrite s.hbm 0x100200 goodMaq }
    let f := mapped .load (chanTile [far])
    let r := reach s (xferAsker s ⟨0, false⟩ o) .record (BitVec.ofNat 64 0x10200) 256 0 false
    let q := maqParts ⟨0, false⟩ o (maqCuts o.lay.maq).zipIdx good
    let z := maqParts ⟨0, false⟩ o (maqCuts o.lay.maq).zipIdx s
    (o.ans 0 (partMaq 0) = none ∧ o.sent 0 (partMaq 0) = false ∧ r = (.page (pageAt 0x10200), r.2) ∧
      mustFollow r.2 ⟨0, false⟩ o.info.order [touchAt r.2 (pageAt 0x10200) 256] = false ∧ HomeReachedN r.2 (dieOf 0).val (pageAt 0x10200) 0x100200 256) ∧
    (MayStart f ⟨0, false⟩ 0 far [] ∧ maqCuts far.lay.maq = [(0x30000, 256), (0x30100, 256)] ∧ far.ans 0 (partMaq 0) = none ∧
      far.sent 0 (partMaq 0) = false ∧
      let e := reach f (xferAsker f ⟨0, false⟩ far) .record (BitVec.ofNat 64 0x30000) 256 0 false
      e = (.fault 0x10 0x30000, e.2)) ∧
    (MayStart good ⟨0, false⟩ 0 o [] ∧ q = .ok (some goodMaq) (xrOf none q).2 ∧ goodMaq.length = 512 ∧ (xrOf none q).2.tiles = good.tiles ∧
      (xrOf none q).2.hbm = good.hbm ∧ crc32c (goodMaq.take 508) = ruleRec goodMaq 0x1FC 4 ∧ o.maqId = none ∧ maqFieldBad goodMaq = none ∧
      maqAgreeBad goodMaq o.lay o.inst = none) ∧
    (MayStart s ⟨0, false⟩ 0 o [] ∧ z = .ok (some (zeros 512)) (xrOf none z).2 ∧ (xrOf none z).2.tiles = s.tiles ∧ ruleRec (zeros 512) 0x1FC 4 = 0) := by
  refine ⟨⟨by decide +kernel, by decide +kernel, reachedPage_spec (by decide +kernel), by decide +kernel, reachesN_spec (by decide +kernel)⟩,
    ⟨mayStart_spec (by decide +kernel), by decide +kernel, by decide +kernel, by decide +kernel, reachedFault_spec (by decide +kernel)⟩,
    ⟨mayStart_spec (by decide +kernel), xrIs (by decide +kernel) (by decide +kernel), by decide +kernel, by decide +kernel, by decide +kernel,
      crc_goodMaq.trans (by decide +kernel), rfl, by decide +kernel, by decide +kernel⟩,
    ⟨mayStart_spec (by decide +kernel), xrIs (by decide +kernel) (by decide +kernel), by decide +kernel, by decide +kernel⟩⟩

/-- A module number 0 whose ports are up, each with room for 512 flits of every channel on both sides, and whose job's pages lie in module 5. -/
def awayState (st : Stream) (x : Tile) : State :=
  let s := mapped st x
  { s with
    hbm := memWrite [] 0 (leBytes 8 0x10000 ++ leBytes 8 0x20000 ++ leBytes 8 0x50000000100000 ++ leBytes 8 13),
    fab := { s.fab with modset := true, portup := BitVec.allOnes 48,
                        lend := Vector.replicate 48 { Lend.reset with limits := Vector.replicate 8 512, peer := Vector.replicate 8 512 } } }

/-- A page there. -/
def awayPage : Page := { pageAt 0x10000 with pa := 0x50000000100000 }

/-- `AwayPiece` of the first piece of an operation alone on its channel, computed. -/
def awayReady (s : State) (pl : Place) (ch : Fin 8) (o : XferOp) (p : Piece) : Bool :=
  decide (((s.tile pl.t).chan pl.store ch).ops = [o]) && decide (o.ch = ch) && o.started && decide ((o.pieces (s.tile pl.t).store)[0]? = some p) &&
  !o.isDone 0 p && !o.begun 0 && decide (p.els ≠ []) && pieceMay s pl o (o.pieces (s.tile pl.t).store) 0 p && placed p && xrOk (piecePage s pl o p) &&
  decide ((xrOf (pageAt 0) (piecePage s pl o p)).1 = awayPage) &&
  (let x := (xrOf (pageAt 0) (piecePage s pl o p)).2
   decide (targetOf x awayPage.pa = .remote 0x50000000100000) && portsUp x (dieOf pl.t).val) && decide (s.fab.locks = [])

theorem awayReady_spec {s : State} {pl : Place} {ch : Fin 8} {o : XferOp} {p : Piece} (h : awayReady s pl ch o p = true) :
    AwayPiece s (xrOf (pageAt 0) (piecePage s pl o p)).2 pl ch o [] 0 p awayPage := by
  simp only [awayReady, Bool.and_eq_true, decide_eq_true_eq, Bool.not_eq_true'] at h
  obtain ⟨⟨⟨⟨⟨⟨⟨⟨⟨⟨⟨⟨h1, h2⟩, h3⟩, h4⟩, h5⟩, h6⟩, h7⟩, h8⟩, h9⟩, h10⟩, h11⟩, h12, h13⟩, h14⟩ := h
  exact ⟨⟨h1, h2, by simp⟩, h3, h4, ⟨h5, h6, h7⟩, h8, placed_spec h9, xrIs h10 h11, ⟨_, h12⟩, h13, by simp [h14]⟩

/-- Whether an instruction has a next state. -/
def answers (o : Out) : Bool := match o with | .next _ => true | _ => false

theorem answers_spec {o : Out} (h : answers o = true) : o = .next (nextOf o) := by
  cases o <;> first | rfl | cases h

/-- Whether the first operation of a list has accesses under way. -/
def headOut (ops : List XferOp) : Bool := match ops with | q :: _ => q.out != [] | [] => false

theorem headOut_spec {ops : List XferOp} (h : headOut ops = true) : ∃ q, ops.head? = some q ∧ q.out ≠ [] := by
  cases ops with
  | nil => cases h
  | cons q r => exact ⟨q, rfl, by simpa [headOut] using h⟩

/-- A READ and a WRITE of a sector of module 5, the answer to the READ, and a READ with a maquette of which that module has no copy. -/
theorem witness_RemotePieceTravels :
    let go := { copyOp with started := true }
    let put := storeOp (.dstl ⟨7, .g 1, .g 2, .g 3, 0⟩ {})
    let got := { go with arrived := [(0, 0, zeros 64)] }
    let mda := { go with inst := .dld ⟨0, .g 1, .g 2, 0x40, 1⟩ {}, layout := lay64 2 0 0xF, maq := addMaq 0 }
    let s := awayState .load (chanTile [go])
    let w := awayState .store (storeTile put)
    let g := awayState .load (chanTile [got])
    let m := awayState .load (chanTile [mda])
    let x := (xrOf (pageAt 0) (piecePage s ⟨0, false⟩ go (pieceOf go))).2
    let y := (xrOf (pageAt 0) (piecePage w ⟨0, true⟩ put (pieceOf put))).2
    let t := nextOf (exec (.pieceComplete 0 false 0 0) m)
    (AwayPiece s x ⟨0, false⟩ 0 go [] 0 (pieceOf go) awayPage ∧ inbound go.inst = true ∧ (pieceOf go).mw = (pieceOf go).sw ∧ isDfill go.inst = false ∧
      canSend x (xferAsker x ⟨0, false⟩ go) (rulePiecePacket x ⟨0, false⟩ 0 awayPage 0 1 (pieceOf go).memBytes []) = true) ∧
    (AwayPiece w y ⟨0, true⟩ 7 put [] 0 (pieceOf put) awayPage ∧ inbound put.inst = false ∧ pieceStall (w.tile 0) put (pieceOf put) = none ∧
      pieceBad (w.tile 0) put (pieceOf put) = none ∧ (∃ b, memRuns (pieceOf put).mw (pieceOf put).els (pieceOf put).scs = [b]) ∧ (pieceOf put).memBytes = 64 ∧
      (∀ b, b < 8 * 64 → memImage (pieceOf put) (fun e i => bitAt (w.tile 0).store.spad (8 * put.off + e.sp + i))
        (fun e i => bitAt (w.tile 0).store.spad (8 * put.off + e.sp + i)) b = some (((zeros 64).getD (b / 8) 0).getLsbD (b % 8))) ∧
      canSend y (xferAsker y ⟨0, true⟩ put) (rulePiecePacket y ⟨0, true⟩ 7 awayPage 1 2 64 (zeros 64)) = true) ∧
    (HeadIs g ⟨0, false⟩ 0 got [] ∧ (got.pieces (g.tile 0).store)[0]? = some (pieceOf got) ∧ got.isDone 0 (pieceOf got) = false ∧ got.bad = [] ∧
      Placed (pieceOf got) ∧ got.ans 0 (partData 0) = some (zeros 64) ∧ got.ans 0 partVals = none ∧ (pieceOf got).memBytes = 64 ∧
      pieceStall (g.tile 0) got (pieceOf got) = none) ∧
    (AwayPiece m (xrOf (pageAt 0) (piecePage m ⟨0, false⟩ mda (pieceOf mda))).2 ⟨0, false⟩ 0 mda [] 0 (pieceOf mda) awayPage ∧ mda.maq.length = 512 ∧
      BitVec.ofNat 12 (awayPage.pa / 2 ^ 52) ∉ mda.maqTo ∧ (mda.parts (pieceOf mda)).length = 1 ∧
      exec (.pieceComplete 0 false 0 0) m = .next t ∧ ∃ q, ((t.tile 0).chan false 0).ops.head? = some q ∧ q.out ≠ mda.out) := by
  refine ⟨⟨awayReady_spec (by decide +kernel), by decide +kernel, by decide +kernel, by decide +kernel, by decide +kernel⟩,
    ⟨awayReady_spec (by decide +kernel), by decide +kernel, by decide +kernel, by decide +kernel, List.length_eq_one_iff.mp (by decide +kernel), by decide +kernel, by decide +kernel,
      by decide +kernel⟩,
    ⟨⟨by decide +kernel, rfl, by simp⟩, by decide +kernel, by decide +kernel, rfl, placed_spec (by decide +kernel), by decide +kernel, by decide +kernel,
      by decide +kernel, by decide +kernel⟩,
    ⟨awayReady_spec (by decide +kernel), by decide +kernel, by decide +kernel, by decide +kernel, answers_spec (by decide +kernel),
      headOut_spec (by decide +kernel)⟩⟩

/-! ### Packets -/

/-- A packet of a KIND for queue 3, sealed, with no reserved field set but what is given. -/
def packetOf (kind : Nat) : List Byte := withSeal (leBytes 2 1 ++ [BitVec.ofNat 8 kind, 4] ++ zeros 60) 64

/-- Queue 3's ring with a write and a read index and a packet in the slot of the read index; its registers wait for both events. -/
def ringState (state : BitVec 2) (wr rd : Nat) (bs : List Byte) : State :=
  let s := mapped .load liveTile
  let u := { s.uq 3 with state := state, notified := true, upto := some (BitVec.ofNat 64 wr) }
  { s with hbm := memWrite (memWrite s.hbm 0x100000 (leBytes 8 wr ++ leBytes 8 rd)) (0x100040 + 64 * (rd % 16)) bs, disp := { s.disp with queues := [(3, u)] } }

/-- The reads and the write of PACKET_TAKE of a ring: the read index, the packet, the read index written. -/
def takeReads (s : State) : FarRes × FarRes × FarRes :=
  let a := dispAsker (s.uq 3).die (s.uq 3).job
  let r := farKeepRead s a farTake 3 0 .dispAny 0x10008 8
  let b := farKeepRead (farState r) a farTake 3 1 .dispAny (0x10040 + 64 * (leNat (farBytes r) % 16)) 64
  (r, b, farKeepWrite (farState b) a farTake 3 4 .dispAny 0x10008 (leBytes 8 ((leNat (farBytes r) + 1) % 2 ^ 64)))

/-- A taken ring: its three accesses are answered, the packet's bytes as they stand in the slot. -/
def takesAll (s : State) (rd : Nat) (bs : List Byte) : Bool :=
  let r := takeReads s
  farOk r.1 && farOk r.2.1 && farOk r.2.2 && leNat (farBytes r.1) == rd && farBytes r.2.1 == bs

/-- The packets checked: seal and fields. -/
def checkedPkt (s : State) (bs : List Byte) : Bool × Bool :=
  (fieldAt bs 0x3C 4 == crc32c (bs.take 0x3C), commonFieldsOk bs && kindFieldsOk (farState (takeReads s).2.1) (s.uq 3).job (s.uq 3).devenq bs)

/-- A descriptor that R244 accepts: a load stream at 0x1000, ceilings 16, watchdog 16; and two that fail its seal and its fields. -/
def goodDesc : List Byte := withSeal (leBytes 2 1 ++ zeros 6 ++ leBytes 8 0x1000 ++ zeros 16 ++ List.replicate 6 16 ++ zeros 2 ++ [16] ++ zeros 215) 256
/-- The descriptor with a version of 0. -/
def poorDesc : List Byte := withSeal (zeros 8 ++ goodDesc.drop 8) 256

/-- The state with a held TASKS packet whose DESC 0x10100 names some bytes. -/
def launchState (d : List Byte) : State :=
  let s := mapped .load liveTile
  withPkts { s with hbm := memWrite s.hbm 0x100100 d } [somePkt 4 (withSeal (taskBytes.take 8 ++ leBytes 8 0x10100 ++ zeros 48) 64)]

/-- The descriptor read. -/
def descRead (s : State) : FarRes :=
  farKeepRead (updPkt s 4 fun p => { p with stage := 1 }) (pktAsker s (somePkt 4 [])) farPkt 4 1 .dispRead 0x10100 256

/-- What the reads of feed records leave. -/
def recsOk (r : FeedRes) : Bool := match r with | .ok _ _ => true | _ => false

theorem recsOk_spec {r : FeedRes} (h : recsOk r = true) : ∃ bs s, r = .ok bs s := by
  cases r <;> first | exact ⟨_, _, rfl⟩ | cases h

/-- A FEED packet of one record at 0x10200 for feed 9, and that record. -/
def feedPkt : Pkt := somePkt 4 (withSeal (leBytes 2 1 ++ [1, 0] ++ leBytes 2 1 ++ zeros 2 ++ leBytes 8 0x10200 ++ zeros 4 ++ leBytes 4 9 ++ zeros 40) 64)

/-- The indices 16 and 17 above the read index; a stopped queue; nothing to take; packets with a bad seal, a bad field, and good; a held
packet and packets of each kind that start; descriptors with a bad seal, a bad field, and good. -/
theorem witness_PacketsTakenAndStarted :
    let bad := (packetOf 3).set 5 1
    let odd := withSeal (bad.take 60 ++ zeros 4) 64
    let a := fun st wr rd bs => ringState st wr rd bs
    let n := fun (s : State) => farOk (farKeepRead s (queueAsker (s.uq 3)) farNotify 3 0 .dispAny 0x10000 16)
    let later := { somePkt 5 (packetOf 3) with id := 5 }
    let held := withPkts (mapped .load liveTile) [somePkt 4 (packetOf 3), later]
    let ph := withPkts (mapped .load liveTile) [somePkt 4 (packetOf 3)]
    let fd := withPkts { mapped .load liveTile with hbm := memWrite (mapped .load liveTile).hbm 0x100200 (withSeal (zeros 64) 64) } [feedPkt]
    ((a 1 17 0 bad).uq 3).notified = true ∧ ((a 1 17 0 bad).uq 3).state = 1 ∧ n (a 1 17 0 bad) = true ∧ ruleOverrun ((a 1 17 0 bad).uq 3) 17 0 ∧
    n (a 1 16 0 bad) = true ∧ ¬ruleOverrun ((a 1 16 0 bad).uq 3) 16 0 ∧ ((a 0 1 0 bad).uq 3).state ≠ 1 ∧
    takesAll (a 1 1 1 bad) 1 bad = true ∧ takesAll (a 1 17 0 bad) 0 bad = true ∧ ((a 1 17 0 bad).uq 3).upto = some 17 ∧
    (takesAll (a 1 16 15 bad) 15 bad = true ∧ (checkedPkt (a 1 16 15 bad) bad).1 = false) ∧
    (takesAll (a 1 16 15 odd) 15 odd = true ∧ checkedPkt (a 1 16 15 odd) odd = (true, false)) ∧
    (takesAll (a 1 16 15 (packetOf 3)) 15 (packetOf 3) = true ∧ checkedPkt (a 1 16 15 (packetOf 3)) (packetOf 3) = (true, true)) ∧
    (held.pkt 5 = some later ∧ later.kind = 3 ∧ startHeld held later = true) ∧
    (ph.pkt 4 = some (somePkt 4 (packetOf 3)) ∧ startHeld ph (somePkt 4 (packetOf 3)) = false ∧ acqHeld ph (somePkt 4 (packetOf 3)) = false ∧
      (somePkt 4 (packetOf 3)).waitctr = 0) ∧
    (fd.pkt 4 = some feedPkt ∧ feedPkt.kind = 1 ∧ feedPkt.count = 1 ∧ startHeld fd feedPkt = false ∧ acqHeld fd feedPkt = false ∧
      recsOk (feedRecs (pktAsker fd feedPkt) 4 0x10200 0 1 (updPkt fd 4 fun p => { p with stage := 1, started := some fd.ns })) = true) ∧
    (∀ d ∈ [goodDesc, poorDesc, goodDesc.set 0 2], farOk (descRead (launchState d)) = true ∧ farBytes (descRead (launchState d)) = d) ∧
    descOk (farState (descRead (launchState goodDesc))) (somePkt 4 taskBytes) goodDesc = true ∧
    descOk (farState (descRead (launchState poorDesc))) (somePkt 4 taskBytes) poorDesc = false ∧
    fieldAt poorDesc 0xFC 4 = crc32c (poorDesc.take 0xFC) ∧ fieldAt (goodDesc.set 0 2) 0xFC 4 ≠ crc32c ((goodDesc.set 0 2).take 0xFC) := by
  unfold ruleOverrun
  decide +kernel

/-- A packet whose read index was being written when its queue stopped: the write unanswered, failed, done. -/
theorem witness_PacketLands :
    let s := ringState 0 17 0 (packetOf 3)
    let l : Landing := ⟨3, 3, s.uq 3, packetOf 3, none, [], []⟩
    let at_ := fun far => { (s.setUq 3 { s.uq 3 with gen := 1 }) with disp := { (s.setUq 3 { s.uq 3 with gen := 1 }).disp with landing := [l], far := far } }
    (at_ []).disp.landing.find? (fun l => l.q == 3 && l.run != ((at_ []).uq 3).farId 3) = some l ∧ farGet (at_ []) ⟨farTake, 3, 4, 0⟩ = none ∧
    farGet (at_ [(⟨farTake, 3, 4, 0⟩, .fault 0x28 0)]) ⟨farTake, 3, 4, 0⟩ = some (.fault 0x28 0) ∧
    farGet (at_ [(⟨farTake, 3, 4, 0⟩, .data [])]) ⟨farTake, 3, 4, 0⟩ = some (.data []) ∧ fieldAt l.bytes 2 1 = 3 ∧
    (∀ l ∈ s.disp.landing, l.q = 3 → l.run = (s.uq 3).farId 3) := by decide +kernel

/-- A finished TASKS packet with a record at 0x10080 and a counter at 0x10008; a FEED packet with room for its record; the oldest PHASE packet. -/
theorem witness_PacketsComplete :
    let b := withSeal (taskBytes.take 40 ++ leBytes 8 0x10008 ++ leBytes 8 0x10080 ++ zeros 8) 64
    let p := { somePkt 4 b with started := some 0, tasks := [(0, .done 0 (zeros 64)), (1, .done 0 (zeros 64))] }
    let s := withPkts (mapped .load liveTile) [p]
    let w := doWrites (pktAsker s p) 4 (completionWrites s p) s
    let f := { feedPkt with stage := 2, recs := zeros 64 }
    let t := { withPkts (user .load) [f] with disp := { (withPkts (user .load) [f]).disp with feeds := [(9, { Feed.reset with cap := 4, recs := List.replicate 15 (1, zeros 64) })] } }
    let h := { somePkt 4 (packetOf 3) with started := some 0 }
    (s.pkt 4 = some p ∧ ridgeOf s p = none ∧ p.kind = 0 ∧ (∀ i, i < p.count → (p.ent i).isDone = true) ∧ farOk w = true ∧
      farOk (incDone (farState w) (pktAsker s p) p) = true) ∧
    (t.pkt 4 = some f ∧ f.kind = 1 ∧ f.count = 1 ∧ (t.feed f.feedno).recs.length + f.count = 2 ^ (t.feed f.feedno).cap.toNat) ∧
    ((withPkts (user .load) [h]).pkt 4 = some h ∧ h.kind = 3 ∧ ∀ o ∈ (withPkts (user .load) [h]).disp.pkts, o.job = h.job → 4 ≤ o.id) := by
  decide +kernel

/-! ### Device registers, time, fabric -/

/-- A stopped queue, enabled with bad and with good fields; jxinv BUSY with nothing unanswered. -/
theorem witness_DeviceRegistersWritten :
    let s := user .load
    let b := { s with disp := { s.disp with jobs := [(5, { JobSt.reset with invBusy := true })] } }
    let cfg := fun (v : BitVec 64) => (v ||| 0x10000) &&& 0x000FFFFFFFFF001F
    (s.uq 7).state = 0 ∧ 11 < (cfg 0xC00010000C).toNat / 2 ^ 36 % 16 ∧
    ¬(11 < (cfg 0x10000C).toNat / 2 ^ 36 % 16 ∨ (cfg 0x10000C).toNat / 2 ^ 20 % 256 = 0 ∨ (cfg 0x10000C).toNat % 32 < 4 ∨ 16 < (cfg 0x10000C).toNat % 32) ∧
    6 ≤ s.hk.bring ∧ (b.job 5).invBusy = true ∧ b.fab.reqs = [] ∧ b.host.win = [] := by decide +kernel

/-- The module with a time unit. -/
def timeState (u : TimeUnit) : State := { user .load with time := u }

/-- An armed record of gang 0x77 and packet 4 with its bytes. -/
def someRidge (bs : List Byte) : Ridge :=
  { gang := 0x77, pkt := 4, job := 0, tlr := 0, bytes := bs, armedAt := 0, late := false, sentFb := false, quiesced := false, dec := none, acted := none,
    rflags := 0, verdictSent := false, readySent := false, inflight := 0, unc := 0, drained := 0, tiles := 0, atT := false, fin := false }

/-- An enabled time unit in each state: FREERUN with 6 and 7 good measurements, a record armed beside it; LOCKED before and at 4 s; HOLDOVER; 1PPS. -/
theorem witness_TimeUnitFollows :
    let on := fun (st : BitVec 2) (n : Nat) => timeState { TimeUnit.reset with tmctl := 9, state := st, good := n }
    let armed := { on 0 7 with gang := { (on 0 7).gang with ridges := [someRidge []] } }
    let t := fun k => timeState { TimeUnit.reset with tmctl := 0xD, state := 1, clk := 4 * ruleSecond - k, secs := some 3 }
    let p := fun up d => timeState { TimeUnit.reset with tmctl := 0xD, pps := up, ppsNext := if up then 1 else 0, now := d * 6486480 }
    (on 0 6).time.tmctl.getLsbD 0 = true ∧ (on 0 6).time.tmctl.getLsbD 2 = false ∧ (-50 ≤ (50 : Int) ∧ (50 : Int) ≤ 50) ∧ ¬(-50 ≤ (-51 : Int) ∧ (-51 : Int) ≤ 50) ∧ (on 0 6).time.good + 1 < 8 ∧
    8 ≤ (on 0 7).time.good + 1 ∧ (on 0 7).gang.ridges = [] ∧ armed.gang.ridges ≠ [] ∧ (on 2 7).time.state ≠ 0 ∧ (on 1 0).time.state = 1 ∧
    (t 0).time.state = 1 ∧ (t 0).time.lastSync + 4 * ruleSecond ≤ (t 0).time.clk ∧ (t 1).time.clk < (t 1).time.lastSync + 4 * ruleSecond ∧
    (t 0).time.tmctl.getLsbD 0 = true ∧ (t 0).time.tmctl.getLsbD 2 = true ∧ (t 0).time.secs = some 3 ∧
    (-50 ≤ (3 * 1000000000 + (-2999999950) : Int) ∧ (3 * 1000000000 + (-2999999950) : Int) ≤ 50) ∧ ¬((3 * 1000000000 + (-2999999949) : Int) ≤ 50) ∧ (p false 0).time.tmctl.getLsbD 3 = true ∧ (p false 99999999).ns % 1000000000 < 100000000 ∧
    (p false 99999999).time.ppsNext ≤ (p false 99999999).ns / 1000000000 ∧ (p true 100000000).time.ppsNext = (p true 100000000).ns / 1000000000 + 1 ∧
    100000000 ≤ (p true 100000000).ns % 1000000000 ∧ (p true 99999999).ns % 1000000000 < 100000000 := by decide +kernel

/-- The module, numbered 1, with replay states and waiting requests. -/
def replayState (rs : List Replay) (q : List HomeReq) : State :=
  let s := homeState q
  { s with fab := { s.fab with replay := rs } }

/-- A replay state of module 5's source 3 at die 0. -/
def someReplay : Replay := { die := 0, smod := 5, sch := 3, high := some 300, done := [(40, blankPacket)], last := 0 }

/-- A new request of each TYPE; a maquette without its copy; no room for a state; a recorded one; stale by 256; one being performed; one for another
module, one with a wrong CHECK, one that no port has room for. -/
theorem witness_RequestsArrive :
    let r := fun ty => sealPacket (request ty 0 8 [1, 2, 3, 4, 5, 6, 7, 8])
    let e := replayState [] []
    let one := replayState [someReplay] []
    let full := replayState (List.replicate 8192 { someReplay with smod := 6 }) []
    let late := { request 1 0 8 [1, 2, 3, 4, 5, 6, 7, 8] with seq := 301 }
    let busy := replayState [someReplay] [⟨late, 0, 0, 0, none⟩]
    let copy := { e with fab := { e.fab with maqs := [⟨5, 9, 0, some (zeros 256), some (zeros 256)⟩] } }
    let down := { e with fab := { e.fab with portup := 0 } }
    (∀ n ∈ [0, 1, 2, 3, 4], (r n).ty.toNat = n ∧ TakenIn e (r n) ∧ replayOf e (r n) = none ∧ (e.fab.replay.filter fun x => x.die == (r n).ddie).length < 8192) ∧
    ((r 0).stag = 0 ∧ (r 0).ty ≠ 3) ∧ (maqCopy copy { r 3 with stag := 9 }).isSome = true ∧ portsUp e (r 0).ddie.val = true ∧
    (maqCopy e { r 3 with stag := 9 } = none ∧ ({ r 3 with stag := 9 } : Packet).stag ≠ 0) ∧
    (replayOf full (r 0) = none ∧ 8192 ≤ (full.fab.replay.filter fun x => x.die == (r 0).ddie).length) ∧
    (replayOf one { r 1 with seq := 40 } = some someReplay ∧ someReplay.done.find? (fun d => d.1 == 40) = some (40, blankPacket)) ∧
    (replayOf one { r 1 with seq := 44 } = some someReplay ∧ someReplay.done.find? (fun d => d.1 == 44) = none ∧ someReplay.high = some 300 ∧
      256 ≤ ((300 : BitVec 32) - 44).toNat ∧ ((300 : BitVec 32) - 44).toNat < 2 ^ 31) ∧
    (replayOf busy late = some someReplay ∧ ∃ w ∈ busy.fab.homeq, w.pkt.ddie = 0 ∧ w.pkt.smod = 5 ∧ w.pkt.sch = 3 ∧ w.pkt.seq = 301) ∧
    ({ r 0 with dmod := 2 } : Packet).dmod ≠ e.fab.modnum ∧ packetOk { r 0 with seq := 8 } = false ∧ openPorts down (r 0) = [] := by
  unfold TakenIn
  refine ⟨by decide +kernel, by decide +kernel, by decide +kernel, by decide +kernel, by decide +kernel, by decide +kernel, by decide +kernel,
    by decide +kernel, ⟨by decide +kernel, _, List.mem_cons_self, by decide +kernel⟩, by decide +kernel, by decide +kernel, by decide +kernel⟩

/-- A read request of the load core of tile 0, sent to module 5. -/
def sentReq (tries at_ : Nat) : FabReq :=
  { die := 0, pkt := { blankPacket with dmod := 5, smod := 1, sch := 3, seq := 7, len := 8 }, owner := .scalar 0 .load 2, va := 0x10000, tries := tries,
    at_ := at_ }

/-- The load core of tile 0 with an outstanding access. -/
def waitingState (kind : RemoteKind) (tries clk : Nat) : State :=
  let s := homeState []
  let x := liveTile
  let rm : Remote := { tag := 2, ctx := .user, kind := kind, sent := true, here := false, resp := none, va := 0x10000, at_ := 0 }
  { s.setTile 0 { x with ld := { x.ld with remote := some rm } } with
    fab := { s.fab with reqs := [sentReq tries 0] }, time := { s.time with clk := clk } }

/-- Its access. -/
def theRemote (kind : RemoteKind) : Remote := { tag := 2, ctx := .user, kind := kind, sent := true, here := false, resp := none, va := 0x10000, at_ := 0 }

/-- A response to a read; one that names no request; a NACK; an attempt left after 16 µs, none after 64 µs; a poll. -/
theorem witness_RequestsAnsweredOrRetried :
    let s := waitingState .scalar 1 0
    let ans := sealPacket { blankPacket with ty := 8, dmod := 1, smod := 5, sch := 3, seq := 7, payload := zeros 8 }
    let poll := { blankPacket with dmod := 5, sch := 3 }
    let w := { waitingState (.waitf poll) 1 (1000 * 6486480) with fab := { (waitingState (.waitf poll) 1 0).fab with reqs := [] } }
    (ans.ty.toNat = 8 ∧ TakenIn s ans ∧ s.fab.reqs.find? (fun q => q.answeredBy ans && rspType q == 8) = some (sentReq 1 0) ∧
      ((s.tile 0).core .load).remote = some (theRemote .scalar)) ∧
    s.fab.reqs.find? (fun q => q.answeredBy { ans with seq := 8 } && rspType q == 8) = none ∧ TakenIn s (sealPacket { ans with ty := 11 }) ∧
    (findReq (waitingState .scalar 1 (16000 * 6486480)) ⟨3, 5⟩ 7 = some (sentReq 1 0) ∧ 1 < max 1 (s.fab.fabcfg.toNat % 16) ∧
      max 4 (s.fab.fabcfg.toNat / 256 % 256) * 1000 * 6486480 ≤ (waitingState .scalar 1 (16000 * 6486480)).time.clk ∧ portsUp s 0 = true) ∧
    (findReq (waitingState .scalar 8 (64000 * 6486480)) ⟨3, 5⟩ 7 = some (sentReq 8 0) ∧ max 1 (s.fab.fabcfg.toNat % 16) ≤ 8 ∧
      64000 * 6486480 ≤ (waitingState .scalar 8 (64000 * 6486480)).time.clk) ∧
    (((w.tile 0).core .load).remote = some (theRemote (.waitf poll)) ∧ portsUp { w with fab := { w.fab with portup := 0xFFFFFFFFFFF0 } } 0 = false ∧ (theRemote (.waitf poll)).at_ + 1000 * 6486480 ≤ w.time.clk ∧ portsUp w 0 = true ∧
      canSend w { die := dieOf 0, sch := schScalar 0 .load, job := tileJob (w.tile 0), ofTile := true } poll = true) := by
  unfold TakenIn
  decide +kernel

/-- The answers to a piece's READ and to a piece's WRITE, each its piece's only part. -/
theorem witness_PieceAnswered :
    let go := { copyOp with started := true, out := [(0, 0)] }
    let put := { storeOp (.dstl ⟨7, .g 1, .g 2, .g 3, 0⟩ {}) with out := [(0, 0)] }
    let req := fun (o : Owner) (ty : BitVec 8) => { sentReq 1 0 with owner := o, pkt := { (sentReq 1 0).pkt with ty := ty } }
    let own := fun (st : Bool) (ch : Nat) => Owner.piece 0 st ch 0 0 0
    let at_ := fun (x : Tile) (r : FabReq) => let s := (homeState []).setTile 0 x; { s with fab := { s.fab with reqs := [r] } }
    let rd := at_ (chanTile [go]) (req (own false 0) 0)
    let wr := at_ (storeTile put) (req (own true 7) 1)
    let ans := fun (ty : BitVec 8) (bs : List Byte) => sealPacket { blankPacket with ty := ty, dmod := 1, smod := 5, sch := 3, seq := 7, payload := bs }
    (TakenIn rd (ans 8 (zeros 64)) ∧ rd.fab.reqs.find? (fun q => q.answeredBy (ans 8 (zeros 64)) && rspType q == 8) = some (req (own false 0) 0) ∧
      HeadIs rd ⟨0, false⟩ 0 go [] ∧ dpfLeft go = false ∧ (ans 8 (zeros 64)).status = 0 ∧ rd.gang.ridges = [] ∧ inbound go.inst = true) ∧
    (TakenIn wr (ans 9 []) ∧ wr.fab.reqs.find? (fun q => q.answeredBy (ans 9 []) && rspType q == 9) = some (req (own true 7) 1) ∧
      HeadIs wr ⟨0, true⟩ 7 put [] ∧ inbound put.inst = false ∧ (put.pieces (wr.tile 0).store)[0]? = some (pieceOf put) ∧
      (put.parts (pieceOf put)).length = 1 ∧ put.writesCodes = false ∧ put.arrived = [] ∧ (put.out.filter fun a => a.1 == 0) = [(0, 0)]) := by
  unfold TakenIn
  exact ⟨⟨by decide +kernel, by decide +kernel, ⟨by decide +kernel, rfl, by simp⟩, by decide +kernel, by decide +kernel, by decide +kernel, by decide +kernel⟩,
    by decide +kernel, by decide +kernel, ⟨by decide +kernel, rfl, by simp⟩, by decide +kernel, by decide +kernel, by decide +kernel, by decide +kernel,
    rfl, by decide +kernel⟩

/-- A port that is up at the end of an interval, its limits within what is committed; one clock before it; an epoch announced and one that is not; the
peer's limits above and below the flits in flight; a port that may train; one too early; requests waiting for 10 µs and less; no request of a source;
a packet of an unassigned TYPE and a damaged one. -/
theorem witness_PortsAndDiscards :
    let l := lendOf lendState 0
    let q := fun p => (⟨p, 0, 0, 0, none⟩ : HomeReq)
    let s := fun clk => { homeState [q (request 0 0 64 [])] with time := { TimeUnit.reset with clk := clk }, fab := { (homeState [q (request 0 0 64 [])]).fab with portup := 1 } }
    let t := s (4000000 * 6486480)
    (lendState.fab.portup.getLsbD 0 = true ∧ 1024 ≤ ((lendState.tile 0).cycle - l.since).toNat ∧ LendOk l ∧
      (((lendState.setTile 0 { Tile.reset with cycle := 1023 }).tile 0).cycle - l.since).toNat < 1024) ∧
    ((∃ h ∈ l.hist, h.1 = 0) ∧ (∀ h ∈ l.hist, h.1 ≠ 1) ∧ lendState.fab.stay = [] ∧ FlyingWithin l (Vector.replicate 8 0) ∧
      ¬FlyingWithin { l with flying := #v[1, 0, 0, 0, 0, 0, 0, 0] } (Vector.replicate 8 0)) ∧
    (6 ≤ t.hk.bring ∧ t.fab.modset = true ∧ 4000000 * 6486480 ≤ t.time.clk - t.hk.resetAt ∧ t.fab.portup.getLsbD 47 = false) ∧
    (s (4000000 * 6486480 - 1)).time.clk - (s 0).hk.resetAt < 4000000 * 6486480 ∧
    (t.fab.homeq[0]? = some (q (request 0 0 64 [])) ∧ 10000 * 6486480 ≤ (s (10000 * 6486480)).time.clk ∧ (s (10000 * 6486480 - 1)).time.clk < 10000 * 6486480) ∧
    (∀ e ∈ t.fab.homeq, ¬(e.pkt.ddie = 1 ∧ e.pkt.smod = 5 ∧ e.pkt.sch = 3)) ∧ openPorts t (sealPacket (request 5 0 0 [])) ≠ [] ∧
    packetOk (sealPacket (request 5 0 0 [])) = true ∧ (request 5 0 0 []).ty.toNat ∉ [0, 1, 2, 3, 4, 8, 9, 10, 11, 13] ∧
    packetOk { sealPacket (request 0 0 0 []) with len := 1 } = false := by
  unfold LendOk FlyingWithin
  refine ⟨⟨by decide +kernel, by decide +kernel, ⟨⟨[], by decide +kernel⟩, by decide +kernel, by decide +kernel, by decide +kernel⟩, by decide +kernel⟩,
    by decide +kernel, by decide +kernel, by decide +kernel, by decide +kernel, by decide +kernel, by decide +kernel, by decide +kernel, by decide +kernel,
    by decide +kernel⟩

/-! ### Gang time -/

/-- A timed-launch record: ACTION, POLICY, PART; LEAD 1, GANG 0x77, T 1 ms, DELTA 100 µs, GRACE 10 µs. -/
def tlr (action policy part : Nat) : List Byte :=
  leBytes 2 1 ++ [BitVec.ofNat 8 action, BitVec.ofNat 8 policy] ++ leBytes 2 part ++ leBytes 2 1 ++ leBytes 8 0x77 ++ leBytes 8 1000000 ++
    leBytes 4 100000 ++ leBytes 4 10000 ++ zeros 32

/-- The view of its lead. -/
def someLead (action policy part : Nat) (first last : Option GDec) : LeadSt :=
  { gang := 0x77, t := 1000000, bytes := tlr action policy part, reps := [], first := first, second := none, last := last, gos := [] }

/-- Module 1 at a time and an uncertainty, with armed records and leads; a started task of job 0 on tile 0. -/
def gangState (ns unc : Nat) (rs : List Ridge) (ls : List LeadSt) : State :=
  let s := (homeState []).setTile 0 { liveTile with task := some { placedTask with tstart := some 5 } }
  { s with gang := { Gang.reset with ridges := rs, leads := ls }, time := { TimeUnit.reset with now := ns * 6486480, unc := BitVec.ofNat 32 unc } }

/-- A GANG message of a subtype from module 5, or from the lead. -/
def message (sub : Nat) (smod : BitVec 12) (cmpv : Word64) : Packet :=
  sealPacket { blankPacket with ty := 13, dmod := 1, smod := smod, opnd := 0x77, addr := 1000000, opc := BitVec.ofNat 16 sub, cmpv := cmpv }

/-- A decision. -/
def dec (code : BitVec 3) : GDec := ⟨code, 0, 0xFFFF, 2, false⟩

/-- An armed record that the lead hears ARM for; each message with the view that takes it; each deadline reached, and 1 ns earlier. -/
theorem witness_LeadDecides :
    let l := fun first last => someLead 1 1 1 first last
    let s := fun ns (x : LeadSt) => gangState ns 10 [someRidge (tlr 1 1 1)] [x]
    let q := { l (some (dec 2)) (some (dec 2)) with reps := [⟨6, true, true, false, false, none, true⟩] }
    ((s 5 (l none none)).ridge 0x77 = some (someRidge (tlr 1 1 1)) ∧ Leads (s 5 (l none none)) (l none none) ∧
      (1000000 : Word64).toNat = fieldAt (tlr 1 1 1) 0x10 8 ∧ GangArrived (s 5 (l none none)) (message 1 5 0) 1) ∧
    (gangState 5 10 [] []).ridge 0x77 = none ∧ GangArrived (s 5 (l none none)) (message 4 5 0) 4 ∧
    (GangArrived (s 5 (l (some (dec 2)) none)) (message 3 5 0) 3 ∧ secondDue (l (some (dec 2)) none) = false) ∧
    GangArrived (s 5 (l none none)) (message 5 5 0) 5 ∧
    (q.last = some (dec 2) ∧ (dec 2).code = 2 ∧ fieldAt q.bytes 4 2 ≤ (q.reps.filter fun r => r.smod != 5 && r.ready).length + 1) ∧
    (GangArrived (s 5 q) (message 7 5 0) 7 ∧ (5 : BitVec 12) ∉ q.gos ∧ (l none none).last = none ∧ (l none none).gos = []) ∧
    (∀ ns ∈ [949999, 950000], (s ns (l none none)).gang.leads.find? (fun l => l.gang == 0x77 && l.first.isNone) = some (l none none)) ∧
    (fieldAt (tlr 1 1 1) 0x10 8 ≤ (s 950000 (l none none)).ns + fieldAt (tlr 1 1 1) 0x18 4 / 2 ∧
      (s 949999 (l none none)).ns + fieldAt (tlr 1 1 1) 0x18 4 / 2 < fieldAt (tlr 1 1 1) 0x10 8) ∧
    ((s 1010000 (l (some (dec 1)) none)).gang.leads.find? (fun l => l.gang == 0x77 && secondDue l) = some (l (some (dec 1)) none) ∧
      fieldAt (tlr 1 1 1) 0x10 8 + fieldAt (tlr 1 1 1) 0x1C 4 = (s 1010000 (l (some (dec 1)) none)).ns) ∧
    ((s 1010001 q).gang.leads.find? (fun l => l.gang == 0x77 && inFallback l) = some q ∧ q.second = none ∧
      fieldAt q.bytes 0x10 8 + 1 * fieldAt q.bytes 0x1C 4 < (s 1010001 q).ns ∧ (s 1010000 q).ns ≤ fieldAt q.bytes 0x10 8 + 1 * fieldAt q.bytes 0x1C 4) := by
  unfold Leads GangArrived
  decide +kernel

/-- QUIESCE at T - DELTA and 1 ns earlier; T without a decision, under TIME with a good and a bad clock, of a RESUME, and 1 ns earlier; a query that is
due and one that is not; 1 s after T, and 1 ns earlier. -/
theorem witness_ParticipantActsAtT :
    let r := fun a d => { someRidge (tlr a 0 1) with dec := d }
    let s := fun ns unc (x : Ridge) => gangState ns unc [x] []
    let cut := { r 1 none with atT := true }
    let asked := { s 1000005 10 cut with gang := { (s 1000005 10 cut).gang with nextQuery := [(0x77, 1000006)] } }
    Armed (s 900000 10 (r 1 none)) (r 1 none) ∧ fieldAt (tlr 1 0 1) 0x10 8 = (s 900000 10 (r 1 none)).ns + fieldAt (tlr 1 0 1) 0x18 4 ∧
    (s 899999 10 (r 1 none)).ns + fieldAt (tlr 1 0 1) 0x18 4 < fieldAt (tlr 1 0 1) 0x10 8 ∧ (r 1 none).atT = false ∧
    leadOf (s 1000000 10 (r 1 none)) 0x77 (BitVec.ofNat 64 (fieldAt (tlr 1 0 1) 0x10 8)) = none ∧
    fieldAt (tlr 1 0 1) 0x10 8 = (s 1000000 10 (r 1 none)).ns ∧ (s 999999 10 (r 1 none)).ns < fieldAt (tlr 1 0 1) 0x10 8 ∧
    ((r 1 (some (dec 1))).dec = some (dec 1) ∧ (dec 1).code = 1 ∧ ruleDrains (tlr 1 0 1) ∧ ruleDrains (tlr 3 0 1) ∧ fieldAt (tlr 2 0 1) 2 1 = 2) ∧
    (fieldAt (tlr 1 0 1) 0x18 4 / 2 < (s 1000000 50001 (r 1 none)).time.unc.toNat ∧ (s 1000000 50000 (r 1 none)).time.unc.toNat ≤ fieldAt (tlr 1 0 1) 0x18 4 / 2) ∧
    (Armed (s 1000005 10 cut) cut ∧ smGet 0 0x77 (s 1000005 10 cut).gang.nextQuery ≤ (s 1000005 10 cut).ns ∧
      asked.ns < smGet 0 0x77 asked.gang.nextQuery) ∧
    fieldAt (tlr 1 0 1) 0x10 8 + 1000000000 ≤ (s 1001000000 10 cut).ns ∧ (s 1000999999 10 cut).ns < fieldAt (tlr 1 0 1) 0x10 8 + 1000000000 := by
  unfold Armed ruleDrains
  decide +kernel

/-- TIME before T, FALLBACK, ABANDON, an older decision, late TIME, and GO in fallback. -/
theorem witness_ParticipantObeys :
    let r := someRidge (tlr 1 0 1)
    let s := fun ns (x : Ridge) => gangState ns 10 [x] []
    let late := { r with atT := true }
    let fb := { r with dec := some (dec 2) }
    (∀ c ∈ [1, 2, 3], DecisionFor (s 5 r) (message 2 1 (BitVec.ofNat 64 c)) r 2) ∧ (message 2 1 1).cmpv.toNat % 8 = 1 ∧ (s 5 r).ns ≤ fieldAt r.bytes 0x10 8 ∧
    (fieldAt r.bytes 3 1 / 2 % 2 = 0 ∧ ∀ k, holdsJob r.job.val ((s 5 r).tile k) = true → ((s 5 r).tile k).drain.ridge = false) ∧
    (DecisionFor (s 5 fb) (message 2 1 1) fb 2 ∧ 1 ≤ (dec 2).code.toNat) ∧
    (DecisionFor (s 1000005 late) (message 2 1 1) late 2 ∧ ruleDrains late.bytes) ∧
    (DecisionFor (s 1000005 fb) (message 6 1 4) fb 6 ∧ fb.acted = none ∧ fieldAt fb.bytes 2 1 = 1) := by
  unfold DecisionFor Armed GangArrived ruleDrains
  dsimp only
  refine ⟨?_, ?_, ?_, ?_, ?_, ?_, ?_⟩ <;> decide +kernel

/-- LAUNCH at T and late, a late RESUME; COMMIT of a drained PREEMPT and CANCEL; ABANDON with a tile that the record drained, one that it marked, and under
POLICY.FAULT with STRAGGLER. -/
theorem witness_ParticipantMore :
    let r := fun a p => someRidge (tlr a p 1)
    let s := fun ns (x : Ridge) => gangState ns 10 [x] []
    let late := fun a => { r a 0 with atT := true }
    let drained := fun a p => { r a p with acted := some 1000000, atT := true }
    let tile := fun (d : Drain) => (s 1000005 (drained 1 0)).setTile 0 { enteredTile with task := some { placedTask with tstart := some 5 }, drain := d }
    let d1 := { Drain.none with ridge := true, drained := true }
    (Armed (s 1000000 (r 0 0)) (r 0 0) ∧ fieldAt (tlr 0 0 1) 2 1 = 0 ∧ (s 1000000 (r 0 0)).time.unc.toNat ≤ fieldAt (tlr 0 0 1) 0x18 4 / 2) ∧
    (∀ a ∈ [0, 2], DecisionFor (s 1000005 (late a)) (message 2 1 1) (late a) 2 ∧ fieldAt (late a).bytes 2 1 = a ∧ (late a).dec = none) ∧
    (∀ a ∈ [1, 3], DecisionFor (s 1000005 (drained a 0)) (message 2 1 4) (drained a 0) 2 ∧ (drained a 0).acted.isSome = true ∧
      (drained a 0).dec = none) ∧
    (DrainedBy (tile d1) (drained 1 0) 0 ∧ DecisionFor (s 1000005 (drained 1 2)) (message 2 1 0x303) (drained 1 2) 2 ∧
      (message 2 1 0x303).cmpv.toNat / 2 ^ 8 % 256 = 3 ∧ fieldAt (drained 1 2).bytes 3 1 / 2 % 2 = 1) := by
  unfold DecisionFor Armed GangArrived DrainedBy
  dsimp only
  refine ⟨?_, ?_, ?_, ?_⟩ <;> decide +kernel

/-! ### Housekeeping, security, the host -/

/-- An image of 64 bytes of code, its header complete but for what the digest and the signature are; one with too little code. -/
def someImage : FwImage :=
  { header := leBytes 2 1 ++ leBytes 2 0xFFFF ++ leBytes 4 64 ++ zeros 32 ++ leBytes 8 0x1000 ++ zeros 208, code := zeros 64, codeBase := 0x1000, dataBase := 0,
    dataSize := 0 }

theorem shortImage_unverified : ¬Verified { someImage with code := [] } := fun h => absurd h.2.2.1 (by decide +kernel)

theorem witness_BringUpAndThrottle :
    let s := State.reset
    let b := { s with hk := { s.hk with bring := 5 }, sec := { s.sec with enc := true } }
    let t := { s with time := { s.time with clk := 1000000 * 6486480 } }
    (s.hk.bring = 1 ∧ someImage.header.length = 256 ∧ fieldAt someImage.header 0 2 = 1 ∧ ruleCode someImage = zeros 64 ∧ ruleEntry someImage = 0x1000 ∧
      Config.minSvn.toNat ≤ ruleSvn someImage) ∧ b.hk.bring = 5 ∧ s.sec.touched = false ∧ ({ s with sec := { s.sec with touched := true } }).sec.touched = true ∧
    (b.sec.enc = true ∧ 5 ≤ b.hk.bring) ∧ 1000000 * 6486480 ≤ t.time.clk - t.sec.stepAt ∧ t.sec.cap.toNat < (146 : BitVec 16).toNat ∧
    ¬(t.sec.cap.toNat < (145 : BitVec 16).toNat ∨ 105 ≤ (104 : BitVec 16).toNat) :=
  ⟨⟨rfl, by decide +kernel, by decide +kernel, by decide +kernel, by decide +kernel, Nat.le_trans (Nat.le_of_lt_succ Config.minSvn.isLt) (by decide +kernel)⟩, rfl, rfl, rfl,
   ⟨rfl, by decide⟩, by decide, by decide, by decide⟩

/-- Slots under ALARM and without it; a clear and a load that are done; an attestation requested and being answered. -/
theorem witness_KeysAlarmAndAttestation :
    let s := { user .load with sec := { (user .load).sec with enc := true, encOn := true } }
    let k := fun off => { s with sec := { s.sec with keys := [(63, { KeySlot.reset with next := some off, busy := true })] } }
    let a := { s with sec := { s.sec with attBusy := true, attOff := 64 } }
    (s.sec.tamper || s.sec.glitch || s.sec.tree) = false ∧ s.sec.enc = true ∧ (user .load).sec.enc = false ∧
    ({ s with sec := { s.sec with tree := true } }.sec.tamper || { s with sec := { s.sec with tree := true } }.sec.tree) = true ∧
    (slotAt (k 0) 63).next = some 0 ∧ ((slotAt (k 128) 63).next = some 128 ∧ farOk (match ownRead (k 128) 128 128 with | .ok b t => .ok b t | _ => .wait s) = true) ∧
    s.sec.attBusy = false ∧ (a.sec.attBusy = true ∧ farOk (match ownRead a 64 256 with | .ok b t => .ok b t | _ => .wait s) = true) ∧
    (match homeWriteN a (hdmPage 64 false) (zeros 256) (homeParts 64 256) with | .ok _ _ => true | _ => false) = true := by decide +kernel

/-- A module whose HDM decoder 0 maps 1 GiB at host address 2^40 to HBM address 2^32, a byte of it set, a sector bad. -/
def hostState : State :=
  let s := user .load
  { s with hbm := [(0x100000000, 7)], sectors := [(0x4000001, { Sector.fresh with err := 2 }), (0x4000002, { Sector.fresh with err := 1 })],
           host := { HostPort.reset with hdm := HostPort.reset.hdm.set 0 ⟨2 ^ 40, 2 ^ 30, 2 ^ 32, false⟩, snooping := [5], tracked := [5] } }

/-- `HostNames`, computed, where no combine pass is under way. -/
def hostNames (s : State) (hpa n idx : Nat) (p : Page) : Bool :=
  decide (6 ≤ s.hk.bring) && (!s.sec.enc || s.sec.encOn) && decide (0 < n) && decide (hpa / 64 = (hpa + n - 1) / 64) &&
  (match hdmTarget s hpa with | some (h, b) => idx == hbmIndex b h && decide (p = hdmPage h b) | none => false) && decide (s.fab.locks = [])

theorem hostNames_spec {s : State} {hpa n idx : Nat} {p : Page} (h : hostNames s hpa n idx p = true) : HostNames s hpa n idx p := by
  simp only [hostNames, Bool.and_eq_true, decide_eq_true_eq] at h
  obtain ⟨⟨⟨⟨⟨h1, h2⟩, h3⟩, h4⟩, h5⟩, h6⟩ := h
  refine ⟨h1, fun he => by simpa [he] using h2, h3, h4, ?_, by simp [h6]⟩
  split at h5
  · simp only [Bool.and_eq_true, beq_iff_eq, decide_eq_true_eq] at h5
    exact ⟨_, _, by assumption, h5.1, h5.2⟩
  · cases h5

theorem witness_HostAccesses :
    let w : WinReq := { tag := 3, owner := .scalar 0 .load 2, write := false, va := 0 }
    let t := { waitingState .scalar 1 0 with host := { HostPort.reset with win := [w] } }
    let cut := { hostState with fab := { hostState.fab with linkdown := BitVec.allOnes 66 } }
    HostReaches hostState (2 ^ 40) 64 0x100000000 (hdmPage 0x100000000 false) ∧ HostReaches hostState (2 ^ 40 + 64) 63 0x100000040 (hdmPage 0x100000040 false) ∧
    HostReaches hostState (2 ^ 40 + 128) 63 0x100000080 (hdmPage 0x100000080 false) ∧ HostReadable (smGet Sector.fresh 0x4000000 hostState.sectors) ∧
    ¬HostReadable (smGet Sector.fresh 0x4000001 hostState.sectors) ∧ HostReadable (smGet Sector.fresh 0x4000002 hostState.sectors) ∧
    (HostNames { cut with host := { cut.host with hdm := cut.host.hdm.set 1 ⟨2 ^ 41, 2 ^ 30, 2 ^ 38, false⟩ } } (2 ^ 41) 64 (2 ^ 38) (hdmPage (2 ^ 38) false) ∧
      rafterOk cut 0 (dieOfIdx (2 ^ 38)) = false) ∧ (6 ≤ hostState.hk.bring ∧ hdmTarget hostState (2 ^ 40 - 1) = none) ∧
    5 ∈ hostState.host.snooping ∧ 6 ∉ hostState.host.snooping ∧
    t.host.win.find? (fun w => w.tag == 3) = some w ∧ ((t.tile 0).core .load).remote = some (theRemote .scalar) ∧ (theRemote .scalar).tag = 2 :=
  ⟨⟨hostNames_spec (by decide +kernel), by decide +kernel⟩, ⟨hostNames_spec (by decide +kernel), by decide +kernel⟩,
   ⟨hostNames_spec (by decide +kernel), by decide +kernel⟩, by unfold HostReadable; decide +kernel, by unfold HostReadable; decide +kernel,
   by unfold HostReadable; decide +kernel, ⟨hostNames_spec (by decide +kernel), by decide +kernel⟩, by decide +kernel, by decide +kernel, by decide +kernel,
   by decide +kernel, by decide +kernel, rfl⟩

/-! ### Steps -/

/-- A live load core at 0x10000, a page of job 0 that may be executed, with a word in it. -/
def memWordState (w : Word128) : State :=
  let x := { liveTile with ld := { liveCore with u := { liveCore.u with regs := { Regs.zero with pc := 0x10000 } } } }
  let s := mapped .load x
  let hbm := memWrite [] 0 (leBytes 8 0x10000 ++ leBytes 8 0x20000 ++ leBytes 8 0x100000 ++ leBytes 8 17)
  { s with hbm := memWrite hbm 0x100000 (leBytes 16 w.toNat), agenda := [.core 0 .load .user] }

/-- The word a fetch gives. -/
def fetchedWord (r : FetchRes) : Option Word128 := match r with | .word w _ => some w | _ => none

theorem fetchedWord_spec {r : FetchRes} {w : Word128} (h : fetchedWord r = some w) : ∃ s, r = .word w s := by
  cases r <;> simp_all [fetchedWord]

/-- A turn of the load core of a tile for a context. -/
def turnState (c : CtxKind) (x : Tile) : State := { on .load c x with agenda := [.core 0 .load c] }

/-- A service context's turn with a word of its cache; a user context's with the word it has fetched; a word read from memory, one that decodes to
nothing; a service context that takes its user context's slot; a core that may not issue; an event; a tick. -/
theorem witness_StepRunsDecodedInstruction :
    let now := fun (s : State) => { s with agenda := [], cur := ⟨0, .load, .user, 0⟩ }
    let bad : Word128 := 0x7F000000000000000000000000000000
    let v := turnState .service { enteredTile with ld := { enteredTile.ld with ic := [⟨.service, 0, 0⟩] } }
    let u := turnState .user { liveTile with ld := { liveCore with word := some ⟨.user, 0x1000, 0⟩ } }
    let sh := turnState .user { liveTile with ld := { liveCore with ic := [⟨.service, 0, 0⟩], v := { liveCore.v with credit := 256 } } }
    (v.agenda = [.core 0 .load .service] ∧ mayIssue { v with agenda := [] } 0 .load .service = true ∧
      ((v.tile 0).core .load).cached .service (((v.tile 0).core .load).regs .service).pc = some 0) ∧
    (u.agenda = [.core 0 .load .user] ∧ mayIssue { u with agenda := [] } 0 .load .user = true ∧ mayTrapToo (u.tile 0) ((u.tile 0).core .load) = false ∧
      serviceTakes { u with agenda := [] } 0 .load = false ∧ ∃ e, ((u.tile 0).core .load).word = some e ∧
        e.addr = (((u.tile 0).core .load).regs .user).pc ∧ e.word = 0) ∧
    (mayTrapToo (sh.tile 0) ((sh.tile 0).core .load) = false ∧ serviceTakes { sh with agenda := [] } 0 .load = true) ∧
    decode 0 = .ok (.nop {}) ∧ (∃ t, exec (.nop {}) (now u) = .next t) ∧
    mayTrapToo ((memWordState 0).tile 0) (((memWordState 0).tile 0).core .load) = false ∧ serviceTakes { memWordState 0 with agenda := [] } 0 .load = false ∧
    mayIssue { memWordState 0 with agenda := [] } 0 .load .user = true ∧ (∃ t, fetch (now (memWordState 0)) 0 .load .user = .word 0 t) ∧
    (∃ t, fetch (now (memWordState bad)) 0 .load .user = .word bad t) ∧ decode bad = .unassigned ∧
    mayIssue { State.reset with agenda := [] } 0 .load .user = false ∧ opOf (.coldReset) = none :=
  ⟨by decide +kernel, ⟨by decide +kernel, by decide +kernel, by decide +kernel, by decide +kernel, _, rfl, by decide +kernel, rfl⟩, by decide +kernel,
   by decide +kernel, ⟨_, rfl⟩, by decide +kernel, by decide +kernel, by decide +kernel, fetchedWord_spec (by decide +kernel),
   fetchedWord_spec (by decide +kernel), by decide +kernel, by decide +kernel, by decide⟩

/-- Reset is canonical and has a next step. -/
theorem witness_StepKeepsCanonicalMemory :
    let s := State.reset.withFetchWord 128 0
    Canonical s ∧ ∃ t, step s = .next t :=
  ⟨⟨by decide +kernel, by decide +kernel, by decide +kernel⟩, ⟨_, rfl⟩⟩

/-- A well-formed instruction with every optional part, and its word. -/
theorem witness_EncodeDecodeAgree :
    let i : Instr := .dst ⟨7, .g 31, .g 30, 0xFFFFFFC0, 0xFFFF⟩ (some ⟨.sys, 31⟩) ⟨some ⟨.first, 1⟩, some ⟨.second, 13, false, .reg 31⟩⟩
    (opOf i).isSome = true ∧ i.wf = true ∧ (encode i).isSome = true ∧ decode ((encode i).getD 0) = .ok i := by decide +kernel

/-- The trip point, and one degree below. -/
theorem witness_ResetKeepsAndClears :
    let s := fun t => { State.reset with sec := { Sec.reset with temp := t } }
    115 ≤ (s 115).sec.temp.toNat ∧ (s 114).sec.temp.toNat < 115 := by decide

end Sys2Proof.Tests
end

/-! PROOFS. Control transfer and the hardware loops (R16, R27-R29, R86-R88). -/

namespace Sys2Proof.Machine

/-- What the loop check makes of the registers (R28), loop by loop. -/
theorem loopNext_eq (r : Regs) :
    let hit1 := r.lc1.count ≠ 0 ∧ r.pc = r.lc1.fin
    let next := if hit1 ∧ r.lc1.count ≠ 1 then r.lc1.start else r.pc + 16
    let hit0 := next = r.pc + 16 ∧ r.lc0.count ≠ 0 ∧ r.pc = r.lc0.fin
    loopNext r r.pc =
      { r with
        lc1 := { r.lc1 with count := if hit1 then r.lc1.count - 1 else r.lc1.count }
        lc0 := { r.lc0 with count := if hit0 then r.lc0.count - 1 else r.lc0.count }
        pc := if hit0 ∧ r.lc0.count ≠ 1 then r.lc0.start else next } := by
  have last : ∀ c : BitVec 32, c - 1 = 0 ↔ c = 1 := fun c => by bv_omega
  simp only [loopNext, ne_eq, last]
  generalize (if (¬r.lc1.count = 0 ∧ r.pc = r.lc1.fin) ∧ ¬r.lc1.count = 1 then r.lc1.start else r.pc + 16) = next
  by_cases hit0 : next = r.pc + 16 ∧ ¬r.lc0.count = 0 ∧ r.pc = r.lc0.fin
  · simp only [hit0, true_and]
    split <;> split <;> simp_all
  · simp only [hit0, if_false, false_and]
    split <;> rfl

/-- A good target of R16 is taken. -/
theorem jumpTo_good (s : State) {g : Word64} (ha : g.toNat % 16 = 0) (hr : g.toNat < 2 ^ 57) : jumpTo s g = .jump s g := by
  have : g.toNat / 2 ^ 57 = 0 := Nat.div_eq_of_lt hr
  simp only [jumpTo, ha, this, ne_eq, not_true_eq_false, if_false]

/-- A misaligned target raises PC_ALIGN. -/
theorem jumpTo_misaligned (s : State) {g : Word64} (ha : g.toNat % 16 ≠ 0) :
    jumpTo s g = .trap { cause := 0x04, info := g.setWidth 32, akind := 1, addr := g } := by
  simp [jumpTo, ha]

/-- An aligned target past the 57-bit space raises ACCESS. -/
theorem jumpTo_outside (s : State) {g : Word64} (ha : g.toNat % 16 = 0) (hr : 2 ^ 57 ≤ g.toNat) :
    jumpTo s g = .trap { cause := 0x10, info := g.setWidth 32, akind := 1, addr := g } := by
  have : g.toNat / 2 ^ 57 ≠ 0 := by omega
  simp only [jumpTo, ha, this, ne_eq, not_true_eq_false, not_false_eq_true, if_false, if_true]

/-- The registers as a control transfer leaves them but for the PC: CALL writes the return address (R86). -/
def linkRegs (i : Instr) (s : State) : Regs :=
  match i with
  | .call d _ _ => s.regs.writeG d (s.pc + 16)
  | _ => s.regs

/-- The meaning of an instruction that transfers control: the check of its target (R16), then the transfer over the linked registers. -/
theorem exec_of_target {i : Instr} {s : State} {tv g : Word64} (h : ruleTarget i (s.withTv tv) = some g) :
    ∃ body, exec i s = run i body s ∧
      (∀ ti, jumpTo (s.withTv tv) g = .trap ti → body (s.withTv tv) = .trap ti) ∧
      (jumpTo (s.withTv tv) g = .jump (s.withTv tv) g → body (s.withTv tv) = .jump ((s.withTv tv).setRegs (linkRegs i s)) g) := by
  have plain : jumpTo (s.withTv tv) g = .jump (s.withTv tv) g → jumpTo (s.withTv tv) g = .jump ((s.withTv tv).setRegs s.regs) g := by
    rw [← State.withTv_regs s tv, State.setRegs_regs]; exact id
  unfold ruleTarget at h
  split at h
  case h_1 neg p imm sy =>
    obtain ⟨hp, hg⟩ := Option.ite_none_right_eq_some.mp h
    cases hg
    exact ⟨_, rfl, fun _ ht => (if_pos hp).trans ht, fun hj => (if_pos hp).trans (plain hj)⟩
  case h_2 a imm sy =>
    cases h
    exact ⟨_, rfl, fun _ ht => ht, plain⟩
  case h_3 d imm sy =>
    cases h
    refine ⟨_, rfl, fun ti ht => ?_, fun hj => ?_⟩
    · simp only [callTarget, relTarget, ht]
    · simp only [callTarget, relTarget, hj]; rfl
  case h_4 d a imm sy =>
    cases h
    refine ⟨_, rfl, fun ti ht => ?_, fun hj => ?_⟩
    · simp only [callTarget, State.baseOff, ht]
    · simp only [callTarget, State.baseOff, hj]; rfl
  case h_5 a sy =>
    cases h
    exact ⟨_, rfl, fun _ ht => ht, plain⟩
  case h_6 imm sy =>
    obtain ⟨hm, hg⟩ := Option.ite_none_right_eq_some.mp h
    cases hg
    exact ⟨_, rfl, fun _ ht => (if_pos hm).trans ht, fun hj => (if_pos hm).trans (plain hj)⟩
  case h_7 => cases h

/-- R16: a bad target traps before acceptance. -/
theorem badTargetTraps : BadTargetTraps := by
  intro i s tv g hp hg
  obtain ⟨body, he, htrap, -⟩ := exec_of_target hg
  rw [he]
  exact ⟨fun ha => run_trap hp (htrap _ (jumpTo_misaligned _ ha)), fun ha hr => run_trap hp (htrap _ (jumpTo_outside _ ha hr))⟩

/-- R86, R87: a good target is taken; BR and BRMZ that do not branch have no effect of their own. -/
theorem controlTransferTarget : ControlTransferTarget := by
  intro i s tv hp
  refine ⟨fun g hg ha hr => ?_, fun hi hn => ?_⟩
  · obtain ⟨body, he, -, hjump⟩ := exec_of_target hg
    rw [he]
    exact run_jumpRegs hp (hjump (jumpTo_good _ ha hr))
  · cases i with
    | br neg p imm sy =>
      have hb : ¬(s.readP p ^^ neg) := fun hb => Option.some_ne_none _ ((if_pos hb).symm.trans hn)
      exact run_nothing hp (if_neg hb)
    | brmz imm sy =>
      have hb : (s.withTv tv).topMask ≠ 0 := fun hb => Option.some_ne_none _ ((if_pos hb).symm.trans hn)
      exact run_nothing hp (if_neg hb)
    | _ => exact hi.elim

@[simp] theorem Regs.setLoop_pc (r : Regs) (lc : Fin 2) (l : Loop) : (r.setLoop lc l).pc = r.pc := by
  unfold Regs.setLoop; split <;> rfl

/-- R27, R88: LOOP sets its loop, or traps on an end past the 57-bit space. -/
theorem loopSetsItsRegisters : LoopSetsItsRegisters := by
  intro lc x n sy s tv hp
  refine ⟨fun hin => ?_, fun hout => run_trap hp (if_pos ?_)⟩
  · have hd : ¬(s.pc + BitVec.ofNat 64 (x.toNat * 16)).toNat / 2 ^ 57 ≠ 0 := not_not_intro (Nat.div_eq_of_lt hin)
    cases n <;> exact run_setRegs hp (if_neg hd) (Regs.setLoop_pc _ _ _)
  · exact Nat.div_ne_zero_iff.mpr ⟨by decide, hout⟩

/-- R28, R85: NOP and the fences have no effect of their own, so that only the loop check moves the registers. -/
theorem loopCheckAfterAcceptance : LoopCheckAfterAcceptance := by
  intro i s tv hp hi
  have hrun : ∃ body, exec i s = run i body s ∧ body (s.withTv tv) = ok (s.withTv tv) := by
    cases i with
    | nop sy => exact ⟨_, rfl, rfl⟩
    | fence o sc sy => exact ⟨_, rfl, rfl⟩
    | xfence o sc core engine sy =>
      exact ⟨_, rfl, if_neg (by cases engine <;> simp_all)⟩
    | _ => exact hi.elim
  obtain ⟨body, he, hb⟩ := hrun
  obtain ⟨t, ht, hr, hregs⟩ := run_nothing hp hb
  have heq := hregs.trans (loopNext_eq s.regs)
  refine ⟨t, he.trans ht, hr, ?_⟩
  rw [heq]
  exact ⟨rfl, rfl, rfl, rfl⟩

/-- Settles O44, part by part. -/
theorem controlTransferAndLoop : Obligations.ControlTransferAndLoop :=
  ⟨loopCheckAfterAcceptance, controlTransferTarget, badTargetTraps, loopSetsItsRegisters⟩

end Sys2Proof.Machine

/-! PROOFS. Taking a trap (R33, R359-R364, R373): what it leaves of every tile, the start of a drain, and the stop of a tile. -/

namespace Sys2Proof.Machine

/-! ### A stopped core -/

@[simp] theorem wakeIdle_vec (v : SvCtx) (code : Word64) : (wakeIdle v code).vec = v.vec := by
  unfold wakeIdle
  split
  · rfl
  · split <;> rfl
  · rfl

@[simp] theorem enterService_u (c : Core) (m : SvMode) (r : TrapRec) : (enterService c m r).u = c.u := rfl
@[simp] theorem enterService_trec (c : Core) (m : SvMode) (r : TrapRec) : (enterService c m r).v.trec = r := rfl
@[simp] theorem enterService_mode (c : Core) (m : SvMode) (r : TrapRec) : (enterService c m r).v.mode = m := rfl
@[simp] theorem enterService_stopped (c : Core) (m : SvMode) (r : TrapRec) : (enterService c m r).stopped = true := rfl
@[simp] theorem enterService_pc (c : Core) (m : SvMode) (r : TrapRec) : (enterService c m r).v.regs.pc = c.v.vec :=
  wakeIdle_vec c.v 2

/-- A stop changes no user context (R364). -/
@[simp] theorem stopCore_u (c : Core) (q : Bool) (r : TrapRec) : (stopCore c q r).u = c.u := by
  unfold stopCore; repeat' split
  all_goals rfl

/-- An absent or exited stream is left (R364). -/
theorem stopCore_dead {c : Core} (h : c.u.life ≠ .live) (q : Bool) (r : TrapRec) : stopCore c q r = c := if_pos h

/-- A live stream in share mode that holds no access stops with its record, its service context entered (R364). -/
theorem stopCore_share {c : Core} (hl : c.u.life = .live) (hm : c.v.mode = .share) (hv : c.v.vote = none) (ha : heldAccess c = false)
    (r : TrapRec) : stopCore c false r = enterService { c with remote := none } .entered r := by
  have hu : heldUser c = false := by
    unfold heldAccess at ha
    unfold heldUser
    cases hr : c.remote with
    | none => rfl
    | some x => simp_all
  simp [stopCore, hl, hm, hv, ha, hu]

/-! ### What every trap leaves: the user contexts -/

/-- Two tiles with the same user contexts: registers, life, ctl.lost, watchdog exponent and exit value of every stream. -/
def SameUsers (x y : Tile) : Prop := ∀ st, (y.core st).u = (x.core st).u

theorem SameUsers.refl (x : Tile) : SameUsers x x := fun _ => rfl

theorem SameUsers.setCore {x : Tile} {st : Stream} {c : Core} (h : c.u = (x.core st).u) : SameUsers x (x.setCore st c) := fun u => by
  by_cases e : u = st
  · rw [e, Tile.core_setCore, h]
  · rw [Tile.core_setCore_ne _ _ _ _ e]

theorem lateRecord_sameUsers (x : Tile) (st : Stream) (r : TrapRec) : SameUsers x (lateRecord x st r) := by
  unfold lateRecord
  dsimp only
  split
  · split
    · exact .setCore rfl
    · split
      · exact .setCore rfl
      · exact .setCore rfl
  · split
    · exact .setCore rfl
    · exact .refl x

@[simp] theorem pstreamCore_u (n : BitVec 8) (c : Core) : (pstreamCore n c).u = c.u := by
  unfold pstreamCore; split <;> rfl

theorem lateTrap_sameUsers (s : State) (t : TileId) (st : Stream) (r : TrapRec) : SameUsers (s.tile t) ((lateTrap s t st r).tile t) := by
  unfold lateTrap
  dsimp only
  split
  · intro u
    rw [State.tile_setTile, ← lateRecord_sameUsers (s.tile t) st { r with pstream := r.stream } u]
    cases u <;> exact pstreamCore_u _ _
  · rw [State.tile_setTile]
    exact lateRecord_sameUsers _ _ _

@[simp] theorem State.countEvent_tile (s : State) (die src unit n : Nat) (k : TileId) : (s.countEvent die src unit n).tile k = s.tile k := rfl
@[simp] theorem dropWaiters_tile (s : State) (t k : TileId) : (dropWaiters s t).tile k = s.tile k := rfl

/-- A tile whose drain starts (R363-R365): every live stream stops with its record. -/
def drainTile (x : Tile) (quiet : Bool) (trig : BitVec 8) (first : Option TrapRec) (recOf : Stream → TrapRec) : Tile :=
  { x with
    ld := stopCore x.ld quiet (recOf .load), cp := stopCore x.cp quiet (recOf .compute), st := stopCore x.st quiet (recOf .store),
    eng := { x.eng with chLoad := x.eng.chLoad.map Chan.keep, chStore := x.eng.chStore.map Chan.keep },
    drain := { x.drain with draining := true, trig := trig, first := first, quiet := quiet, cancel := quiet, mark := x.eng.order },
    blocked := 0 }

@[simp] theorem drainTile_core (x : Tile) (quiet : Bool) (trig : BitVec 8) (first : Option TrapRec) (recOf : Stream → TrapRec) (st : Stream) :
    (drainTile x quiet trig first recOf).core st = stopCore (x.core st) quiet (recOf st) := by
  cases st <;> rfl

/-- In a tile that drains a second trigger only takes its tile off the feeds (R367, R268). -/
theorem startDrain_again {s : State} {t : TileId} (h : inDrain (s.tile t) = true) (quiet : Bool) (trig : BitVec 8) (first : Option TrapRec)
    (recOf : Stream → TrapRec) : startDrain s t quiet trig first recOf = dropWaiters s t := if_pos h

theorem startDrain_first {s : State} {t : TileId} (h : inDrain (s.tile t) = false) (quiet : Bool) (trig : BitVec 8) (first : Option TrapRec)
    (recOf : Stream → TrapRec) :
    startDrain s t quiet trig first recOf =
      ((dropWaiters s t).setTile t (drainTile (s.tile t) quiet trig first recOf)).countEvent (dieOf t).val 0x0C (t.val % 16) 1 :=
  if_neg (Bool.eq_false_iff.mp h)

theorem startDrain_sameUsers (s : State) (t : TileId) (quiet : Bool) (trig : BitVec 8) (first : Option TrapRec) (recOf : Stream → TrapRec) :
    SameUsers (s.tile t) ((startDrain s t quiet trig first recOf).tile t) := by
  cases h : inDrain (s.tile t) with
  | true => rw [startDrain_again h]; exact .refl _
  | false =>
    rw [startDrain_first h, State.countEvent_tile, State.tile_setTile]
    intro u
    rw [drainTile_core, stopCore_u]

theorem trapDrain_sameUsers (s : State) (t : TileId) (st : Stream) (r : TrapRec) : SameUsers (s.tile t) ((trapDrain s t st r).tile t) := by
  have timed : ∀ (b : Bool) (d : Drain), SameUsers (s.tile t) ((if b then s.setTile t { s.tile t with drain := d } else s).tile t) := fun b d => by
    cases b
    · exact .refl _
    · intro u
      rw [if_pos rfl, State.tile_setTile]
      cases u <;> rfl
  unfold trapDrain
  dsimp only
  split
  · exact fun u => (lateTrap_sameUsers _ t st _ u).trans (timed _ _ u)
  · exact fun u => (startDrain_sameUsers _ t false _ _ _ u).trans (timed _ _ u)

theorem enterAlone_sameUsers (s : State) (t : TileId) (st : Stream) (ti : TrapInfo) : SameUsers (s.tile t) ((enterAlone s t st ti).tile t) := by
  unfold enterAlone
  rw [State.tile_setTile]
  exact .setCore rfl

/-- A core of a tile that R373 stops. -/
def haltCore (c : Core) : Core :=
  { c with stopped := true, pend := none, stall := none, remote := c.remote.filter Remote.underWay, v := { c.v with vote := none, held := false } }

/-- A tile that R373 stops; its task will complete with the record of the drain's first trap, or of this one. -/
def haltTile (x : Tile) (own : TrapRec) : Tile :=
  { x with
    ld := haltCore x.ld, cp := haltCore x.cp, st := haltCore x.st,
    eng := { x.eng with chLoad := x.eng.chLoad.map Chan.keep, chStore := x.eng.chStore.map Chan.keep },
    drain := { x.drain with draining := true, dead := true, quiet := true, first := some (x.drain.first.getD own), mark := x.eng.order } }

@[simp] theorem haltTile_core (x : Tile) (own : TrapRec) (st : Stream) : (haltTile x own).core st = haltCore (x.core st) := by
  cases st <;> rfl

/-- What a service context's trap makes of the module (R373). -/
theorem serviceTrap_eq (s : State) (t : TileId) (st : Stream) (ti : TrapInfo) :
    ∃ own, serviceTrap s t st ti =
      State.sendHost { (dropWaiters s t).setTile t (haltTile (s.tile t) own) with
        disp := { (dropWaiters s t).disp with nofit := t.val :: s.disp.nofit } } (.msix (1024 + t.val)) :=
  ⟨_, rfl⟩

@[simp] theorem State.sendHost_tile (s : State) (m : HostMsg) (k : TileId) : (s.sendHost m).tile k = s.tile k := rfl

theorem serviceTrap_tile (s : State) (t : TileId) (st : Stream) (ti : TrapInfo) :
    ∃ own, (serviceTrap s t st ti).tile t = haltTile (s.tile t) own := by
  obtain ⟨own, h⟩ := serviceTrap_eq s t st ti
  exact ⟨own, by rw [h]; exact State.tile_setTile _ _ _⟩

/-- A trap first counts an uncorrectable error of the tile's own stores (R468), which changes counters alone. -/
theorem takeTrap_eq (s : State) (ti : TrapInfo) :
    ∃ n, takeTrap s ti =
      match s.cur.ctx with
      | .user =>
        if ti.cause = 0x3F then enterAlone { s with ctrs := n } s.cur.tile s.cur.stream ti
        else trapDrain { s with ctrs := n } s.cur.tile s.cur.stream (trapRec s s.cur.tile s.cur.stream ti)
      | .service => serviceTrap { s with ctrs := n } s.cur.tile s.cur.stream ti := by
  unfold takeTrap
  split
  · exact ⟨_, rfl⟩
  · exact ⟨s.ctrs, rfl⟩

/-- No trap changes a user context of its tile (R33, R364). -/
theorem takeTrap_sameUsers (s : State) (ti : TrapInfo) : SameUsers (s.tile s.cur.tile) ((takeTrap s ti).tile s.cur.tile) := by
  obtain ⟨n, h⟩ := takeTrap_eq s ti
  rw [h]
  split
  · split
    · exact enterAlone_sameUsers { s with ctrs := n } _ _ _
    · exact trapDrain_sameUsers { s with ctrs := n } _ _ _
  · obtain ⟨own, ht⟩ := serviceTrap_tile { s with ctrs := n } s.cur.tile s.cur.stream ti
    rw [ht]
    exact fun u => by rw [haltTile_core]; rfl

/-! ### A service context's trap, and the start of a drain -/

/-- R373: every context of the tile stops, and the tile is out of use. -/
theorem serviceTrapStopsTile : ServiceTrapStopsTile := by
  intro s ti hc
  obtain ⟨n, ht⟩ := takeTrap_eq s ti
  rw [hc] at ht
  obtain ⟨own, hs⟩ := serviceTrap_eq { s with ctrs := n } s.cur.tile s.cur.stream ti
  have hts := ht.trans hs
  have hme : (takeTrap s ti).me = haltTile s.me own := by rw [hts]; exact State.tile_setTile _ _ _
  have hno : (takeTrap s ti).disp.nofit = s.cur.tile.val :: s.disp.nofit := by rw [hts]; rfl
  have hin : s.cur.tile.val ∈ (takeTrap s ti).disp.nofit := by rw [hno]; exact List.mem_cons_self
  refine ⟨fun st => ?_, by rw [hts]; rfl, by rw [hme]; rfl, by rw [hme]; rfl, by rw [hts]; rfl, fun k hk => ?_, hin, fun st k => ?_⟩
  · rw [hme, haltTile_core]; exact ⟨rfl, rfl, rfl⟩
  · rw [hts]; exact State.tile_setTile_ne _ _ _ _ hk
  · simp [mayIssue, hin]

/-- The record of a stream of a tile whose drain the trap `r` of stream `st` starts: its own, or a PEER record (R361). -/
def drainRec (s : State) (t : TileId) (st : Stream) (r : TrapRec) (st' : Stream) : TrapRec :=
  if st' = st then { r with pstream := BitVec.ofNat 8 (streamCode st) } else peerRec s t st' (BitVec.ofNat 8 (streamCode st))

theorem drainRec_self (s : State) (t : TileId) (st : Stream) (r : TrapRec) :
    drainRec s t st r st = { r with pstream := BitVec.ofNat 8 (streamCode st) } := if_pos rfl

theorem drainRec_peer (s : State) (t : TileId) {st st' : Stream} (r : TrapRec) (h : st' ≠ st) :
    drainRec s t st r st' = peerRec s t st' (BitVec.ofNat 8 (streamCode st)) := if_neg h

/-- A trap of a stream, no FABRIC timeout, in a tile that does not drain starts the drain (R363). -/
theorem trapDrain_first {s : State} {t : TileId} {st : Stream} {r : TrapRec} (hd : inDrain (s.tile t) = false) (hto : isTimeout r = false) :
    trapDrain s t st r = startDrain s t false r.cause (some (drainRec s t st r st)) (drainRec s t st r) := by
  have hp : ∀ p, isTimeout { r with pstream := p } = false := fun _ => hto
  rw [drainRec_self]
  simp only [trapDrain, hp, Bool.false_eq_true, if_false]
  exact if_neg (Bool.eq_false_iff.mp hd)

/-- A trap of a user context, no SVCALL and no fabric fault, in a tile that does not drain: its next state (R358, R363). -/
theorem takeTrap_drains {s : State} {ti : TrapInfo} (hc : s.cur.ctx = .user) (hv : ti.cause ≠ 0x3F) (hf : ti.cause ≠ 0x28)
    (hd : inDrain s.me = false) :
    let rec_ := drainRec s s.cur.tile s.cur.stream (trapRec s s.cur.tile s.cur.stream ti)
    ∃ n, takeTrap s ti =
      { (dropWaiters s s.cur.tile).setMe (drainTile s.me false ti.cause (some (rec_ s.cur.stream)) rec_) with ctrs := n } := by
  obtain ⟨n, ht⟩ := takeTrap_eq s ti
  rw [hc] at ht
  have hto : isTimeout (trapRec s s.cur.tile s.cur.stream ti) = false := by
    rw [isTimeout, Bool.and_eq_false_iff]
    exact .inl (beq_false_of_ne hf)
  have hdrain := (trapDrain_first (s := { s with ctrs := n }) (st := s.cur.stream) hd hto).trans (startDrain_first (s := { s with ctrs := n }) hd _ _ _ _)
  exact ⟨_, (ht.trans (if_neg hv)).trans hdrain⟩

/-- R363, R364: the state that `takeTrap_drains` gives, read core by core. -/
theorem trapStartsDrain : TrapStartsDrain := by
  intro s ti hc hv hf hd1 hd2 hlive hshare hvote hheld
  obtain ⟨n, ht⟩ := takeTrap_drains hc hv hf (show inDrain s.me = false by simp [inDrain, hd1, hd2])
  let r := trapRec s s.cur.tile s.cur.stream ti
  have hme : (takeTrap s ti).me = drainTile s.me false ti.cause (some (drainRec s s.cur.tile s.cur.stream r s.cur.stream))
      (drainRec s s.cur.tile s.cur.stream r) := by
    rw [ht]; exact State.tile_setTile _ _ _
  have entered : ∀ st, (s.me.core st).u.life = .live → (s.me.core st).v.mode = .share →
      (takeTrap s ti).me.core st = enterService { s.me.core st with remote := none } .entered (drainRec s s.cur.tile s.cur.stream r st) := by
    intro st hl hm
    rw [hme, drainTile_core]
    exact stopCore_share hl hm (hvote st) (hheld st) _
  have hcore : (takeTrap s ti).myCore =
      enterService { s.myCore with remote := none } .entered (drainRec s s.cur.tile s.cur.stream r s.cur.stream) := by
    refine Eq.trans ?_ (entered _ hlive hshare)
    rw [ht]; rfl
  refine ⟨by rw [hme]; rfl, by rw [hme]; rfl, by rw [hme]; rfl, by rw [hcore]; rfl, by rw [hcore]; exact enterService_pc _ _ _,
    by rw [hcore]; rfl, by rw [hcore, enterService_trec, drainRec_self]; rfl, fun st hst hl hm => ?_, fun st hd => ?_, fun st => ?_,
    by rw [hme]; rfl, by rw [hme]; rfl, by rw [hme]; rfl, by rw [hme]; rfl, by rw [ht]; rfl, by rw [ht]; rfl, by rw [ht]; rfl, by rw [ht]; rfl,
    by rw [ht]; rfl, by rw [ht]; rfl, by rw [ht]; rfl, by rw [ht]; rfl, by rw [ht]; rfl, by rw [ht]; rfl, fun k hk => ?_⟩
  · rw [entered st hl hm, drainRec_peer _ _ _ hst]
    exact ⟨rfl, enterService_pc _ _ _, rfl, rfl, rfl, rfl, rfl⟩
  · rw [hme, drainTile_core, stopCore_dead hd]
  · rw [hme, drainTile_core, stopCore_u]
  · rw [ht]; exact State.tile_setTile_ne _ _ _ _ hk

/-- Settles O48, for the user context and the service context. -/
theorem trapsStopTheTile : Obligations.TrapsStopTheTile := ⟨trapStartsDrain, serviceTrapStopsTile⟩

end Sys2Proof.Machine

/-! PROOFS. Every instruction issues by the checks of R35: an unsatisfied wait (R41, R42) is found before its own meaning. -/

namespace Sys2Proof.Machine

/-- Every constructor with an OP but EXIT is issued by `run` with a meaning of its own. -/
theorem exec_runs {i : Instr} (h : (opOf i).isSome = true) (he : ∀ v sy, i ≠ .exit v sy) : ∃ body, ∀ s, exec i s = run i body s := by
  cases i <;> cases h
  case exit v sy => exact absurd rfl (he v sy)
  all_goals exact ⟨_, fun _ => rfl⟩

/-- With a live stream on the tile no task completes (R164). -/
theorem completeIfExited_live {s : State} {t : TileId} {st : Stream} (h : ((s.tile t).core st).u.life = .live) : completeIfExited s t = s := by
  refine if_neg ?_
  cases st <;> simp_all [Tile.core]

/-- An instruction whose issue comes to `u` whatever its meaning, the acting stream live in it, answers `u`. -/
theorem exec_of_issue {i : Instr} {s u : State} (h : (opOf i).isSome = true) (hu : ∀ body, issue i body s = u)
    (hl : ((u.tile s.cur.tile).core s.cur.stream).u.life = .live) : exec i s = .next u := by
  by_cases he : ∀ v sy, i ≠ .exit v sy
  · obtain ⟨body, hb⟩ := exec_runs h he
    rw [hb, run, hu]
  · obtain ⟨v, sy, rfl⟩ : ∃ v sy, i = .exit v sy := by simpa using he
    rw [exec_exit, execExit, hu, completeIfExited_live hl]

/-- A context whose wait finds anything but tv is a user context: a service context's SYNC field is zero (R44). -/
theorem user_of_wait {i : Instr} {s : State} (h5 : step5Ok s.cur.ctx i = true) (hw : waitRes s.me s.cur.stream (syncOf i).wait ≠ .ok 0) :
    s.cur.ctx = .user := by
  cases hc : s.cur.ctx with
  | user => rfl
  | service =>
    rw [hc] at h5
    have hs : syncOf i = {} := by
      unfold step5Ok at h5
      simp only [Bool.and_eq_true, Bool.or_eq_true, beq_iff_eq, reduceCtorEq, false_or] at h5
      obtain ⟨⟨-, hs⟩, -⟩ := h5
      exact hs
    exact absurd (by rw [hs]; rfl) hw

/-- The mark of a stall of a user context is all that a wait for a token leaves (R157). -/
theorem markStall_user {s : State} (h : s.cur.ctx = .user) (w : Stall) :
    markStall s w = s.setMyCore { s.myCore with stall := some w, tried := true } := by
  simp only [markStall, h]

theorem SameOutside.setMyCore (s : State) (c : Core) : SameOutside s (s.setMyCore c) := SameOutside.setMe s _

/-- Settles O5: issue comes to the trap or the stall whatever the meaning of the instruction, in a tile whose acting stream stays live. -/
theorem unsatisfiedWait : Obligations.UnsatisfiedWait := by
  intro i s hop hlive hcls h5
  refine ⟨fun c info hw => ?_, fun code hw => ?_⟩
  · have hu := user_of_wait h5 (by rw [hw]; nofun)
    refine exec_of_issue hop (fun body => by simp only [issue, hcls, h5, hw]; rfl) ?_
    rw [takeTrap_sameUsers]
    exact hlive hu
  · have hu := user_of_wait h5 (by rw [hw]; nofun)
    have hm := markStall_user hu (.wait code)
    have hc : (s.setMyCore { s.myCore with stall := some (.wait code), tried := true }).myCore =
      { s.myCore with stall := some (.wait code), tried := true } := State.myCore_setMyCore _ _
    refine ⟨_, exec_of_issue hop (fun body => by simp only [issue, hcls, h5, hw]; exact hm) ?_, ?_, ?_, ?_, ?_, .setMyCore _ _, hu, ?_⟩
    · exact (congrArg (·.u.life) hc).trans (hlive hu)
    · simp only [State.regs, hc, State.setMyCore_cur, hu, Core.regs]
    · simp [State.setMyCore]
    · simp [State.setMyCore]
    · simp [State.setMyCore]
    · rw [hc]

end Sys2Proof.Machine

/-! PROOFS. One step: a core's turn, an event, a clock of every tile. -/

namespace Sys2Proof.Machine

/-! ### A core's turn (R18, R19, R34, R35, R160) -/

/-- The turn of a context whose own turn it is: no other stream has trapped in this clock, and its service context does not take the slot. -/
theorem coreTurn_own {s : State} {k : TileId} {st : Stream} {c : CtxKind} (ht : c = .user → mayTrapToo (s.tile k) ((s.tile k).core st) = false)
    (hs : c = .user → serviceTakes s k st = false) : coreTurn s k st c = endTurn k st (attempt s k st c) := by
  cases c with
  | user => simp [coreTurn, ht rfl, hs rfl]
  | service => rfl

/-- A service context that takes the slot of its user context has the turn (R160). -/
theorem coreTurn_taken {s : State} {k : TileId} {st : Stream} (ht : mayTrapToo (s.tile k) ((s.tile k).core st) = false)
    (hs : serviceTakes s k st = true) : coreTurn s k st .user = coreTurn s k st .service := by
  simp [coreTurn, ht, hs]

/-- A context that may not issue does nothing. -/
theorem attempt_idle {s : State} {k : TileId} {st : Stream} {c : CtxKind} (h : mayIssue s k st c = false) : attempt s k st c = .next s := by
  simp [attempt, prepare, h]

/-- A context that may issue runs the instruction that its fetched word decodes to. -/
theorem attempt_runs {s s' : State} {k : TileId} {st : Stream} {c : CtxKind} {w : Word128} {i : Instr} (h : mayIssue s k st c = true)
    (hf : fetch { s with cur := ⟨k, st, c, 0⟩ } k st c = .word w s') (hd : decode w = .ok i) : attempt s k st c = exec i s' := by
  simp only [attempt, prepare, h, hf, hd, if_true]

/-- A fetched word that does not decode traps (R51). -/
theorem attempt_badWord {s s' : State} {k : TileId} {st : Stream} {c : CtxKind} {w : Word128} (h : mayIssue s k st c = true)
    (hf : fetch { s with cur := ⟨k, st, c, 0⟩ } k st c = .word w s') (hd : ∀ i, decode w ≠ .ok i) :
    attempt s k st c = .next (takeTrap s' (badWordTrap st c w)) := by
  have hp : prepare s k st c = .over (takeTrap s' (badWordTrap st c w)) := by simp only [prepare, h, hf, if_true]
  simp only [attempt, hp]

/-- A service context's word is in its cache (R18), a user context's has been fetched already (R19). -/
def HasWord (x : Core) (c : CtxKind) (w : Word128) : Prop :=
  c = .service ∧ x.cached c (x.regs c).pc = some w ∨ c = .user ∧ ∃ e, x.word = some e ∧ e.addr = (x.regs c).pc ∧ e.word = w

/-- Such a word is fetched without a change of state. -/
theorem fetch_hasWord {s : State} {k : TileId} {st : Stream} {c : CtxKind} {w : Word128} (h : HasWord ((s.tile k).core st) c w) :
    fetch s k st c = .word w s := by
  obtain ⟨rfl, hw⟩ | ⟨rfl, e, he, ha, rfl⟩ := h
  · simp only [fetch, hw]
  · have hk : Option.filter (fun a : ICell => a.addr == (((s.tile k).core st).regs .user).pc) (some e) = some e :=
      Option.filter_some_pos (by simpa using ha)
    simp only [fetch, he, hk]

theorem step_agenda {s : State} {e : Turn} {rest : List Turn} (h : s.agenda = e :: rest) : step s = runTurn { s with agenda := rest } e := by
  simp only [step, h]

/-! ### Events -/

/-- `t` is `s` after a packet was counted at its port: buffer lending alone differs, and the free value that chose the port is used (R412). -/
def CountedAtPort (s t : State) : Prop := t = { s with fab := { s.fab with lend := t.fab.lend }, freeIdx := t.freeIdx }

theorem CountedAtPort.trans {s t u : State} (a : CountedAtPort s t) (b : CountedAtPort t u) : CountedAtPort s u := by
  unfold CountedAtPort at *
  rw [a] at b
  exact b

theorem CountedAtPort.of_lend (s : State) (v : Vector Lend 48) : CountedAtPort s { s with fab := { s.fab with lend := v } } := rfl

theorem updLend_counted (s : State) (p : Nat) (f : Lend → Lend) : CountedAtPort s (updLend s p f) := .of_lend s _

theorem bump_counted (s : State) : CountedAtPort s s.bump := rfl

theorem countGang_counted (s : State) (p : Packet) : CountedAtPort s (countGang s p) := by
  unfold countGang
  split
  · exact (updLend_counted s _ _).trans (bump_counted _)
  · rfl

theorem beforeEvent_counted (s : State) (i : Instr) : CountedAtPort s (beforeEvent s i) := by
  unfold beforeEvent
  split
  case h_8 => rfl
  all_goals exact countGang_counted s _

/-! ### One clock (R26, R421) -/

/-- Two states differ in the stall and turn marks of cores alone. -/
structure MarksOnly (s t : State) : Prop where
  rest : t = { s with tiles := t.tiles }
  cycle : ∀ k, (t.tile k).cycle = (s.tile k).cycle
  user : ∀ k, SameUsers (s.tile k) (t.tile k)

theorem MarksOnly.refl (s : State) : MarksOnly s s := ⟨rfl, fun _ => rfl, fun _ => .refl _⟩

theorem MarksOnly.trans {s t u : State} (a : MarksOnly s t) (b : MarksOnly t u) : MarksOnly s u :=
  ⟨by rw [b.rest, a.rest], fun k => (b.cycle k).trans (a.cycle k), fun k st => (b.user k st).trans (a.user k st)⟩

theorem MarksOnly.time {s t : State} (h : MarksOnly s t) : t.time = s.time := by rw [h.rest]
theorem MarksOnly.hbm {s t : State} (h : MarksOnly s t) : t.hbm = s.hbm := by rw [h.rest]

theorem askStream_marks (s : State) (t : TileId) (st : Stream) : MarksOnly s (askStream s t st) := by
  have put : ∀ c : Core, c.u = ((s.tile t).core st).u → MarksOnly s (s.setTile t ((s.tile t).setCore st c)) := fun c hc =>
    ⟨rfl, fun k => by
      by_cases e : k = t
      · subst e; simp
      · rw [State.tile_setTile_ne _ _ _ _ e], fun k => by
      by_cases e : k = t
      · subst e; rw [State.tile_setTile]; exact .setCore hc
      · rw [State.tile_setTile_ne _ _ _ _ e]; exact .refl _⟩
  unfold askStream
  dsimp only
  split
  · exact .refl s
  · split
    · split
      · exact put _ rfl
      · exact .refl s
    · exact .refl s

theorem askTile_marks (s : State) (t : TileId) : MarksOnly s (askTile s t) := by
  unfold askTile
  split
  · exact .refl s
  · exact ((askStream_marks s t .load).trans (askStream_marks _ t .compute)).trans (askStream_marks _ t .store)

theorem askAll_marks (s : State) : MarksOnly s (askAll s) := by
  unfold askAll
  generalize List.finRange 192 = l
  induction l generalizing s with
  | nil => exact .refl s
  | cons t l ih => exact (askTile_marks s t).trans (ih _)

theorem tick_tile (s : State) (k : TileId) :
    (tick s).tile k = tickTile (jobQuiesced s (tileJob (s.tile k))) (opsStuck (s.tile k)) (s.tile k) := by
  simp [tick, State.tile]

/-- A clock's turn: the streams are asked what they are stopped on, the clock passes, and what it makes due is put on the agenda. -/
theorem clockTurn_eq (s : State) : ∃ a n, clockTurn s = { tick (askAll s) with agenda := a, freeIdx := n } := ⟨_, _, rfl⟩

theorem tick_time (s : State) :
    (tick s).time = deferredStep (tickTime s.time (clockUnits s.sec.step)) (!s.gang.ridges.isEmpty) := rfl

theorem clockUnits_pos (b : BitVec 4) : 0 < clockUnits b := by
  have := b.isLt
  exact Nat.div_pos (by omega) (by omega)

/-- A slewed clock takes at most a part of itself back (R421). -/
theorem now_le_tickTime (u : TimeUnit) (dt : Nat) : u.now ≤ (tickTime u dt).now := by
  have hs : -((dt / 10000 : Nat) : Int) ≤ slewPart u.slew dt := by
    unfold slewPart; dsimp only
    split
    · omega
    · split <;> omega
  simp only [tickTime]
  omega

theorem deferredStep_clk (u : TimeUnit) (b : Bool) : (deferredStep u b).clk = u.clk := by
  unfold deferredStep
  split
  · split <;> rfl
  · rfl

/-- Module time never runs backwards (R421). -/
theorem now_le_deferredStep (u : TimeUnit) (b : Bool) : u.now ≤ (deferredStep u b).now := by
  unfold deferredStep
  split
  · split
    · exact Nat.le_refl _
    · exact Nat.le_max_left _ _
  · exact Nat.le_refl _

theorem tickTile_sameUsers (q b : Bool) (x : Tile) : SameUsers x (tickTile q b x) := fun st => by cases st <;> rfl

/-- Settles O37: the core's turn, the event, the clock. -/
theorem stepRunsDecodedInstruction : Obligations.StepRunsDecodedInstruction := by
  refine ⟨fun s k st c rest hag => ?_, fun s i rest hag hop => ?_, fun s rest hag => ?_⟩
  · have hstep : step s = coreTurn { s with agenda := rest } k st c := step_agenda hag
    intro s0 s1 core ht
    refine ⟨?_, fun hs => ⟨fun hm => ⟨fun w i u hw hd he => ?_, fun w i u s2 hf hd he => ?_, fun w s2 hf hd => ?_⟩, fun hm => ?_⟩⟩
    · rintro rfl hs
      exact hstep.trans (coreTurn_taken (ht rfl) hs)
    all_goals rw [hstep, coreTurn_own (s := s0) ht hs]
    · rw [attempt_runs hm (fetch_hasWord hw) hd, he]; rfl
    · rw [attempt_runs hm hf hd, he]; rfl
    · rw [attempt_badWord hm hf hd]; rfl
    · rw [attempt_idle hm]; rfl
  · have hb := beforeEvent_counted { s with agenda := rest } i
    refine ⟨_, ?_, hb⟩
    rw [step_agenda hag]
    simp [runTurn, hop]
  · have hm := askAll_marks { s with agenda := rest }
    obtain ⟨a, n, hclock⟩ := clockTurn_eq { s with agenda := rest }
    generalize askAll { s with agenda := rest } = u at hm hclock
    have htime : u.time = s.time := hm.time
    have htile : ∀ k, State.tile { tick u with agenda := a, freeIdx := n } k = tickTile _ _ (u.tile k) := tick_tile u
    refine ⟨_, (step_agenda hag).trans (congrArg Host.Outcome.next hclock), fun k => ?_, ?_, ?_, hm.hbm, fun k st => ?_⟩
    · rw [htile]
      exact congrArg (· + 1) (hm.cycle k)
    · show s.time.clk < (tick u).time.clk
      rw [tick_time, deferredStep_clk, htime]
      exact Nat.lt_add_of_pos_right (clockUnits_pos _)
    · show s.time.now ≤ (tick u).time.now
      rw [tick_time, htime]
      exact Nat.le_trans (now_le_tickTime _ _) (now_le_deferredStep _ _)
    · rw [htile, tickTile_sameUsers]
      exact hm.user k st

end Sys2Proof.Machine

/-! PROOFS. Every instruction and every event has a next state (log entry 1). -/

namespace Sys2Proof.Machine

/-- Settles O38: instructions and most events answer `.next` outright; an event with a condition answers it in every branch of its meaning. -/
theorem everyInstructionAnswers : Obligations.EveryInstructionAnswers := by
  intro i s
  cases i with
  | taskStart | tokenDeadlock | hang | drainComplete | nestStart | moutRow | cfenceRetire | idleTimeWake | waitfPoll
  | savedTaskPlace | jxinvDone | qnotify | packetTake | packetStart | feedPush | phaseComplete | packetComplete | registerWrite
  | requestDiscard | replayStateFree | purlinPacketDiscard | retransmit | fabricTimeout | creditInterval | limitFlit | limitAck
  | gangArm | firstDecision | gangDecide | ridgeAction | gangVerdict | secondDecision | gangFallback | gangReady | gangGo | gangQuery
  | quiesce | queryResend | fallbackTimeout | undecided | ppsIn | ppsOut | ppsOutEnd
  | hostMemRead | hostMemWrite | backInvalidateRsp | hostWindowRsp
  | thermalTrip | firmwareSupply | bringUpStepComplete | purlinTrain | encInit | encInitDone | keyDone | attestRequest | attestDone
  | throttleTick =>
    dsimp only [exec, execTaskStart, execTokenDeadlock, execHang, execDrainComplete, execNestStart, execMoutRow, execCfenceRetire,
      execIdleTimeWake, execWaitfPoll, execSavedTaskPlace, execJxinvDone, execQnotify, execPacketTake, execPacketStart, execFeedPush,
      execPhaseComplete, execPacketComplete, execRegisterWrite, execRequestDiscard, execReplayStateFree, execPurlinPacketDiscard,
      execRetransmit, execFabricTimeout, execCreditInterval, execLimitFlit, execLimitAck, execGangArm, execFirstDecision, execGangDecide,
      execRidgeAction, execGangVerdict, execSecondDecision, execGangFallback, execGangReady, execGangGo, execGangQuery, execQuiesce,
      execQueryResend, execFallbackTimeout, execUndecided, execPpsIn, execPpsOut, execPpsOutEnd, execHostMemRead, execHostMemWrite,
      execBackInvalidateRsp, execHostWindowRsp, execThermalTrip, execFirmwareSupply, execBringUpStepComplete, execPurlinTrain, execEncInit,
      execEncInitDone, execKeyDone, execAttestRequest, execAttestDone, execThrottleTick]
    repeat' split
    all_goals exact ⟨_, rfl⟩
  | _ => exact ⟨_, rfl⟩

end Sys2Proof.Machine

/-! PROOFS. CTLRD and CTLWR over the control, service and window registers (R22-R26, R89, R92, R362). -/

namespace Sys2Proof.Machine

/-! ### Records as doublewords (R6, R360) -/

/-- The bytes of a number whose lowest byte is `b`. -/
theorem leBytes_cons (b : Byte) (n y : Nat) : leBytes (n + 1) (b.toNat + 256 * y) = b :: leBytes n y := by
  have hb : BitVec.ofNat 8 (b.toNat + 256 * y) = b := BitVec.eq_of_toNat_eq (by rw [BitVec.toNat_ofNat]; omega)
  rw [leBytes, hb, Nat.add_mul_div_left _ _ (by decide), Nat.div_eq_of_lt b.isLt, Nat.zero_add]

/-- The bytes of a number are those of its low part and then those of the rest. -/
theorem leBytes_add (m k x y : Nat) (hx : x < 256 ^ m) : leBytes (m + k) (x + 256 ^ m * y) = leBytes m x ++ leBytes k y := by
  induction m generalizing x with
  | zero =>
    obtain rfl : x = 0 := by simpa using hx
    simp [leBytes]
  | succ m ih =>
    have hp : x + 256 ^ (m + 1) * y = x + 256 * (256 ^ m * y) := by
      rw [Nat.pow_succ, Nat.mul_comm (256 ^ m), Nat.mul_assoc]
    have hb : BitVec.ofNat 8 (x + 256 * (256 ^ m * y)) = BitVec.ofNat 8 x := BitVec.eq_of_toNat_eq (by
      simp only [BitVec.toNat_ofNat, Nat.reducePow, Nat.add_mul_mod_self_left])
    rw [Nat.pow_succ] at hx
    rw [hp, Nat.add_right_comm, leBytes, hb, Nat.add_mul_div_left _ _ (by decide), ih _ (by omega), leBytes, List.cons_append]

/-- Field `i` of a record of doublewords. -/
theorem fieldAt_flatMap_leBytes (ws : List Nat) (i : Nat) (h : i < ws.length) : fieldAt (ws.flatMap (leBytes 8)) (8 * i) 8 = ws[i] % 256 ^ 8 := by
  induction ws generalizing i with
  | nil => exact absurd h (Nat.not_lt_zero i)
  | cons w ws ih =>
    cases i with
    | zero => rw [fieldAt, List.flatMap_cons, Nat.mul_zero, List.drop_zero, List.take_left' (leBytes_length 8 w), leNat_leBytes]; rfl
    | succ i =>
      have hd : (leBytes 8 w ++ ws.flatMap (leBytes 8)).drop (8 * (i + 1)) = (ws.flatMap (leBytes 8)).drop (8 * i) := by
        rw [Nat.mul_succ, Nat.add_comm, ← List.drop_drop, List.drop_left' (leBytes_length 8 w)]
      rw [fieldAt, List.flatMap_cons, hd]
      exact ih i (Nat.lt_of_succ_lt_succ h)

/-- The doublewords of a trap record (R360). -/
def trecWords (r : TrapRec) : List Nat :=
  [r.cause.toNat + trecFlags r * 2 ^ 8 + r.stream.toNat * 2 ^ 16 + r.akind.toNat * 2 ^ 24 + r.info.toNat * 2 ^ 32, r.tpc.toNat,
    r.word.toNat % 2 ^ 64, r.word.toNat / 2 ^ 64, r.addr.toNat, r.infl.toNat + r.pstream.toNat * 2 ^ 8, r.time.toNat, r.cycle.toNat]

theorem trecFlags_lt (r : TrapRec) : trecFlags r < 256 := by
  have hb : ∀ b, ofBool b ≤ 1 := by decide
  have := hb r.valid; have := hb r.async; have := hb r.peer; have := hb r.restore; have := hb r.alone
  unfold trecFlags
  omega

/-- R360's record, doubleword by doubleword. -/
theorem trecBytes_eq (r : TrapRec) : trecBytes r = (trecWords r).flatMap (leBytes 8) := by
  have hflags : (BitVec.ofNat 8 (trecFlags r)).toNat = trecFlags r := Nat.mod_eq_of_lt (trecFlags_lt r)
  have head : r.cause.toNat + trecFlags r * 2 ^ 8 + r.stream.toNat * 2 ^ 16 + r.akind.toNat * 2 ^ 24 + r.info.toNat * 2 ^ 32 =
      r.cause.toNat + 256 * ((BitVec.ofNat 8 (trecFlags r)).toNat + 256 * (r.stream.toNat + 256 * (r.akind.toNat + 256 * r.info.toNat))) := by
    rw [hflags]; omega
  have tail : r.infl.toNat + r.pstream.toNat * 2 ^ 8 = r.infl.toNat + 256 * (r.pstream.toNat + 256 * 0) := by omega
  have word : leBytes 16 r.word.toNat = leBytes 8 (r.word.toNat % 2 ^ 64) ++ leBytes 8 (r.word.toNat / 2 ^ 64) := by
    have h := leBytes_add 8 8 (r.word.toNat % 2 ^ 64) (r.word.toNat / 2 ^ 64) (Nat.mod_lt _ (by decide))
    rwa [show 256 ^ 8 = 2 ^ 64 by decide, Nat.mod_add_div] at h
  simp only [trecWords, List.flatMap_cons, List.flatMap_nil, List.append_nil, head, tail, leBytes_cons, trecBytes, word, List.append_assoc,
    List.cons_append, List.nil_append]
  rfl

/-- A doubleword of a trap record's bytes, as the service context reads it (R362). -/
theorem trecField (r : TrapRec) (i : Nat) (h : i < 8) :
    BitVec.ofNat 64 (fieldAt (trecBytes r) (8 * i) 8) = BitVec.ofNat 64 ((trecWords r)[i]'h) := by
  rw [trecBytes_eq, fieldAt_flatMap_leBytes _ _ h]
  exact BitVec.eq_of_toNat_eq (by simp)

/-! ### Bits of a word -/

@[simp] theorem ofBool_eq_toNat (b : Bool) : ofBool b = b.toNat := by cases b <;> rfl

/-- A number summed up from bits has those bits. -/
theorem testBit_sum_bits (f : Nat → Bool) (n : Nat) :
    let x := (List.range n).foldl (fun a i => a + ofBool (f i) * 2 ^ i) 0
    x < 2 ^ n ∧ ∀ k, k < n → x.testBit k = f k := by
  induction n with
  | zero => exact ⟨Nat.one_pos, fun k hk => absurd hk (Nat.not_lt_zero k)⟩
  | succ n ih =>
    obtain ⟨hlt, hbit⟩ := ih
    rw [List.range_succ, List.foldl_append, List.foldl_cons, List.foldl_nil]
    generalize (List.range n).foldl (fun a i => a + ofBool (f i) * 2 ^ i) 0 = x at hlt hbit
    rw [Nat.add_comm, Nat.mul_comm]
    refine ⟨?_, fun k hk => ?_⟩
    · rw [Nat.pow_succ]
      cases f n <;> simp only [ofBool_eq_toNat, Bool.toNat_false, Bool.toNat_true] <;> omega
    · rw [Nat.testBit_two_pow_mul_add _ hlt]
      by_cases hkn : k < n
      · rw [if_pos hkn, hbit k hkn]
      · obtain rfl : k = n := by omega
        rw [if_neg hkn, Nat.sub_self, ofBool_eq_toNat, Nat.testBit_zero]
        cases f k <;> rfl

/-- Bit k of the predicates' word is predicate k (R362). -/
theorem predBits_getLsbD (r : Regs) (k : Fin 8) : (predBits r).getLsbD k.val = r.readP k := by
  have hsum := (testBit_sum_bits (fun i => if h : i < 8 then r.readP ⟨i, h⟩ else false) 8).2 k.val k.isLt
  have hp : predBits r =
      BitVec.ofNat 64 ((List.range 8).foldl (fun a i => a + ofBool (if h : i < 8 then r.readP ⟨i, h⟩ else false) * 2 ^ i) 0) := by
    unfold predBits
    congr 3
    funext a i
    split <;> simp
  have hk : k.val < 64 := by omega
  rw [hp, BitVec.getLsbD_ofNat, decide_eq_true hk, Bool.true_and, hsum]
  exact dif_pos k.isLt

/-- The low bits of a word are what a mask of ones leaves. -/
theorem setWidth_setWidth_eq_and (v : Word64) {w : Nat} (h : w ≤ 64) : (v.setWidth w).setWidth 64 = v &&& BitVec.ofNat 64 (2 ^ w - 1) := by
  have hp : 2 ^ w ≤ 2 ^ 64 := Nat.pow_le_pow_right (by decide) h
  have hpos : 0 < 2 ^ w := Nat.two_pow_pos w
  apply BitVec.eq_of_toNat_eq
  rw [BitVec.toNat_and, BitVec.toNat_ofNat, Nat.mod_eq_of_lt (show 2 ^ w - 1 < 2 ^ 64 by omega), Nat.and_two_pow_sub_one_eq_mod,
    BitVec.toNat_setWidth, BitVec.toNat_setWidth]
  exact Nat.mod_eq_of_lt (Nat.lt_of_lt_of_le (Nat.mod_lt _ hpos) hp)

/-! ### Writing a control register (R22-R24) -/

/-- A field of the registers that a control register holds, after a write of control register `n`. -/
theorem setCtl_flags (r : Regs) (n : Nat) (v : Word64) : (r.setCtl n v).flags = if n = 0x00 then v.setWidth 5 else r.flags := by
  unfold Regs.setCtl; split <;> simp_all
theorem setCtl_round (r : Regs) (n : Nat) (v : Word64) : (r.setCtl n v).round = if n = 0x01 then v.setWidth 3 else r.round := by
  unfold Regs.setCtl; split <;> simp_all
theorem setCtl_seed (r : Regs) (n : Nat) (v : Word64) : (r.setCtl n v).seed = if n = 0x02 then v else r.seed := by
  unfold Regs.setCtl; split <;> simp_all
theorem setCtl_srctr (r : Regs) (n : Nat) (v : Word64) : (r.setCtl n v).srctr = if n = 0x03 then v else r.srctr := by
  unfold Regs.setCtl; split <;> simp_all
theorem setCtl_lc0 (r : Regs) (n : Nat) (v : Word64) : (r.setCtl n v).lc0 =
    ⟨if n = 0x10 then v.setWidth 32 else r.lc0.count, if n = 0x11 then loopAddr v else r.lc0.start,
      if n = 0x12 then loopAddr v else r.lc0.fin⟩ := by
  unfold Regs.setCtl; split <;> simp_all
theorem setCtl_lc1 (r : Regs) (n : Nat) (v : Word64) : (r.setCtl n v).lc1 =
    ⟨if n = 0x13 then v.setWidth 32 else r.lc1.count, if n = 0x14 then loopAddr v else r.lc1.start,
      if n = 0x15 then loopAddr v else r.lc1.fin⟩ := by
  unfold Regs.setCtl; split <;> simp_all
@[simp] theorem setCtl_g (r : Regs) (n : Nat) (v : Word64) : (r.setCtl n v).g = r.g := by
  unfold Regs.setCtl; split <;> rfl
@[simp] theorem setCtl_p (r : Regs) (n : Nat) (v : Word64) : (r.setCtl n v).p = r.p := by
  unfold Regs.setCtl; split <;> rfl
@[simp] theorem setCtl_pc (r : Regs) (n : Nat) (v : Word64) : (r.setCtl n v).pc = r.pc := by
  unfold Regs.setCtl; split <;> rfl

theorem setWidth_five_eq_and (v : Word64) : (v.setWidth 5).setWidth 64 = v &&& 0x1F := setWidth_setWidth_eq_and v (by decide)
theorem setWidth_three_eq_and (v : Word64) : (v.setWidth 3).setWidth 64 = v &&& 7 := setWidth_setWidth_eq_and v (by decide)
theorem setWidth_thirtyTwo_eq_and (v : Word64) : (v.setWidth 32).setWidth 64 = v &&& 0xFFFFFFFF := setWidth_setWidth_eq_and v (by decide)

theorem and_maxWord (v : Word64) : v &&& 18446744073709551615#64 = v := BitVec.and_allOnes

/-- A control register that is not the written one reads as before. -/
theorem ctlVal_setCtl_ne (s : State) (t : TileId) (st : Stream) (r : Regs) {n m : Nat} (v : Word64) (h : m ≠ n) :
    ctlVal s t st (r.setCtl n v) m = ctlVal s t st r m := by
  unfold ctlVal
  split <;> simp [setCtl_flags, setCtl_round, setCtl_seed, setCtl_srctr, setCtl_lc0, setCtl_lc1, h.symm]

/-- The written control register reads its writable bits; one without writable bits reads as before (R22, R23). -/
theorem ctlVal_setCtl_self (s : State) (t : TileId) (st : Stream) (r : Regs) (n : Nat) (v : Word64) :
    ctlVal s t st (r.setCtl n v) n = if ruleCtlMask n ≠ 0 then v &&& ruleCtlMask n else ctlVal s t st r n := by
  unfold ctlVal
  split <;> simp [setCtl_flags, setCtl_round, setCtl_seed, setCtl_srctr, setCtl_lc0, setCtl_lc1, ruleCtlMask,
    setWidth_five_eq_and, setWidth_three_eq_and, setWidth_thirtyTwo_eq_and, and_maxWord, loopAddr]

/-- What any control register reads after a write of control register `n`. -/
theorem ctlVal_setCtl (s : State) (t : TileId) (st : Stream) (r : Regs) (n m : Nat) (v : Word64) :
    ctlVal s t st (r.setCtl n v) m = if m = n ∧ ruleCtlMask m ≠ 0 then v &&& ruleCtlMask m else ctlVal s t st r m := by
  by_cases h : m = n
  · subst h
    simp only [ctlVal_setCtl_self, true_and]
  · simp only [ctlVal_setCtl_ne s t st r v h, h, false_and, if_false]

theorem ctlWriteOk_iff (n : Nat) (v : Word64) :
    ctlWriteOk n v = true ↔ (n = 0x01 → v.toNat % 8 < 6) ∧ (n = 0x0A → 16 ≤ v.toNat % 64 ∧ v.toNat % 64 ≤ 40) := by
  unfold ctlWriteOk
  split <;> simp_all

/-! ### What a write of the acting core comes to (R28, R35) -/

/-- An accepted instruction whose effect is the acting core `c`: the loop check over the registers of its context, the core's other parts as in `c`,
and nothing else but tokens. -/
structure CoreWrote (s t : State) (c : Core) : Prop where
  regs : t.regs = loopNext (c.regs s.cur.ctx) (c.regs s.cur.ctx).pc
  core : SameCoreRest s.cur.ctx c t.myCore
  outside : SameOutside s t
  tile : SameTileRest s.cur.stream s.me t.me
  store : t.me.store = s.me.store
  eng : t.me.eng = s.me.eng

theorem setMyCore_me (s : State) (c : Core) : (s.setMyCore c).me = s.me.setCore s.cur.stream c := State.me_setMe _ _

theorem SameTileRest.setCore (x : Tile) (st : Stream) (c : Core) : SameTileRest st x (x.setCore st c) :=
  ⟨fun _ h => Tile.core_setCore_ne _ _ _ _ h, by simp, by simp, by simp, by simp, by simp, by simp, by simp, by simp⟩

/-- The accepted state of an effect on the acting core, as acceptance over its registers. -/
theorem passed_setMyCore (s : State) (tv : Word64) (c : Core) (sy : Sync) (posts : List Post) :
    passed s ((s.withTv tv).setMyCore c) sy posts =
      retire (accept (((s.withTv tv).setMyCore c).setRegs (loopNext (c.regs s.cur.ctx) (c.regs s.cur.ctx).pc)) sy posts) := by
  have hk : keepUser s ((s.withTv tv).setMyCore c) = (s.withTv tv).setMyCore c := keepUser_of_store (by simp [setMyCore_me])
  have hr : ((s.withTv tv).setMyCore c).regs = c.regs s.cur.ctx := congrArg (·.regs s.cur.ctx) (State.myCore_setMyCore _ _)
  rw [passed, hk, hr]

theorem passed_coreWrote (s : State) (tv : Word64) (c : Core) (sy : Sync) (posts : List Post) :
    CoreWrote s (passed s ((s.withTv tv).setMyCore c) sy posts) c := by
  rw [passed_setMyCore]
  obtain ⟨⟨ho, ht, hc, -, -⟩, hst, he, -, hr⟩ := accepted ((s.withTv tv).setMyCore c) (loopNext (c.regs s.cur.ctx) (c.regs s.cur.ctx).pc) sy posts
  rw [State.myCore_setMyCore] at hc
  rw [setMyCore_me] at ht hst he
  exact ⟨hr, hc, ⟨fun k hk => (ho.tiles k hk).trans (State.tile_setMe_ne (s.withTv tv) k _ hk), ho.hbm, ho.sectors, ho.pages,
    ho.disp, ho.fab, ho.host, ho.time, ho.gang, ho.hk, ho.sec, ho.ctrs⟩, (SameTileRest.setCore _ _ c).trans ht, by rw [hst]; simp, by rw [he]; simp⟩

/-- Where the stream stays live or not, the tokens of the SYNC field move as ever. -/
theorem passed_setMyCore_tokens (s : State) (tv : Word64) {c : Core} (h : c.u.life = s.myCore.u.life) (sy : Sync) (posts : List Post) :
    TokensMoved s (passed s ((s.withTv tv).setMyCore c) sy posts) sy posts := by
  rw [passed_setMyCore]
  have ht := (accepted ((s.withTv tv).setMyCore c) (loopNext (c.regs s.cur.ctx) (c.regs s.cur.ctx).pc) sy posts).tokens
  have hq : SameQueues s.me ((s.withTv tv).setMyCore c).me := by rw [setMyCore_me]; exact .setCore_self h
  exact ht.trans ((hq.popWait s.cur.stream sy.wait).makePosts s.cur.stream posts).queues

/-- With a zero SYNC field no queue changes, and a service context leaves its core's user context as its effect has it. -/
theorem passed_setMyCore_silent {s : State} (h : s.cur.ctx = .service) (tv : Word64) (c : Core) :
    (passed s ((s.withTv tv).setMyCore c) {} []).myCore.u = c.u ∧ (passed s ((s.withTv tv).setMyCore c) {} []).me.queues = s.me.queues := by
  have ha : ∀ x : State, accept x {} [] = x := fun x => State.setMe_me x
  have hme := retire_me (((s.withTv tv).setMyCore c).setRegs (loopNext (c.regs s.cur.ctx) (c.regs s.cur.ctx).pc))
  rw [passed_setMyCore, ha]
  refine ⟨?_, by rw [hme]; simp [setMyCore_me]⟩
  refine (congrArg (fun x : Tile => (x.core s.cur.stream).u) hme).trans ?_
  simp [State.setRegs, h, Core.setRegs]

/-! ### CTLRD and CTLWR (R22-R26, R89, R92, R362) -/

/-- The meaning of CTLWR. -/
def ctlwrBody (num : BitVec 8) (b : SrcLit) (s : State) : Flow :=
  if flagsWait s num.toNat then .stall .other
  else if num.toNat < 0x40 then setOwnCtl s num.toNat (s.srcZ b)
  else setSv s num.toNat (s.srcZ b)

theorem execCtlwr_eq (num : BitVec 8) (b : SrcLit) (sy : Sync) (s : State) : execCtlwr num b sy s = run (.ctlwr num b sy) (ctlwrBody num b) s := rfl

theorem ctlwrBody_own {num : BitVec 8} {s : State} (hf : flagsWait s num.toNat = false) (hn : num.toNat < 0x40) (tv : Word64) (b : SrcLit) :
    ctlwrBody num b (s.withTv tv) = setOwnCtl (s.withTv tv) num.toNat ((s.withTv tv).srcZ b) :=
  (if_neg (Bool.eq_false_iff.mp hf)).trans (if_pos hn)

theorem ctlwrBody_sv {num : BitVec 8} (hn : 0x40 ≤ num.toNat) (s : State) (b : SrcLit) :
    ctlwrBody num b s = setSv s num.toNat (s.srcZ b) := by
  have hf : flagsWait s num.toNat = false := by
    have : num.toNat ≠ 0 := by omega
    simp [flagsWait, this]
  exact (if_neg (Bool.eq_false_iff.mp hf)).trans (if_neg (Nat.not_lt.mpr hn))

/-- The register number as it is reported. -/
theorem ofNat_toNat32 (num : BitVec 8) : BitVec.ofNat 32 num.toNat = num.setWidth 32 := BitVec.ofNat_toNat 32 num

theorem setOwnCtl_bad {n : Nat} {v : Word64} (h : ctlWriteOk n v = false) (s : State) : setOwnCtl s n v = illegal (BitVec.ofNat 32 n) := by
  simp [setOwnCtl, h]

theorem setOwnCtl_regs {n : Nat} {v : Word64} (h : ctlWriteOk n v = true) (hn : n ≠ 0x0A) (s : State) :
    setOwnCtl s n v = ok (s.setRegs (s.regs.setCtl n v)) := by
  simp [setOwnCtl, h, hn]

/-- ctl.wdog: a service context in share mode leaves the stream's exponent (R161, log entry 12). -/
theorem setOwnCtl_wdog {v : Word64} (h : ctlWriteOk 0x0A v = true) (s : State) :
    setOwnCtl s 0x0A v = if s.cur.ctx = .service ∧ s.myCore.v.mode = .share then ok s else ok (setWdog s v) := by
  simp [setOwnCtl, h]

/-- The acting core with its watchdog exponent written (R22). -/
def wdogCore (c : Core) (v : Word64) : Core := { c with u := { c.u with wdog := v.setWidth 6 } }

theorem setWdog_eq (s : State) (v : Word64) : setWdog s v = s.setMyCore (wdogCore s.myCore v) := rfl

@[simp] theorem wdogCore_regs (c : Core) (v : Word64) (k : CtxKind) : (wdogCore c v).regs k = c.regs k := by cases k <;> rfl

/-- R22-R24, R89: CTLWR is `setOwnCtl` under the checks of issue, legal or not, on ctl.wdog or another register. -/
theorem controlRegisterWrite : ControlRegisterWrite := by
  intro num b sy s tv hp hn hf v legal
  have hb : ctlwrBody num b (s.withTv tv) = setOwnCtl (s.withTv tv) num.toNat v := ctlwrBody_own hf hn tv b
  have hnum : ∀ k : BitVec 8, num.toNat = k.toNat → num = k := fun k => BitVec.eq_of_toNat_eq
  have hlegal : legal ↔ ctlWriteOk num.toNat v = true := by
    rw [ctlWriteOk_iff]
    exact ⟨fun h => ⟨fun e => h.1 (hnum 0x01 e), fun e => h.2 (hnum 0x0A e)⟩,
      fun h => ⟨fun e => h.1 (by rw [e]; rfl), fun e => h.2 (by rw [e]; rfl)⟩⟩
  rw [exec_ctlwr, execCtlwr_eq]
  refine ⟨fun hl hne => ?_, fun hl he hc hm => ?_, fun hl he hu => ?_, fun hl => ?_⟩
  · rw [setOwnCtl_regs (hlegal.mp hl) fun e => hne (hnum 0x0A e)] at hb
    obtain ⟨t, ht, hr, hregs⟩ := run_setRegs hp hb (setCtl_pc _ _ _)
    exact ⟨t, _, ht, hr, hregs, setCtl_g _ _ _, setCtl_p _ _ _, setCtl_pc _ _ _, fun m => ctlVal_setCtl _ _ _ _ _ _ _⟩
  · subst he
    exact run_nothing hp (hb.trans ((setOwnCtl_wdog (hlegal.mp hl) _).trans (if_pos ⟨hc, hm⟩)))
  · subst he
    have hnot : ¬(s.cur.ctx = .service ∧ s.myCore.v.mode = .share) := fun ⟨hc, hm⟩ => hu.elim (fun h => by rw [h] at hc; cases hc) (· hm)
    have hb : ctlwrBody 0x0A b (s.withTv tv) = ok ((s.withTv tv).setMyCore (wdogCore s.myCore v)) :=
      hb.trans ((setOwnCtl_wdog (hlegal.mp hl) _).trans (if_neg hnot))
    have hw := passed_coreWrote s tv (wdogCore s.myCore v) sy (syncPost s sy)
    have hrun : run (.ctlwr 0x0A b sy) (ctlwrBody 0x0A b) s =
        .next (passed s ((s.withTv tv).setMyCore (wdogCore s.myCore v)) sy (syncPost s sy)) := run_ok hp hb
    refine ⟨_, hrun, ?_, hw.core.wdog, hw.store, hw.eng, hw.outside, hw.tile, passed_setMyCore_tokens s tv (c := wdogCore s.myCore v) rfl sy _⟩
    rw [hw.regs, wdogCore_regs]; rfl
  · rw [setOwnCtl_bad (Bool.eq_false_iff.mpr (mt hlegal.mpr hl)), ofNat_toNat32] at hb
    exact run_trap hp hb

/-- The meaning of CTLRD. -/
def ctlrdBody (d : Fin 32) (num : BitVec 8) (s : State) : Flow :=
  if flagsWait s num.toNat then .stall .other else ok (s.writeG d (ctlrdVal s num.toNat))

theorem execCtlrd_eq (d : Fin 32) (num : BitVec 8) (sy : Sync) (s : State) : execCtlrd d num sy s = run (.ctlrd d num sy) (ctlrdBody d num) s := rfl

/-- No control register reads tv. -/
theorem ctlrdVal_withTv (s : State) (tv : Word64) (n : Nat) : ctlrdVal (s.withTv tv) n = ctlrdVal s n := by
  have hctl : ∀ t st r n, ctlVal (s.withTv tv) t st r n = ctlVal s t st r n := fun _ _ _ _ => rfl
  have hslot : ∀ j t, saveSlot (s.withTv tv) j t = saveSlot s j t := fun _ _ => rfl
  simp only [ctlrdVal, svVal, hctl, hslot, State.withTv_me, State.withTv_myCore, State.withTv_regs, State.withTv_stream, State.withTv_curTile]

/-- svstat.MODE as bits. -/
def modeBits : SvMode → BitVec 2
  | .share => 0
  | .alone => 1
  | .entered => 2

theorem modeCode_eq (m : SvMode) : modeCode m = (modeBits m).toNat := by cases m <;> rfl

/-- ctl.svstat, bit by bit (R362). -/
theorem svstatVal_eq (x : Tile) (c : Core) :
    svstatVal x c = (0 : BitVec 48) ++ x.drain.trig ++ BitVec.ofBool x.drain.preq ++ BitVec.ofBool x.drain.restore ++
      BitVec.ofBool (x.drain.drained || x.drain.restore) ++ BitVec.ofBool x.drain.draining ++ (0 : BitVec 1) ++
      BitVec.ofBool x.drain.spend.isSome ++ modeBits c.v.mode := by
  have happ : ∀ {m n : Nat} (a : BitVec m) (b : BitVec n), (a ++ b).toNat = a.toNat * 2 ^ n + b.toNat := fun a b => by
    rw [BitVec.toNat_append, ← Nat.shiftLeft_add_eq_or_of_lt b.isLt, Nat.shiftLeft_eq]
  have hmode := (modeBits c.v.mode).isLt
  have htrig := x.drain.trig.isLt
  have hbit := Bool.toNat_lt
  have hpreq := hbit x.drain.preq
  have hrestore := hbit x.drain.restore
  have hdrained := hbit (x.drain.drained || x.drain.restore)
  have hdraining := hbit x.drain.draining
  have hspend := hbit x.drain.spend.isSome
  apply BitVec.eq_of_toNat_eq
  simp only [svstatVal, happ, modeCode_eq, BitVec.ofNat_eq_ofNat, BitVec.toNat_ofNat, BitVec.toNat_ofBool, ofBool_eq_toNat]
  omega

/-- The save slot of a tile (R379). -/
theorem saveSlot_eq (s : State) (j : Nat) (t : TileId) :
    saveSlot s j t.val =
      if (s.job j).jsave.getLsbD 0 then ((s.job j).jsave.extractLsb' 25 32).setWidth 64 <<< 25 + BitVec.ofNat 64 (2 ^ 25 * t.val) else 0 := by
  show (if (s.job j).jsave.getLsbD 0 then BitVec.ofNat 64 ((s.job j).jsave.toNat / 2 ^ 25 % 2 ^ 32 * 2 ^ 25 + 2 ^ 25 * t.val) else 0) = _
  split
  · apply BitVec.eq_of_toNat_eq
    have ht := t.isLt
    simp only [BitVec.toNat_ofNat, BitVec.toNat_add, BitVec.toNat_shiftLeft, BitVec.toNat_setWidth, BitVec.extractLsb'_toNat, Nat.shiftRight_eq_div_pow,
      Nat.shiftLeft_eq]
    omega
  · rfl

/-- ctl.ustate (R362). -/
theorem ustateVal_eq (c : Core) :
    ustateVal c = (match c.u.life with | .live => 0 | .exited => 1 | .absent => 2) + (c.u.exitVal.setWidth 64 <<< 32) := by
  have hx := c.u.exitVal.isLt
  cases h : c.u.life
  all_goals
    apply BitVec.eq_of_toNat_eq
    simp only [ustateVal, h, lifeCode, BitVec.ofNat_eq_ofNat, BitVec.toNat_ofNat, BitVec.toNat_add, BitVec.toNat_shiftLeft, BitVec.toNat_setWidth,
      Nat.shiftLeft_eq]
    omega

/-- A general register of the user window (R362). -/
theorem svVal_g (s : State) (n : Fin 32) : svVal s (0x80 + n.val) = s.myCore.u.regs.readG n := by
  have hn := n.isLt
  unfold svVal
  rw [if_neg (by omega), if_neg (by omega), if_neg (by omega), if_neg (by omega), if_neg (by omega), if_neg (by omega), dif_pos (by omega)]
  exact congrArg _ (Fin.ext (Nat.add_sub_cancel_left _ _))

/-- A control register of the user context in its window (R362). -/
theorem svVal_ctl (s : State) (n : Nat) : svVal s (0xC0 + n) = ctlVal s s.cur.tile s.cur.stream s.myCore.u.regs n := by
  unfold svVal
  rw [if_neg (by omega), if_neg (by omega), if_neg (by omega), if_neg (by omega), if_neg (by omega), if_neg (by omega), dif_neg (by omega),
    if_neg (by omega), if_neg (by omega), if_neg (by omega), Nat.add_sub_cancel_left]

/-- A doubleword of the trap record (R362). -/
theorem svVal_trec (s : State) (i : Nat) (h : i < 8) : svVal s (0x48 + i) = BitVec.ofNat 64 ((trecWords s.myCore.v.trec)[i]'h) := by
  unfold svVal
  rw [if_neg (by omega), if_neg (by omega), if_neg (by omega), if_neg (by omega), if_neg (by omega), if_pos (by omega), Nat.add_sub_cancel_left]
  exact trecField _ i h

theorem ofNat_toNat64 (v : Word64) : BitVec.ofNat 64 v.toNat = v := (BitVec.ofNat_toNat 64 v).trans (BitVec.setWidth_eq v)

/-- The doublewords of an instruction word. -/
theorem low_eq_setWidth (w : Word128) : BitVec.ofNat 64 (w.toNat % 2 ^ 64) = w.setWidth 64 :=
  BitVec.eq_of_toNat_eq (by rw [BitVec.toNat_ofNat, Nat.mod_mod, BitVec.toNat_setWidth])
theorem high_eq_extractLsb' (w : Word128) : BitVec.ofNat 64 (w.toNat / 2 ^ 64) = w.extractLsb' 64 64 :=
  BitVec.eq_of_toNat_eq (by rw [BitVec.toNat_ofNat, BitVec.extractLsb'_toNat, Nat.shiftRight_eq_div_pow])

/-- R89, R92, R362: CTLRD writes `ctlrdVal`, whose value at each register is read off its equations. -/
theorem controlRegisterRead : ControlRegisterRead := by
  refine ⟨fun d num sy s tv hp hf => ?_, fun s => ?_⟩
  · have hb : ctlrdBody d num (s.withTv tv) = ok ((s.withTv tv).writeG d (ctlrdVal s num.toNat)) := by
      rw [← ctlrdVal_withTv s tv]
      exact if_neg (Bool.eq_false_iff.mp hf)
    exact run_writeG hp hb
  · intro c u
    have own : ∀ n, n < 0x40 → ctlrdVal s n = ctlVal s s.cur.tile s.cur.stream s.regs n := fun n hn => if_pos hn
    have window : ∀ n, 0x40 ≤ n → ctlrdVal s n = svVal s n := fun n hn => if_neg (Nat.not_lt.mpr hn)
    have record : ∀ i (h : i < 8), ctlrdVal s (0x48 + i) = BitVec.ofNat 64 ((trecWords c.v.trec)[i]'h) := fun i h =>
      (window _ (by omega)).trans (svVal_trec s i h)
    refine ⟨own 0x00 (by omega), own 0x01 (by omega), own 0x02 (by omega), own 0x03 (by omega), own 0x04 (by omega), ?_, ?_, own 0x07 (by omega),
      own 0x08 (by omega), own 0x09 (by omega), own 0x0A (by omega), own 0x10 (by omega), own 0x11 (by omega), own 0x12 (by omega),
      own 0x13 (by omega), own 0x14 (by omega), own 0x15 (by omega), window 0x40 (by omega), window 0x41 (by omega), window 0x44 (by omega),
      (window 0x42 (by omega)).trans (svstatVal_eq _ _), ?_, (window 0xA2 (by omega)).trans (ustateVal_eq _),
      fun n => (window _ (by omega)).trans (svVal_g s n),
      window 0xA1 (by omega), fun n _ => (window _ (by omega)).trans (svVal_ctl s n), fun k => ?_,
      record 0 (by omega), (record 1 (by omega)).trans (ofNat_toNat64 _), (record 2 (by omega)).trans (low_eq_setWidth _),
      (record 3 (by omega)).trans (high_eq_extractLsb' _), (record 4 (by omega)).trans (ofNat_toNat64 _), record 5 (by omega),
      (record 6 (by omega)).trans (ofNat_toNat64 _), (record 7 (by omega)).trans (ofNat_toNat64 _)⟩
    · refine (own 0x05 (by omega)).trans ?_
      show BitVec.ofNat 64 (taskIndex s.me) = _
      unfold taskIndex
      cases s.me.task <;> rfl
    · refine (own 0x06 (by omega)).trans ?_
      show BitVec.ofNat 64 (streamCode s.cur.stream) = _
      cases s.cur.stream <;> rfl
    · refine (window 0x43 (by omega)).trans ?_
      show (match s.me.task with | some k => saveSlot s k.job.val s.cur.tile.val | none => 0) = _
      cases s.me.task with
      | none => rfl
      | some k => exact saveSlot_eq s _ _
    · rw [window _ (by omega)]
      exact predBits_getLsbD _ k

/-- A CTLWR of a service context whose effect is the acting core `c`: what `CoreWrote` says, the user context as in `c`, and no queue changed, since its
SYNC field is zero (R44). -/
structure ServiceWrote (s t : State) (c : Core) : Prop extends CoreWrote s t c where
  user : t.myCore.u = c.u
  queues : t.me.queues = s.me.queues

theorem exec_serviceWrote {num : BitVec 8} {b : SrcLit} {s : State} {tv : Word64} {c : Core} (hp : Passes (.ctlwr num b {}) s tv [])
    (hc : s.cur.ctx = .service) (hb : ctlwrBody num b (s.withTv tv) = ok ((s.withTv tv).setMyCore c)) :
    ∃ t, exec (.ctlwr num b {}) s = .next t ∧ ServiceWrote s t c := by
  obtain ⟨hu, hq⟩ := passed_setMyCore_silent hc tv c
  exact ⟨_, run_ok hp hb, passed_coreWrote s tv c {} [], hu, hq⟩

/-- Where the service context's registers stand, they advance by the loop check. -/
theorem ServiceWrote.regs_eq {s t : State} {c : Core} (h : ServiceWrote s t c) (hc : s.cur.ctx = .service) (hr : c.v.regs = s.myCore.v.regs) :
    t.regs = loopNext s.regs s.pc := by
  have hs : c.regs s.cur.ctx = s.regs := by
    rw [State.regs, hc]; exact hr
  rw [h.regs, hs]; rfl

/-- A write of a user context: beside it only the service context's PC and loops advance. -/
theorem exec_userWrote {num : BitVec 8} {b : SrcLit} {s : State} {tv : Word64} {u : UserCtx} (hp : Passes (.ctlwr num b {}) s tv [])
    (hc : s.cur.ctx = .service) (hb : ctlwrBody num b (s.withTv tv) = ok ((s.withTv tv).setMyCore { s.myCore with u := u })) :
    ∃ t, exec (.ctlwr num b {}) s = .next t ∧ t.myCore.u = u ∧ t.regs = loopNext s.regs s.pc ∧ SameOutside s t ∧
      t.me.store = s.me.store ∧ t.me.eng = s.me.eng ∧ t.me.queues = s.me.queues ∧ SameTileRest s.cur.stream s.me t.me ∧
      SameCoreRest .service { s.myCore with u := u } t.myCore := by
  obtain ⟨t, ht, hw⟩ := exec_serviceWrote hp hc hb
  exact ⟨t, ht, hw.user, hw.regs_eq hc rfl, hw.outside, hw.store, hw.eng, hw.queues, hw.tile, hc ▸ hw.core⟩

/-! ### The user windows of a service context (R362) -/

/-- The module with the acting core's user context replaced. -/
def State.setUser (s : State) (u : UserCtx) : State := s.setMyCore { s.myCore with u := u }

theorem State.setMyCore_myCore (s : State) : s.setMyCore s.myCore = s := by simp [State.setMyCore, State.myCore]

theorem setUserRegs_eq (s : State) (r : Regs) : setUserRegs s r = s.setUser { s.myCore.u with regs := r } := rfl

theorem setSv_window {s : State} {n : Nat} (hn : 0x80 ≤ n) (hm : s.myCore.v.mode ≠ .share) (v : Word64) : setSv s n v = setWindow s n v := by
  rw [setSv, if_neg (by omega), if_neg (by omega), if_neg (by omega)]
  exact if_neg hm

theorem setSv_refused {s : State} {n : Nat} (hn : 0x80 ≤ n) (hm : s.myCore.v.mode = .share) (v : Word64) :
    setSv s n v = illegal (BitVec.ofNat 32 n) := by
  rw [setSv, if_neg (by omega), if_neg (by omega), if_neg (by omega)]
  exact if_pos hm

theorem setSv_other {n : Nat} (h0 : n ≠ 0x40) (h1 : n ≠ 0x41) (hn : n < 0x80) (s : State) (v : Word64) : setSv s n v = ok s := by
  simp [setSv, h0, h1, hn]

theorem setWindow_g (s : State) (n : Fin 32) (v : Word64) :
    setWindow s (0x80 + n.val) v = ok (s.setUser { s.myCore.u with regs := s.myCore.u.regs.writeG n v }) := by
  have hn := n.isLt
  have hk : (⟨0x80 + n.val - 0x80, by omega⟩ : Fin 32) = n := Fin.ext (Nat.add_sub_cancel_left _ _)
  rw [setWindow, dif_pos (by omega), hk]
  rfl

theorem setWindow_p (s : State) (v : Word64) : setWindow s 0xA0 v = ok (s.setUser { s.myCore.u with regs := setPredBits s.myCore.u.regs v }) := rfl

theorem setWindow_pc (s : State) (v : Word64) : setWindow s 0xA1 v = ok (s.setUser { s.myCore.u with regs := { s.myCore.u.regs with pc := v } }) := rfl

/-- A stream's state, by its code (R362). -/
def lifeOf (n : Nat) : Life := if n = 0 then .live else if n = 1 then .exited else .absent

theorem setUstate_ok {v : Word64} (h : v.toNat % 4 ≠ 3) (s : State) :
    setUstate s v = ok (s.setUser { s.myCore.u with life := lifeOf (v.toNat % 4), exitVal := v.extractLsb' 32 32 }) := by
  have hx : (v >>> 32).setWidth 32 = v.extractLsb' 32 32 := BitVec.eq_of_toNat_eq (by simp)
  unfold setUstate lifeOf
  dsimp only
  rw [hx]
  split
  case h_1 h0 => rw [h0]; rfl
  case h_2 h1 => rw [h1]; rfl
  case h_3 h2 => rw [h2]; rfl
  case h_4 h0 h1 h2 =>
    have hcode : v.toNat % 4 = 0 ∨ v.toNat % 4 = 1 ∨ v.toNat % 4 = 2 := by omega
    obtain e | e | e := hcode
    · exact absurd e h0
    · exact absurd e h1
    · exact absurd e h2

theorem setUstate_bad {v : Word64} (h : v.toNat % 4 = 3) (s : State) : setUstate s v = illegal 0xA2 := by
  simp only [setUstate, h]

theorem setWindow_ustate (s : State) (v : Word64) :
    setWindow s 0xA2 v = if s.me.drain.restore then setUstate s v else illegal 0xA2 := rfl

theorem setWindow_bad {k : Nat} {v : Word64} (h : ctlWriteOk k v = false) (s : State) :
    setWindow s (0xC0 + k) v = illegal (BitVec.ofNat 32 (0xC0 + k)) := by
  rw [setWindow, dif_neg (by omega), if_neg (by omega), if_neg (by omega), if_neg (by omega), Nat.add_sub_cancel_left, h]
  rfl

theorem setWindow_ctl {k : Nat} {v : Word64} (h : ctlWriteOk k v = true) (h9 : k ≠ 9) (h10 : k ≠ 10) (s : State) :
    setWindow s (0xC0 + k) v = ok (s.setUser { s.myCore.u with regs := s.myCore.u.regs.setCtl k v }) := by
  rw [setWindow, dif_neg (by omega), if_neg (by omega), if_neg (by omega), if_neg (by omega), Nat.add_sub_cancel_left, h, if_neg (by decide),
    if_neg (by omega), if_neg (by omega)]
  rfl

theorem setWindow_lost (s : State) (v : Word64) : setWindow s 0xC9 v = ok (s.setUser { s.myCore.u with lost := v.setWidth 32 }) := rfl

theorem setWindow_wdog {v : Word64} (h : ctlWriteOk 0x0A v = true) (s : State) :
    setWindow s 0xCA v = ok (s.setUser { s.myCore.u with wdog := v.setWidth 6 }) := by
  have h' : (!ctlWriteOk (0xCA - 0xC0) v) = false := by rw [h]; rfl
  simp [setWindow, h']
  rfl

/-- R362: each write is `setSv`'s effect on the acting core alone, carried through acceptance by `exec_serviceWrote`. -/
theorem serviceRegisterWrite : ServiceRegisterWrite := by
  intro num b s tv hp hc hn v u gives
  have hb : ctlwrBody num b (s.withTv tv) = setSv (s.withTv tv) num.toNat v := ctlwrBody_sv hn _ _
  have hwin : s.myCore.v.mode ≠ .share → 0x80 ≤ num.toNat → ctlwrBody num b (s.withTv tv) = setWindow (s.withTv tv) num.toNat v := fun hm h =>
    hb.trans (setSv_window (s := s.withTv tv) h hm v)
  have hgive : ∀ r, ctlwrBody num b (s.withTv tv) = ok ((s.withTv tv).setUser { s.myCore.u with regs := r }) → gives r := fun r h => by
    obtain ⟨t, ht, hu, hr, ho, hst, he, hq, htile, hcore⟩ := exec_userWrote hp hc h
    exact ⟨t, ht, by rw [hu], hr, ho, hst, he, hq, htile, hcore.mode, hcore.trec⟩
  have hset : ∀ w, ctlwrBody num b (s.withTv tv) = ok ((s.withTv tv).setUser w) → ∃ t, exec (.ctlwr num b {}) s = .next t ∧
      t.regs = loopNext s.regs s.pc ∧ SameOutside s t ∧ t.me.store = s.me.store ∧ t.me.eng = s.me.eng ∧ t.me.queues = s.me.queues ∧
      SameTileRest s.cur.stream s.me t.me ∧ t.myCore.u = w := fun w h => by
    obtain ⟨t, ht, hu, hr, ho, hst, he, hq, htile, -⟩ := exec_userWrote hp hc h
    exact ⟨t, ht, hr, ho, hst, he, hq, htile, hu⟩
  have hbad : ∀ info, ctlwrBody num b (s.withTv tv) = illegal info → exec (.ctlwr num b {}) s = .next (takeTrap s { cause := 0x01, info := info }) :=
    fun info h => run_trap hp h
  refine ⟨?_, ?_, ?_, ?_, ?_, ?_, ?_, ?_, ?_, ?_, ?_, ?_, ?_, ?_⟩
  · rintro rfl
    obtain ⟨t, ht, hw⟩ := exec_serviceWrote (c := { s.myCore with v := { s.myCore.v with share := v.setWidth 8 } }) hp hc hb
    exact ⟨t, ht, hw.core.share, hw.regs_eq hc rfl, hw.user, hw.outside, hw.tile⟩
  · rintro rfl
    obtain ⟨t, ht, hw⟩ := exec_serviceWrote (c := { s.myCore with v := { s.myCore.v with vec := loopAddr v } }) hp hc hb
    exact ⟨t, ht, hw.core.vec, hw.regs_eq hc rfl, hw.user, hw.outside, hw.tile⟩
  · intro h hm
    rw [setSv_refused (s := s.withTv tv) h hm, ofNat_toNat32] at hb
    exact hbad _ hb
  · intro hm n h
    have hw := hwin hm (by omega)
    rw [h, setWindow_g] at hw
    exact hgive _ hw
  · rintro hm rfl
    refine ⟨_, hgive _ ((hwin hm (by decide)).trans (setWindow_p _ _)), fun k hk => ?_, rfl, rfl⟩
    simp [Regs.readP, setPredBits, hk]
  · rintro hm rfl
    exact hgive _ ((hwin hm (by decide)).trans (setWindow_pc _ _))
  · rintro hm rfl hv
    have hok : ctlWriteOk 1 v = true := decide_eq_true hv
    exact hgive _ ((hwin hm (by decide)).trans (setWindow_ctl hok (by decide) (by decide) _))
  · rintro hm rfl hv
    have hno : ctlWriteOk 1 v = false := decide_eq_false (Nat.not_lt.mpr hv)
    exact hbad _ ((hwin hm (by decide)).trans (setWindow_bad hno _))
  · rintro hm rfl hr
    refine hbad _ ((hwin hm (by decide)).trans ((setWindow_ustate _ _).trans ?_))
    cases h : s.me.drain.restore with
    | false => exact if_neg (by rw [State.withTv_me, h]; decide)
    | true => exact (if_pos h).trans (setUstate_bad (hr.resolve_left (by rw [h]; decide)) _)
  · rintro hm rfl hr hv
    exact hset _ ((hwin hm (by decide)).trans ((setWindow_ustate _ _).trans ((if_pos hr).trans (setUstate_ok hv _))))
  · intro hm n h h1 h9 h10
    have hok : ctlWriteOk n v = true := (ctlWriteOk_iff n v).mpr ⟨fun e => absurd e h1, fun e => absurd e h10⟩
    have hw := hwin hm (by omega)
    rw [h, setWindow_ctl hok h9 h10] at hw
    exact ⟨_, hgive _ hw, setCtl_g _ _ _, setCtl_p _ _ _, setCtl_pc _ _ _, fun m => ctlVal_setCtl _ _ _ _ _ _ _⟩
  · rintro hm (rfl | ⟨rfl, h⟩)
    · exact hset _ ((hwin hm (by decide)).trans (setWindow_lost _ _))
    · have hok : ctlWriteOk 0x0A v = true := (ctlWriteOk_iff _ v).mpr ⟨fun e => absurd e (by decide), fun _ => h⟩
      exact hset _ ((hwin hm (by decide)).trans (setWindow_wdog hok _))
  · rintro hm rfl h
    have hno : ctlWriteOk 0x0A v = false := Bool.eq_false_iff.mpr fun e => h (((ctlWriteOk_iff _ v).mp e).2 rfl)
    exact hbad _ ((hwin hm (by decide)).trans (setWindow_bad hno _))
  · intro h0 h1 h
    have e0 : num.toNat ≠ 0x40 := fun e => h0 (BitVec.eq_of_toNat_eq e)
    have e1 : num.toNat ≠ 0x41 := fun e => h1 (BitVec.eq_of_toNat_eq e)
    have hself : (s.withTv tv).setMyCore s.myCore = s.withTv tv := State.setMyCore_myCore (s.withTv tv)
    have hb' : ctlwrBody num b (s.withTv tv) = ok ((s.withTv tv).setMyCore s.myCore) := by
      rw [hself]; exact hb.trans (setSv_other e0 e1 h _ _)
    refine ⟨hgive _ hb', fun t ht => ?_⟩
    obtain ⟨t', ht', hw⟩ := exec_serviceWrote hp hc hb'
    obtain rfl : t = t' := Host.Outcome.next.inj (ht.symm.trans ht')
    exact ⟨hw.core.share, hw.core.vec, hw.core.ridge, hw.user⟩

/-- Settles O46, with CTLWR of the acting context's own registers, CTLRD of every register, and CTLWR of the service registers and windows. -/
theorem controlRegistersReadAndWritten : Obligations.ControlRegistersReadAndWritten :=
  ⟨controlRegisterWrite, controlRegisterRead, serviceRegisterWrite⟩

end Sys2Proof.Machine
